-- ==== Sys2Proof/Word.lean ====
section
/-! DEFINITION. The word types of the part and the names of its numbered things (spec/00_scope.md, "Conventions"). -/

namespace Sys2Proof

/-- One byte of a frame, an identity record or a message body. -/
abbrev Byte := BitVec 8

/-- A run-second count or a journal sequence number: 32 bits, wrapping (R163, R178). -/
abbrev Word32 := BitVec 32

/-- A set of plant areas, area `a` being bit `a` (R206). -/
abbrev AreaSet := BitVec 64

/-- A set of attention classes, class `n` being bit `n` (R184, R206). -/
abbrev ClassSet := BitVec 8

/-- The number of an operator key, three bytes on the wire (R64, R205). -/
abbrev KeyNumber := BitVec 24

/-- A point tag, 0 to 1023 (R1). -/
abbrev Tag := Fin 1024

/-- A plant area, 0 to 63 (R2). -/
abbrev Area := Fin 64

/-- The index of an operator record, 0 to 63 (R80). -/
abbrev OpIndex := Fin 64

end Sys2Proof
end

