-- ==== Sys2Proof/Syntax.lean ====
section
/-! DEFINITION. The commands of the block: one constructor for each row of spec/opcode_table.json. -/

namespace Sys2Proof

/-- The six desks (00 "Identifiers"). -/
inductive Desk where
  | d0 | d1 | d2 | d3 | d4 | d5
  deriving DecidableEq, Repr

/-- The two key slots of a desk. -/
inductive SlotId where
  | a | b
  deriving DecidableEq, Repr

/-- The two detect contacts of a key slot (R64). -/
inductive Contact where
  | c1 | c2
  deriving DecidableEq, Repr

/-- The two supervisory links. -/
inductive Link where
  | s0 | s1
  deriving DecidableEq, Repr

/-- The four event links. -/
inductive EventLink where
  | e0 | e1 | e2 | e3
  deriving DecidableEq, Repr

/-- Six bytes in the order they are received: a key identity record or an intake frame (R205). -/
structure SixBytes where
  b0 : Byte
  b1 : Byte
  b2 : Byte
  b3 : Byte
  b4 : Byte
  b5 : Byte
  deriving DecidableEq, Repr

/-- The commands. A frame command is a well-formed frame being taken from a supervisory link as its last byte
arrives (R193): the link, the frame's tag byte and its body bytes, whatever their number. -/
inductive Instr where
  -- frames whose type the part accepts, in the order of the table
  | setPoint (link : Link) (tag : Byte) (body : List Byte)
  | clearPoint (link : Link) (tag : Byte) (body : List Byte)
  | assignArea (link : Link) (tag : Byte) (body : List Byte)
  | setOperator (link : Link) (tag : Byte) (body : List Byte)
  | clearOperator (link : Link) (tag : Byte) (body : List Byte)
  | ack (link : Link) (tag : Byte) (body : List Byte)
  | silence (link : Link) (tag : Byte) (body : List Byte)
  | shelve (link : Link) (tag : Byte) (body : List Byte)
  | unshelve (link : Link) (tag : Byte) (body : List Byte)
  | handoverOpen (link : Link) (tag : Byte) (body : List Byte)
  | handoverCancel (link : Link) (tag : Byte) (body : List Byte)
  | handoverCommit (link : Link) (tag : Byte) (body : List Byte)
  | brief (link : Link) (tag : Byte) (body : List Byte)
  | timeMark (link : Link) (tag : Byte) (body : List Byte)
  | setSchedule (link : Link) (tag : Byte) (body : List Byte)
  | setDesk (link : Link) (tag : Byte) (body : List Byte)
  | setLimits (link : Link) (tag : Byte) (body : List Byte)
  | setFlash (link : Link) (tag : Byte) (body : List Byte)
  | attnControl (link : Link) (tag : Byte) (body : List Byte)
  | attnClear (link : Link) (tag : Byte) (body : List Byte)
  | storeSave (link : Link) (tag : Byte) (body : List Byte)
  | takeCommand (link : Link) (tag : Byte) (body : List Byte)
  | reset (link : Link) (tag : Byte) (body : List Byte)
  | status (link : Link) (tag : Byte) (body : List Byte)
  | pointRead (link : Link) (tag : Byte) (body : List Byte)
  | listRead (link : Link) (tag : Byte) (body : List Byte)
  | journalRead (link : Link) (tag : Byte) (body : List Byte)
  | deskRead (link : Link) (tag : Byte) (body : List Byte)
  | operatorRead (link : Link) (tag : Byte) (body : List Byte)
  | timeRead (link : Link) (tag : Byte) (body : List Byte)
  /-- A well-formed frame of a type the part does not accept (R193). -/
  | unacceptedTypeFrame (link : Link) (type : Byte) (tag : Byte) (body : List Byte)
  /-- The frame inside the link's receiver is rejected: its check fails, or its length exceeds 120 (R191). -/
  | frameCheckFailed (link : Link)
  /-- More than 20 ms pass between two bytes of a frame (R191). -/
  | frameByteGapTimeout (link : Link)
  /-- The last byte of the frame the link is sending has gone (R193). -/
  | frameSendComplete (link : Link)
  /-- The link's opportunity to send the notice it has waiting (R187). -/
  | attention (link : Link)
  /-- The link silence timer reaches its expiry (R197). -/
  | linkLost
  /-- Bytes divided off on an event link by its idle interval (R26). -/
  | intakeFrame (link : EventLink) (bytes : List Byte)
  /-- The head of an intake queue is taken (R28). -/
  | intakeTake (link : EventLink)
  /-- A second passes (R163). -/
  | secondEvent
  /-- The alarm engine's work at a minute tick (R52). -/
  | escalation
  /-- The load monitor's work at a minute tick (R56, R58). -/
  | loadUpdate
  /-- The desk units' work at a minute tick (R144). -/
  | dueLate
  /-- A pulse of the mill master clock (R173). -/
  | minutePulse
  /-- The shelving of the point runs out (R112). -/
  | shelfExpiry (point : Tag)
  /-- The limit expiry of the desk's handover (R136). -/
  | handoverTimeout (desk : Desk)
  /-- The store write ends; `agrees` says whether the image read back passes its check (R201). -/
  | storeWriteComplete (agrees : Bool)
  /-- A flash tick of 10 ms (R145). -/
  | flashTick
  /-- The flash tick after the last position of a cycle: the cycle start (R145, R147). -/
  | cycleStart
  /-- A detect contact closes (R65). -/
  | contactClose (desk : Desk) (slot : SlotId) (contact : Contact)
  /-- A detect contact opens (R65). -/
  | contactOpen (desk : Desk) (slot : SlotId) (contact : Contact)
  /-- The settle timer runs out; `sense1` and `sense2` are the battery sense lines, `true` for high (R69). -/
  | settleEnd (desk : Desk) (slot : SlotId) (sense1 : Bool) (sense2 : Bool)
  /-- The key's six bytes have arrived (R70). -/
  | readComplete (desk : Desk) (slot : SlotId) (record : SixBytes)
  /-- 40 ms have passed without the six bytes (R70). -/
  | readTimeout (desk : Desk) (slot : SlotId)
  | ackPress (desk : Desk)
  | silencePress (desk : Desk)
  | handPress (desk : Desk)
  | powerOn
  | supplyLow
  | resetPin
  | startupHoldEnd
  /-- A byte arrives on a supervisory link (R191). -/
  | receiverTakesByte (link : Link) (byte : Byte)
  | resetEnd
  deriving DecidableEq, Repr

end Sys2Proof
end

