-- ==== Sys2Proof/Config.lean ====
section
/-! DEFINITION. What an implementation of the part fixes: its sizes and bounds, its identity and the factory
defaults of its settings (R200). The spec leaves no result of a command undefined, so there is no free value here. -/

namespace Sys2Proof.Config

/-- Frames an intake queue holds (R26). -/
def intakeDepth : Nat := 8

/-- Well-formed frames a supervisory link may have taken and not yet answered in full (R193). -/
def linkDepth : Nat := 4

/-- The largest body of a supervisory frame, in bytes (R191). -/
def maxBody : Nat := 120

/-- The first byte of a supervisory frame (R205). -/
def startByte : Byte := 0xA5

/-- Entries the journal retains (R178). -/
def journalDepth : Nat := 2048

/-- Entries of the shelf list (R108). -/
def shelfDepth : Nat := 64

/-- Entries of a carried list (R119). -/
def carriedDepth : Nat := 32

/-- The part identity a HELLO frame carries (R207). -/
def identity : Nat := 3160

/-- The revision a HELLO frame carries (R207). -/
def revision : Nat := 1

/-- The room's horn tone (R160) and horn hold (R159). -/
def roomTone : Nat := 7

def roomHold : Nat := 2

/-- Factory default of every desk's horn hold (R200). -/
def defaultHornHold : Nat := 2

/-- Factory default of the schedule (R200). -/
def defaultSchedule : List Nat := [21600, 50400, 79200]

end Sys2Proof.Config
end

