-- ==== Sys2Proof/Machine/Bytes.lean ====
section
/-! DEFINITION. Byte order, checks and codes of the message formats (R29, R192, R205, R206). -/

namespace Sys2Proof.Machine

/-- A number as `len` bytes, most significant first (R206). -/
def be : Nat → Nat → List Byte
  | 0, _ => []
  | len + 1, n => be len (n / 256) ++ [BitVec.ofNat 8 n]

/-- The number some bytes carry, most significant first (R206). -/
def num (bytes : List Byte) : Nat :=
  bytes.foldl (fun acc b => acc * 256 + b.toNat) 0

/-- The `len` bytes of a body from offset `off`. -/
def slice (body : List Byte) (off len : Nat) : List Byte :=
  (body.drop off).take len

/-- The number in the `len` bytes of a body from offset `off`. -/
def field (body : List Byte) (off len : Nat) : Nat :=
  num (slice body off len)

/-- A yes/no field: 1 or 0 (R206). -/
def yesNo (b : Bool) : Byte :=
  if b then 1 else 0

/-- The value of a yes/no field, `none` for any other number (R206). -/
def yesNoOf : Nat → Option Bool
  | 0 => some false
  | 1 => some true
  | _ => none

/-- An optional one-byte field, 255 when absent (R206). -/
def optByte : Option Nat → Byte
  | some n => BitVec.ofNat 8 n
  | none => 255

/-- An area set as eight bytes, byte `k` covering areas `8k` to `8k + 7` (R206). -/
def areaSetBytes (set : AreaSet) : List Byte :=
  [set.extractLsb' 0 8, set.extractLsb' 8 8, set.extractLsb' 16 8, set.extractLsb' 24 8, set.extractLsb' 32 8,
    set.extractLsb' 40 8, set.extractLsb' 48 8, set.extractLsb' 56 8]

/-- The area set that eight bytes carry (R206): the first byte is the least significant. -/
def areaSetOf (bytes : List Byte) : AreaSet :=
  BitVec.ofNat 64 (bytes.foldr (fun b acc => b.toNat + 256 * acc) 0)

/-- Whether an area is in a set (R206). -/
def inSet (set : AreaSet) (a : Area) : Bool :=
  set.getLsbD a.val

/-- The two sums of the supervisory check over some bytes, from sums `a` and `b` (R192). -/
def checkSums : List Byte → Nat → Nat → Nat × Nat
  | [], a, b => (a, b)
  | x :: rest, a, b =>
    let a' := (a + x.toNat) % 255
    checkSums rest a' ((b + a') % 255)

/-- The two check bytes over some bytes: sum A, then sum B (R192, R205). -/
def checkBytes (bytes : List Byte) : List Byte :=
  let sums := checkSums bytes 0 0
  [BitVec.ofNat 8 sums.1, BitVec.ofNat 8 sums.2]

/-- A supervisory frame's bytes (R205): start, length, type, tag, body, check. -/
def frameBytes (type tag : Byte) (body : List Byte) : List Byte :=
  let checked := BitVec.ofNat 8 body.length :: type :: tag :: body
  Config.startByte :: checked ++ checkBytes checked

/-- The six bytes in order. -/
def sixList (r : SixBytes) : List Byte :=
  [r.b0, r.b1, r.b2, r.b3, r.b4, r.b5]

/-- Whether six bytes, taken as numbers, add up to a multiple of 256 (R29, R71). -/
def sumsToZero (r : SixBytes) : Bool :=
  (r.b0.toNat + r.b1.toNat + r.b2.toNat + r.b3.toNat + r.b4.toNat + r.b5.toNat) % 256 == 0

/-- Six received bytes as a record, `none` for any other number of bytes (R26). -/
def sixOf : List Byte → Option SixBytes
  | [b0, b1, b2, b3, b4, b5] => some ⟨b0, b1, b2, b3, b4, b5⟩
  | _ => none

/-- A number as a point tag, `none` above 1023 (R1). -/
def tagOf (n : Nat) : Option Tag :=
  if h : n < 1024 then some ⟨n, h⟩ else none

/-- A number as an area, `none` above 63 (R2). -/
def areaOf (n : Nat) : Option Area :=
  if h : n < 64 then some ⟨n, h⟩ else none

/-- A number as an operator index, `none` above 63 (R80). -/
def opOf (n : Nat) : Option OpIndex :=
  if h : n < 64 then some ⟨n, h⟩ else none

end Sys2Proof.Machine

namespace Sys2Proof

/-- Desk codes (R206). -/
def Desk.code : Desk → Nat
  | .d0 => 0 | .d1 => 1 | .d2 => 2 | .d3 => 3 | .d4 => 4 | .d5 => 5

/-- The desk of a desk code, `none` above 5 (R206). -/
def Desk.ofCode : Nat → Option Desk
  | 0 => some .d0 | 1 => some .d1 | 2 => some .d2 | 3 => some .d3 | 4 => some .d4 | 5 => some .d5
  | _ => none

/-- Slot codes: 0 for A, 1 for B (R77). -/
def SlotId.code : SlotId → Nat
  | .a => 0 | .b => 1

/-- The other slot of the desk. -/
def SlotId.other : SlotId → SlotId
  | .a => .b | .b => .a

/-- Link numbers: 0 for S0, 1 for S1 (R195). -/
def Link.code : Link → Nat
  | .s0 => 0 | .s1 => 1

/-- Event link numbers (R33). -/
def EventLink.code : EventLink → Nat
  | .e0 => 0 | .e1 => 1 | .e2 => 2 | .e3 => 3

/-- The desks in ascending order. -/
def allDesks : List Desk := [.d0, .d1, .d2, .d3, .d4, .d5]

/-- The slots of a desk in order. -/
def allSlots : List SlotId := [.a, .b]

end Sys2Proof
end

