-- ==== Sys2Proof/Machine/State.lean ====
section
/-! DEFINITION. The state of the part as plain data: every piece of state spec/ gives it, and the model's queue of
waiting commands. What the spec makes a function of other state (routing targets R36, attention lists R45, shelf list
R108, current shift R166) is computed, not stored: Machine/Ops.lean and Machine/Clock.lean. -/

namespace Sys2Proof.Machine

/-- A sparse table: the present positions in strictly rising order, each with its record. -/
abbrev Table (n : Nat) (α : Type) := List (Fin n × α)

/-- One `α` for each desk. -/
structure PerDesk (α : Type) where
  d0 : α
  d1 : α
  d2 : α
  d3 : α
  d4 : α
  d5 : α
  deriving DecidableEq, Repr

/-- The same `α` for every desk. -/
@[simp] def PerDesk.every {α : Type} (x : α) : PerDesk α :=
  ⟨x, x, x, x, x, x⟩

/-- One `α` for each supervisory link. -/
structure PerLink (α : Type) where
  s0 : α
  s1 : α
  deriving DecidableEq, Repr

/-- One `α` for each event link. -/
structure PerEventLink (α : Type) where
  e0 : α
  e1 : α
  e2 : α
  e3 : α
  deriving DecidableEq, Repr

/-- One `α` for each of the seven targets: the desks and the room. -/
structure PerTarget (α : Type) where
  desks : PerDesk α
  room : α
  deriving DecidableEq, Repr

/-- A routing target: a desk, or the room (R36). -/
inductive Target where
  | desk (d : Desk)
  | room
  deriving DecidableEq, Repr

/-! ### Points (chapter 01) -/

/-- How a point record came to be (R3). -/
inductive PointOrigin where
  | configured | provisional
  deriving DecidableEq, Repr

/-- The state of a point with the fields that are present only in it (R2): the activation time in UNACK, ACKED and
RTN_UNACK, the shelf expiry and the shelved-by index in SHELVED. -/
inductive PointState where
  | normal
  | unack (activation : Word32)
  | acked (activation : Word32)
  | rtnUnack (activation : Word32)
  | shelved (expiry : Word32) (shelvedBy : OpIndex)
  deriving DecidableEq, Repr

/-- A point record (R2). -/
structure Point where
  origin : PointOrigin
  area : Area
  base : Nat
  step : Nat
  shelvable : Bool
  state : PointState
  active : Bool
  effective : Nat
  silenced : Bool
  repeats : Nat
  lastAck : Option OpIndex
  deriving DecidableEq, Repr

/-- The state of an item of an attention list, as a carried entry records it (R119). -/
inductive Standing where
  | unack | rtnUnack | acked
  deriving DecidableEq, Repr

/-! ### Intake (chapter 02) -/

/-- An event link: its queue, head first, its hold line and its expected sequence number, `none` for UNSYNCHRONISED
(R26, R27, R30). -/
structure IntakeLink where
  queue : List SixBytes
  holdLine : Bool
  expected : Option Byte
  deriving DecidableEq, Repr

/-! ### Load (chapter 03) -/

/-- The load state of a target: arrival sum W, load figure L and flood flag (R54). -/
structure Load where
  w : Nat
  l : Nat
  flood : Bool
  deriving DecidableEq, Repr

/-- The flood-on and flood-off thresholds (R59). -/
structure FloodPair where
  onAt : Nat
  offAt : Nat
  deriving DecidableEq, Repr

/-- The limits that SET_LIMITS sets, the flood pair being the one in force (R203). -/
structure Limits where
  flood : FloodPair
  handoverLimit : Nat
  dueGrace : Nat
  silenceTime : Nat
  deriving DecidableEq, Repr

/-- Work of a minute tick that has been handed to a block and not yet taken (R164). -/
structure TickWork where
  escalation : Bool
  load : Bool
  late : Bool
  deriving DecidableEq, Repr

/-! ### Operators (chapter 05) -/

/-- The roles (R80); their order is `Role.rank`. -/
inductive Role where
  | observer | operator | senior | supervisor
  deriving DecidableEq, Repr

/-- An operator record (R80). -/
structure OperatorRecord where
  key : KeyNumber
  issue : Byte
  role : Role
  areas : AreaSet
  validFrom : Option Nat
  validUntil : Option Nat
  locked : Bool
  displayTag : Option (List Byte)
  deriving DecidableEq, Repr

/-! ### Key slots (chapter 04) -/

/-- The battery reading of a slot that goes on to be read (R69); DEAD is the state `faultBattery`. -/
inductive Battery where
  | low | good
  deriving DecidableEq, Repr

/-- The cause of a failed read attempt (R64). -/
inductive ReadFailure where
  | check | zeroKey | kind | noAnswer
  deriving DecidableEq, Repr

/-- Why a key is refused (R88, R76). -/
inductive KeyRefusal where
  | unknownKey | revoked | locked | expired | duplicate
  deriving DecidableEq, Repr

/-- The sign-on result of a PRESENT slot with the operator it is signed on against (R64, R74). A companion refused
as incoming operator carries NOT_QUALIFIED (R86, R123). -/
inductive SignOn where
  | holder (op : OpIndex)
  | companion (op : OpIndex) (notQualified : Bool)
  | incoming (op : OpIndex)
  | refused (reason : KeyRefusal)
  deriving DecidableEq, Repr

/-- The state of a key slot with the items present in it (R64). The settle timer runs exactly in SETTLING. -/
inductive SlotState where
  | empty
  | oneContact
  | unpowered
  | settling
  | reading (battery : Battery) (attempt : Nat) (lastFailure : Option ReadFailure)
  | present (battery : Battery) (key : KeyNumber) (issue : Byte) (result : SignOn)
  | faultBattery
  | faultRead (lastFailure : ReadFailure)
  deriving DecidableEq, Repr

/-- The positions of the two detect contacts, `true` for closed. -/
structure Contacts where
  c1 : Bool
  c2 : Bool
  deriving DecidableEq, Repr

/-- A key slot: the levels at its contact pins, the positions last sensed, and its state (R64, R79). -/
structure Slot where
  pins : Contacts
  contacts : Contacts
  state : SlotState
  deriving DecidableEq, Repr

/-! ### Desk units (chapters 05, 07, 08) -/

/-- An entry of a carried list (R119). -/
structure Carried where
  tag : Tag
  standing : Standing
  briefed : Bool
  deriving DecidableEq, Repr

/-- The handover record but for its incoming operator (R118). -/
structure Handover where
  outgoing : OpIndex
  openedAt : Word32
  limitExpiry : Word32
  carried : List Carried
  deriving DecidableEq, Repr

/-- The desk state with what is present only in it: the holder slot (R91), the handover record and, in
HANDOVER_REVIEW, the incoming operator (R118). -/
inductive DeskState where
  | outOfService
  | vacant
  | attended (holder : SlotId)
  | handoverOpen (holder : SlotId) (record : Handover)
  | handoverReview (holder : SlotId) (record : Handover) (incoming : OpIndex)
  deriving DecidableEq, Repr

/-- The DUE flag's due time and the DUE_LATE flag (R143, R144). -/
structure DueMark where
  time : Word32
  late : Bool
  deriving DecidableEq, Repr

/-- The lamp patterns (R148). -/
inductive Pattern where
  | off | steady | flash | altFirst | altSecond
  deriving DecidableEq, Repr

/-- The five lamps of a desk. -/
structure Lamps where
  alarm : Pattern
  ret : Pattern
  hand : Pattern
  key : Pattern
  link : Pattern
  deriving DecidableEq, Repr

/-- A desk unit. Its service state is the desk state (`outOfService` or not). -/
structure DeskUnit where
  state : DeskState
  slotA : Slot
  slotB : Slot
  due : Option DueMark
  home : AreaSet
  tone : Nat
  hornHold : Nat
  lamps : Lamps
  deriving DecidableEq, Repr

/-! ### Annunciator (chapter 08) -/

/-- The flash settings C, Df, Da and G (R145). -/
structure Flash where
  c : Nat
  df : Nat
  da : Nat
  g : Nat
  deriving DecidableEq, Repr

/-- The horn arbiter: owner, hold count, standing requests, and the tone sounded through the cycle, `none` for
silent (R156, R157, R160). -/
structure Horn where
  owner : Option Target
  count : Nat
  requests : PerTarget Bool
  output : Option Nat
  deriving DecidableEq, Repr

/-! ### Time base (chapter 09) -/

/-- A mill time: day number and second of day (R165). -/
structure MillTime where
  day : Nat
  second : Nat
  deriving DecidableEq, Repr

/-- Mill time while it is SET, with the last fired boundary (R167). -/
structure MillClock where
  now : MillTime
  lastFired : MillTime
  deriving DecidableEq, Repr

/-- The mark mode (R168). -/
inductive MarkMode where
  | strict | follow
  deriving DecidableEq, Repr

/-! ### Journal and attention (chapter 10) -/

/-- The attention classes (R184). -/
inductive AttnClass where
  | alarm | key | session | handover | flood | intake | time | store
  deriving DecidableEq, Repr

/-- The kinds of journal entry (R181). -/
inductive Kind where
  | restart | badFrame | intakeGap | intakeMismatch | intakeHeld | provisional
  | state | ack | ackRefused | silence | shelve | unshelve | shelfExpiry | area
  | keyIn | keyOut | keyFault | keyBatteryLow
  | signOn | signRefused | signOff | deserted
  | handoverOpen | incoming | brief | handoverDone | handoverForced | handoverAbort
  | floodOn | floodOff | shiftStart | dueLate
  | timeSet | timeStep | timeFalse | pulse
  | linkLost | linkBack | takeCommand | storeSaved | storeInvalid | operatorChanged
  deriving DecidableEq, Repr

/-- What the rule that makes a journal entry gives of it (R177): its kind and the optional items. -/
structure Draft where
  kind : Kind
  desk : Option Desk := none
  op : Option OpIndex := none
  tag : Option Tag := none
  d1 : Option Nat := none
  d2 : Option Nat := none
  deriving DecidableEq, Repr

/-- A journal entry (R177): the draft with the journal's sequence number and stamps. -/
structure Entry where
  seq : Word32
  runSeconds : Word32
  mill : Option MillTime
  what : Draft
  deriving DecidableEq, Repr

/-- The clear mode (R185). -/
inductive ClearMode where
  | byCommand | byStatus
  deriving DecidableEq, Repr

/-- The attention flags and their control (R184, R185). -/
structure Attention where
  pending : ClassSet
  enables : ClassSet
  globalEnable : Bool
  clearMode : ClearMode
  deriving DecidableEq, Repr

/-! ### Supervisory links (chapter 11) -/

/-- A link's receiver: HUNTING, or INSIDE a frame with the bytes received after the start byte (R191). -/
inductive Receiver where
  | hunting
  | inside (bytes : List Byte)
  deriving DecidableEq, Repr

/-- What a sent frame is to its link: an ordinary reply, which holds one of the four waiting places; the OK reply of
an accepted RESET, which holds one too; the BUSY reply of a fifth frame; a HELLO; an ATTENTION (R187, R193, R198). -/
inductive FrameRole where
  | reply | resetReply | busyReply | hello | attention
  deriving DecidableEq, Repr

/-- A frame the part sends (R205, R207). -/
structure OutFrame where
  role : FrameRole
  type : Byte
  tag : Byte
  body : List Byte
  deriving DecidableEq, Repr

/-- A supervisory link: receiver, frame being sent, frames waiting to be sent, first to go first, and notice-waiting
mark (R187, R191, R193). -/
structure SupLink where
  receiver : Receiver
  sending : Option OutFrame
  waiting : List OutFrame
  notice : Bool
  deriving DecidableEq, Repr

/-- The command link and LOCAL mode (R195, R197): no link latched (LOCAL); a link latched, with the expiry of the
silence timer; a link latched and silent (LOCAL), with the run second at which LOCAL was entered. -/
inductive CommandState where
  | unlatched
  | latched (link : Link) (expiry : Word32)
  | lost (link : Link) (since : Word32)
  deriving DecidableEq, Repr

/-- A point record in the settings store: its configuration fields (R5, R200). -/
structure StoredPoint where
  area : Area
  base : Nat
  step : Nat
  shelvable : Bool
  deriving DecidableEq, Repr

/-- A desk's configuration in the settings store, but for the supervisor setting (R200, R202). -/
structure StoredDesk where
  inService : Bool
  home : AreaSet
  tone : Nat
  hornHold : Nat
  deriving DecidableEq, Repr

/-- The contents of the settings store image (R200). -/
structure Image where
  points : Table 1024 StoredPoint
  operators : Table 64 OperatorRecord
  desks : PerDesk StoredDesk
  supervisor : Option Desk
  flash : Flash
  schedule : List Nat
  markMode : MarkMode
  timeHold : Bool
  limits : Limits
  clearMode : ClearMode
  deriving DecidableEq, Repr

/-- The store state, with the snapshot being written in WRITING (R200, R201). -/
inductive StoreState where
  | valid
  | invalid
  | writing (snapshot : Image)
  deriving DecidableEq, Repr

/-- The reset causes (R198). -/
inductive ResetCause where
  | powerOn | supplyLow | resetPin | resetCommand
  deriving DecidableEq, Repr

/-- Where the part is between resets (R198, R199): running; running with a RESET accepted and its reply not yet
sent; in the start-up hold; held in reset. -/
inductive Phase where
  | running
  | closing
  | hold (cause : ResetCause)
  | inReset (cause : ResetCause)
  deriving DecidableEq, Repr

/-- The state of the part. `resetInput` is the level of the reset input, `true` while it is asserted (R198). -/
structure State where
  phase : Phase
  resetInput : Bool
  runSeconds : Word32
  tick : TickWork
  mill : Option MillClock
  schedule : List Nat
  markMode : MarkMode
  timeHold : Bool
  limits : Limits
  heldFlood : Option FloodPair
  points : Table 1024 Point
  operators : Table 64 OperatorRecord
  owners : Table 64 Desk
  supervisor : Option Desk
  desks : PerDesk DeskUnit
  load : PerTarget Load
  intake : PerEventLink IntakeLink
  flash : Flash
  staged : Option Flash
  position : Nat
  horn : Horn
  journal : List Entry
  nextSeq : Word32
  attention : Attention
  links : PerLink SupLink
  command : CommandState
  store : StoreState
  image : Option Image
  pending : List Instr
  deriving DecidableEq, Repr

/-- Reasons the machine stops with a fault: none. Every command of the block has an effect or none (R194: errors are
replies), so no meaning raises a fault and the type has no constructor. -/
inductive Fault where
  deriving DecidableEq, Repr

/-- Reasons a command is refused by the model. -/
inductive Refusal where
  /-- Raised by an arm of `exec` whose command has no meaning yet; no arm does. Safe: the machine stops. -/
  | notModelled (mnemonic : String)
  deriving DecidableEq, Repr

/-- Every slot after reset: EMPTY, both contacts taken as open (R79). Pins open: DESIGN CHOICE, unsafe, log 4. -/
def Slot.atReset : Slot :=
  { pins := ⟨false, false⟩, contacts := ⟨false, false⟩, state := .empty }

/-- A desk unit after reset under factory defaults (R81, R155, R200): in service and so VACANT, its horn tone its
desk number. -/
def DeskUnit.atReset (tone : Nat) : DeskUnit :=
  { state := .vacant, slotA := Slot.atReset, slotB := Slot.atReset, due := none, home := 0, tone := tone
    hornHold := Config.defaultHornHold, lamps := ⟨.off, .off, .off, .off, .off⟩ }

/-- A target's load after reset (R54). -/
def Load.atReset : Load :=
  { w := 0, l := 0, flood := false }

/-- An event link after reset: no frame queued, the hold line released, UNSYNCHRONISED (R34). -/
def IntakeLink.atReset : IntakeLink :=
  { queue := [], holdLine := false, expected := none }

/-- The part right after a reset: every block at its value after reset, the settings at their factory defaults, the
start-up hold running, no command waiting. The phase and cause, the store image, the pins and the reset input's level are
the model's choice (DESIGN CHOICE, logs 1, 2, 4, 36). -/
def State.reset : State :=
  { phase := .hold .powerOn
    resetInput := false
    runSeconds := 0
    tick := ⟨false, false, false⟩
    mill := none
    schedule := Config.defaultSchedule
    markMode := .strict
    timeHold := false
    limits := { flood := ⟨160, 96⟩, handoverLimit := 10, dueGrace := 30, silenceTime := 10 }
    heldFlood := none
    points := []
    operators := []
    owners := []
    supervisor := none
    desks := ⟨DeskUnit.atReset 0, DeskUnit.atReset 1, DeskUnit.atReset 2, DeskUnit.atReset 3, DeskUnit.atReset 4,
      DeskUnit.atReset 5⟩
    load := { desks := PerDesk.every Load.atReset, room := Load.atReset }
    intake := ⟨IntakeLink.atReset, IntakeLink.atReset, IntakeLink.atReset, IntakeLink.atReset⟩
    flash := ⟨100, 50, 50, 0⟩
    staged := none
    position := 0
    horn := { owner := none, count := 0
              requests := { desks := PerDesk.every false, room := false }, output := none }
    journal := []
    nextSeq := 1
    attention := { pending := 0, enables := 0xFF, globalEnable := true, clearMode := .byCommand }
    links := ⟨⟨.hunting, none, [], false⟩, ⟨.hunting, none, [], false⟩⟩
    command := .unlatched
    store := .invalid
    image := none
    pending := [] }

end Sys2Proof.Machine
end

