-- ==== Sys2Proof/Machine/Table.lean ====
section
/-! DEFINITION. Reading and writing the sparse tables and the per-desk, per-link and per-target groups of the state. -/

namespace Sys2Proof.Machine

/-- The record at a position of a table, `none` for an absent one. -/
def tableGet {n : Nat} {α : Type} : Table n α → Fin n → Option α
  | [], _ => none
  | (k, v) :: rest, i => if k = i then some v else tableGet rest i

/-- The table with a record put at a position; the positions stay in rising order. -/
def tablePut {n : Nat} {α : Type} : Table n α → Fin n → α → Table n α
  | [], i, v => [(i, v)]
  | (k, w) :: rest, i, v =>
    if i < k then (i, v) :: (k, w) :: rest
    else if i = k then (i, v) :: rest
    else (k, w) :: tablePut rest i v

/-- The table with a position made absent. -/
def tableErase {n : Nat} {α : Type} (t : Table n α) (i : Fin n) : Table n α :=
  t.filter (fun e => e.1 ≠ i)

/-- The table with a function applied to every present record. -/
def tableMap {n : Nat} {α β : Type} (f : Fin n → α → β) (t : Table n α) : Table n β :=
  t.map (fun e => (e.1, f e.1 e.2))

/-- The canonical form of a table: positions strictly rising, so equal tables are equal lists. -/
def tableWf {n : Nat} {α : Type} : Table n α → Bool
  | [] => true
  | (k, _) :: rest => rest.all (fun e => decide (k < e.1)) && tableWf rest

def PerDesk.get {α : Type} (p : PerDesk α) : Desk → α
  | .d0 => p.d0 | .d1 => p.d1 | .d2 => p.d2 | .d3 => p.d3 | .d4 => p.d4 | .d5 => p.d5

def PerDesk.set {α : Type} (p : PerDesk α) (d : Desk) (v : α) : PerDesk α :=
  match d with
  | .d0 => { p with d0 := v }
  | .d1 => { p with d1 := v }
  | .d2 => { p with d2 := v }
  | .d3 => { p with d3 := v }
  | .d4 => { p with d4 := v }
  | .d5 => { p with d5 := v }

/-- The group whose member for each desk is `f` of it. -/
def PerDesk.of {α : Type} (f : Desk → α) : PerDesk α :=
  ⟨f .d0, f .d1, f .d2, f .d3, f .d4, f .d5⟩

def PerLink.get {α : Type} (p : PerLink α) : Link → α
  | .s0 => p.s0 | .s1 => p.s1

def PerLink.set {α : Type} (p : PerLink α) (l : Link) (v : α) : PerLink α :=
  match l with
  | .s0 => { p with s0 := v }
  | .s1 => { p with s1 := v }

def PerEventLink.get {α : Type} (p : PerEventLink α) : EventLink → α
  | .e0 => p.e0 | .e1 => p.e1 | .e2 => p.e2 | .e3 => p.e3

def PerEventLink.set {α : Type} (p : PerEventLink α) (l : EventLink) (v : α) : PerEventLink α :=
  match l with
  | .e0 => { p with e0 := v }
  | .e1 => { p with e1 := v }
  | .e2 => { p with e2 := v }
  | .e3 => { p with e3 := v }

def PerTarget.get {α : Type} (p : PerTarget α) : Target → α
  | .desk d => p.desks.get d
  | .room => p.room

def PerTarget.set {α : Type} (p : PerTarget α) (t : Target) (v : α) : PerTarget α :=
  match t with
  | .desk d => { p with desks := p.desks.set d v }
  | .room => { p with room := v }

/-- The group whose member for each target is `f` of it. -/
def PerTarget.of {α : Type} (f : Target → α) : PerTarget α :=
  ⟨PerDesk.of (fun d => f (.desk d)), f .room⟩

/-- The targets in round-robin order: D0 to D5, then the room (R156). -/
def allTargets : List Target :=
  [.desk .d0, .desk .d1, .desk .d2, .desk .d3, .desk .d4, .desk .d5, .room]

/-- List codes: the desk number, or 6 for the room (R44). -/
def Target.code : Target → Nat
  | .desk d => d.code
  | .room => 6

/-- The target of a list code, `none` above 6 (R44). -/
def Target.ofCode (n : Nat) : Option Target :=
  if n = 6 then some .room else (Desk.ofCode n).map .desk

/-- The desk of a target, `none` for the room. -/
def Target.desk? : Target → Option Desk
  | .desk d => some d
  | .room => none

def DeskUnit.slot (u : DeskUnit) : SlotId → Slot
  | .a => u.slotA
  | .b => u.slotB

def DeskUnit.setSlot (u : DeskUnit) (k : SlotId) (v : Slot) : DeskUnit :=
  match k with
  | .a => { u with slotA := v }
  | .b => { u with slotB := v }

/-- The desk unit of a desk. -/
def State.unit (s : State) (d : Desk) : DeskUnit :=
  s.desks.get d

def State.putUnit (s : State) (d : Desk) (u : DeskUnit) : State :=
  { s with desks := s.desks.set d u }

/-- A key slot of a desk. -/
def State.slot (s : State) (d : Desk) (k : SlotId) : Slot :=
  (s.unit d).slot k

def State.putSlot (s : State) (d : Desk) (k : SlotId) (v : Slot) : State :=
  s.putUnit d ((s.unit d).setSlot k v)

/-- The slot with its state changed and its contacts kept. -/
def State.putSlotState (s : State) (d : Desk) (k : SlotId) (v : SlotState) : State :=
  s.putSlot d k { s.slot d k with state := v }

def State.putDeskState (s : State) (d : Desk) (v : DeskState) : State :=
  s.putUnit d { s.unit d with state := v }

/-- The point record of a tag, `none` for an absent slot (R1). -/
def State.point (s : State) (t : Tag) : Option Point :=
  tableGet s.points t

def State.putPoint (s : State) (t : Tag) (p : Point) : State :=
  { s with points := tablePut s.points t p }

/-- The operator record at an index, `none` for an absent position (R80). -/
def State.operator (s : State) (i : OpIndex) : Option OperatorRecord :=
  tableGet s.operators i

/-- The desk that owns an area (R35). -/
def State.owner (s : State) (a : Area) : Option Desk :=
  tableGet s.owners a

/-- The ownership table with one entry set to a desk or to none (R35). -/
def State.setOwner (s : State) (a : Area) : Option Desk → State
  | some d => { s with owners := tablePut s.owners a d }
  | none => { s with owners := tableErase s.owners a }

/-- The supervisory link unit's side of a link. -/
def State.link (s : State) (l : Link) : SupLink :=
  s.links.get l

def State.putLink (s : State) (l : Link) (v : SupLink) : State :=
  { s with links := s.links.set l v }

/-- The intake unit's side of an event link. -/
def State.eventLink (s : State) (l : EventLink) : IntakeLink :=
  s.intake.get l

def State.putEventLink (s : State) (l : EventLink) (v : IntakeLink) : State :=
  { s with intake := s.intake.set l v }

/-- The load state of a target. -/
def State.loadOf (s : State) (t : Target) : Load :=
  s.load.get t

def State.putLoad (s : State) (t : Target) (v : Load) : State :=
  { s with load := s.load.set t v }

end Sys2Proof.Machine
end

