-- ==== Sys2Proof/Machine/Flags.lean ====
section
/-! DEFINITION. The journal and the attention flags (chapter 10): making an entry, the class it sets, and raising a
notice. -/

namespace Sys2Proof.Machine

/-- The kind codes of R181. -/
def Kind.code : Kind → Nat
  | .restart => 1 | .badFrame => 2 | .intakeGap => 3 | .intakeMismatch => 4 | .intakeHeld => 5 | .provisional => 6
  | .state => 7 | .ack => 8 | .ackRefused => 9 | .silence => 10 | .shelve => 11 | .unshelve => 12
  | .shelfExpiry => 13 | .area => 14
  | .keyIn => 15 | .keyOut => 16 | .keyFault => 17 | .keyBatteryLow => 18
  | .signOn => 19 | .signRefused => 20 | .signOff => 21 | .deserted => 22
  | .handoverOpen => 23 | .incoming => 24 | .brief => 25 | .handoverDone => 26 | .handoverForced => 27
  | .handoverAbort => 28
  | .floodOn => 29 | .floodOff => 30 | .shiftStart => 31 | .dueLate => 32
  | .timeSet => 33 | .timeStep => 34 | .timeFalse => 35 | .pulse => 36
  | .linkLost => 37 | .linkBack => 38 | .takeCommand => 39 | .storeSaved => 40 | .storeInvalid => 41
  | .operatorChanged => 42

/-- The attention class an entry of a kind always sets (R181). SILENCE sets ALARM only when a count is above 0, so
its path sets the class itself (R107). -/
def Kind.attnClass : Kind → Option AttnClass
  | .restart => none
  | .badFrame | .intakeGap | .intakeMismatch | .intakeHeld | .provisional => some .intake
  | .state | .ack | .ackRefused => some .alarm
  | .silence | .shelve | .unshelve | .shelfExpiry => none
  | .area => some .session
  | .keyIn | .keyOut | .keyFault | .keyBatteryLow => some .key
  | .signOn | .signRefused | .signOff | .deserted => some .session
  | .handoverOpen | .incoming | .brief | .handoverDone | .handoverForced | .handoverAbort => some .handover
  | .floodOn | .floodOff => some .flood
  | .shiftStart => some .time
  | .dueLate => some .session
  | .timeSet | .timeStep | .timeFalse | .pulse => some .time
  | .linkLost | .linkBack | .takeCommand => some .session
  | .storeSaved | .storeInvalid => some .store
  | .operatorChanged => some .session

/-- The class numbers of R184. -/
def AttnClass.number : AttnClass → Nat
  | .alarm => 0 | .key => 1 | .session => 2 | .handover => 3 | .flood => 4 | .intake => 5 | .time => 6 | .store => 7

/-- Whether a class is in a class set (R206). -/
def inClasses (set : ClassSet) (c : AttnClass) : Bool :=
  set.getLsbD c.number

/-- The class set holding one class. -/
def classBit (c : AttnClass) : ClassSet :=
  BitVec.twoPow 8 c.number

/-- Every class is told to send notices: the enables in force, none while the global enable is off (R186, R187;
DEDUCED, log 23). -/
def Attention.enabled (a : Attention) : ClassSet :=
  if a.globalEnable then a.enables else 0

/-- A notice is raised: both links get their notice-waiting mark (R187). -/
def raiseNotice (s : State) : State :=
  { s with links :=
      { s0 := { s.links.s0 with notice := true }, s1 := { s.links.s1 with notice := true } } }

/-- A class is set pending (R184). Going from clear to pending while enabled raises a notice (R186). -/
def setPending (c : AttnClass) (s : State) : State :=
  if inClasses s.attention.pending c then s
  else
    let s' := { s with attention := { s.attention with pending := s.attention.pending ||| classBit c } }
    if inClasses s.attention.enabled c then raiseNotice s' else s'

/-- The mill-time stamp: mill time as it stands, or UNSET (R177). -/
def State.millNow (s : State) : Option MillTime :=
  s.mill.map (·.now)

/-- The entry the journal makes of a draft (R177). -/
def State.stamp (s : State) (what : Draft) : Entry :=
  { seq := s.nextSeq, runSeconds := s.runSeconds, mill := s.millNow, what := what }

/-- The last `Config.journalDepth` entries of a list (R178). -/
def retain (entries : List Entry) : List Entry :=
  entries.drop (entries.length - Config.journalDepth)

/-- An entry is made (R178): it joins the journal's end, the oldest going if the ring was full. -/
def append (what : Draft) (s : State) : State :=
  { s with journal := retain (s.journal ++ [s.stamp what]), nextSeq := s.nextSeq + 1 }

/-- An entry is made and the class of its kind, if any, is set pending (R181). -/
def enter (what : Draft) (s : State) : State :=
  match what.kind.attnClass with
  | some c => setPending c (append what s)
  | none => append what s

end Sys2Proof.Machine
end

