-- ==== Sys2Proof/Machine/Clock.lean ====
section
/-! DEFINITION. Run seconds, mill time, the shift schedule and shift boundaries (chapter 09). -/

namespace Sys2Proof.Machine

/-! ### Run seconds -/

/-- The seconds from one run-second count to another, modulo 2^32 (R163). -/
def since (past now : Word32) : Nat :=
  (now - past).toNat

/-- Whether an event set for run second `t` can fall when the count is `now`: the count has reached `t`, or the
second event that brings it there is the next one (R163; log 6). Counts are compared modulo 2^32. -/
def reached (t now : Word32) : Bool :=
  decide ((t - now).toNat ≤ 1) || decide (2147483648 ≤ (t - now).toNat)

/-- A run-second count some seconds later. -/
def later (now : Word32) (seconds : Nat) : Word32 :=
  now + BitVec.ofNat 32 seconds

/-! ### Mill time -/

/-- Seconds in the cycle of mill times (R165). -/
def millCycle : Nat := 5662310400

/-- The position of a mill time in the cycle (R165). -/
def MillTime.position (t : MillTime) : Nat :=
  t.day * 86400 + t.second

/-- The mill time at a position, taken round the cycle (R165). -/
def millAt (position : Nat) : MillTime :=
  { day := position / 86400 % 65536, second := position % 86400 }

/-- The distance going forward from one mill time to another, 0 to `millCycle - 1`. -/
def ahead (t u : MillTime) : Nat :=
  (u.position + millCycle - t.position % millCycle) % millCycle

/-- The difference from one mill time to another (R165): the shorter way round, half the cycle counting as negative. -/
def difference (t u : MillTime) : Int :=
  if ahead t u < millCycle / 2 then (ahead t u : Int) else (ahead t u : Int) - (millCycle : Int)

/-! ### Shift starts

The shift starts of all days are numbered in one series from day 0: number `m` is start `m % k` of day `m / k`, with
`k` starts a day. -/

/-- How many starts lie at or before a position counted on from day 0. -/
def startsUpTo (schedule : List Nat) (position : Nat) : Nat :=
  position / 86400 * schedule.length + (schedule.filter (fun s => decide (s ≤ position % 86400))).length

/-- The shift index of start number `m` (R166). -/
def startIndex (schedule : List Nat) (m : Nat) : Nat :=
  m % schedule.length

/-- The mill time of start number `m`. -/
def startTime (schedule : List Nat) (m : Nat) : MillTime :=
  { day := m / schedule.length % 65536, second := schedule.getD (startIndex schedule m) 0 }

/-- The number of the start of the current shift (R166): the latest at or before the present mill time, looked for
one cycle on so that day 0 is preceded by day 65535. -/
def currentStart (schedule : List Nat) (now : MillTime) : Nat :=
  startsUpTo schedule (now.position + millCycle) - 1

/-- The current shift: day and shift index (R166). -/
def currentShift (schedule : List Nat) (now : MillTime) : Nat × Nat :=
  ((startTime schedule (currentStart schedule now)).day, startIndex schedule (currentStart schedule now))

/-- The numbers of the starts that a forward move of `d` seconds crosses, from the first to one past the last
(R171): starts after the old mill time up to the new one and later than the last fired boundary. With the last fired
boundary ahead of mill time, only starts beyond it are later; with it behind, only those less than half a cycle from
it are. -/
def crossed (schedule : List Nat) (c : MillClock) (d : Nat) : Nat × Nat :=
  let e := ahead c.lastFired c.now
  let p := c.now.position
  if e < millCycle / 2 then (startsUpTo schedule p, startsUpTo schedule (p + min d (millCycle / 2 - 1 - e)))
  else (startsUpTo schedule (p + min d (millCycle - e)), startsUpTo schedule (p + d))

/-- The number of the next start that will fire when mill time runs on from the present one (R176). -/
def nextStart (schedule : List Nat) (c : MillClock) : Nat :=
  let e := ahead c.lastFired c.now
  let first := startsUpTo schedule c.now.position
  if difference c.lastFired (startTime schedule first) > 0 then first
  else startsUpTo schedule (c.now.position + (millCycle - e))

/-- Whether a desk in a state has a holder (R36). -/
def DeskState.hasHolder : DeskState → Bool
  | .outOfService | .vacant => false
  | .attended _ | .handoverOpen _ _ | .handoverReview _ _ _ => true

/-- The desks that have a holder, ascending. -/
def desksWithHolder (s : State) : List Desk :=
  allDesks.filter (fun d => (s.unit d).state.hasHolder)

/-- A desk with a holder is marked DUE with a new due time; a DUE_LATE flag already set stays (R143). -/
def markDue (now : Word32) (u : DeskUnit) : DeskUnit :=
  if u.state.hasHolder then
    { u with due := some { time := now, late := (u.due.map (·.late)).getD false } }
  else u

/-- A shift boundary is fired for start number `m` (R167). -/
def fireBoundary (m : Nat) (s : State) : State :=
  let s1 := { s with mill := s.mill.map (fun c => { c with lastFired := startTime s.schedule m }) }
  let s2 := enter { kind := .shiftStart, d1 := some (startIndex s.schedule m)
                    d2 := some (desksWithHolder s).length } s1
  { s2 with desks := PerDesk.of (fun d => markDue s.runSeconds (s2.unit d)) }

/-- Boundaries are fired for start numbers from `first` up to, and not including, `stop`, earliest first. -/
def fireFrom (first : Nat) : Nat → State → State
  | 0, s => s
  | count + 1, s => fireFrom (first + 1) count (fireBoundary first s)

/-- Of the crossed starts the last four are fired and the earlier passed over (R171); the pair is how many of each. -/
def firedAndPassed (range : Nat × Nat) : Nat × Nat :=
  let n := range.2 - range.1
  (min n 4, n - min n 4)

/-- The crossed starts are fired (R167, R171). -/
def fireCrossed (range : Nat × Nat) (s : State) : State :=
  fireFrom (range.2 - (firedAndPassed range).1) (firedAndPassed range).1 s

/-- Mill time moves; the last fired boundary is kept. -/
def moveMill (t : MillTime) (s : State) : State :=
  { s with mill := s.mill.map (fun c => { c with now := t }) }

/-- Mill time becomes SET at a time, the shift then in progress being taken as begun (R167, R169). -/
def setMill (t : MillTime) (s : State) : State :=
  { s with mill := some { now := t, lastFired := startTime s.schedule (currentStart s.schedule t) } }

/-- Mill time moves forward by `d` seconds, an entry is made if there is one, and the starts crossed are fired. -/
def moveForward (c : MillClock) (d : Nat) (entry : Option Draft) (s : State) : State :=
  let s1 := moveMill (millAt (c.now.position + d)) s
  let s2 := match entry with
    | some e => enter e s1
    | none => s1
  fireCrossed (crossed s.schedule c d) s2

end Sys2Proof.Machine
end

