-- ==== Sys2Proof/Machine/Ops.lean ====
section
/-! DEFINITION. The operations that chapters 01 to 03 and 07 share: routing targets, attention lists, changes of a
point's state and their consequences, carried lists, the abort of a handover, and the working out of routing. -/

namespace Sys2Proof.Machine

/-! ### Routing (R36) -/

/-- LOCAL mode (R195, R197). -/
def State.isLocal (s : State) : Bool :=
  match s.command with
  | .unlatched | .lost _ _ => true
  | .latched _ _ => false

/-- Whether a desk has a holder (R36). -/
def State.hasHolder (s : State) (d : Desk) : Bool :=
  (s.unit d).state.hasHolder

/-- The target of an unowned area (R36, orders 2 to 4). -/
def State.unownedTarget (s : State) : Target :=
  match s.supervisor.filter s.hasHolder with
  | some d => .desk d
  | none =>
    match allDesks.find? (fun d => s.isLocal && s.hasHolder d) with
    | some d => .desk d
    | none => .room

/-- The routing target of an area (R36). -/
def State.target (s : State) (a : Area) : Target :=
  match s.owner a with
  | some d => .desk d
  | none => s.unownedTarget

/-! ### Points and attention lists -/

/-- The state codes of chapter 06. -/
def PointState.code : PointState → Nat
  | .normal => 0 | .unack _ => 1 | .acked _ => 2 | .rtnUnack _ => 3 | .shelved _ _ => 4

/-- The activation time, present in UNACK, ACKED and RTN_UNACK (R2). -/
def PointState.activation? : PointState → Option Word32
  | .unack t | .acked t | .rtnUnack t => some t
  | .normal | .shelved _ _ => none

/-- The group codes of LIST_READ (R208). -/
def Standing.code : Standing → Nat
  | .unack => 0 | .rtnUnack => 1 | .acked => 2

/-- How a point stands in an attention list, `none` if it stands in none (R6, R44). -/
def Point.standing (p : Point) : Option Standing :=
  if p.base ≤ 3 then
    match p.state with
    | .unack _ => some .unack
    | .rtnUnack _ => some .rtnUnack
    | .acked _ => some .acked
    | .normal | .shelved _ _ => none
  else none

/-- An item of an attention list: a point by its tag, with its record. -/
abbrev Item := Tag × Point

/-- The acknowledgement group: 0 for UNACK and RTN_UNACK, 1 for ACKED (R45). -/
def Point.group (p : Point) : Nat :=
  match p.state with
  | .acked _ => 1
  | _ => 0

/-- The seconds since a point's activation (R51). -/
def Point.age (now : Word32) (p : Point) : Nat :=
  match p.state.activation? with
  | some t => since t now
  | none => 0

/-- Whether item `x` comes before item `y`: by group, effective priority, activation time and tag (R45). An earlier
activation is a greater age (log 9). -/
def itemBefore (now : Word32) (x y : Item) : Bool :=
  if x.2.group ≠ y.2.group then decide (x.2.group < y.2.group)
  else if x.2.effective ≠ y.2.effective then decide (x.2.effective < y.2.effective)
  else if x.2.age now ≠ y.2.age now then decide (y.2.age now < x.2.age now)
  else decide (x.1 < y.1)

/-- An item put into an ordered list in its place. -/
def insertItem (before : Item → Item → Bool) (x : Item) : List Item → List Item
  | [] => [x]
  | y :: rest => if before y x then y :: insertItem before x rest else x :: y :: rest

/-- Items put in order. -/
def sortItems (before : Item → Item → Bool) : List Item → List Item
  | [] => []
  | x :: rest => insertItem before x (sortItems before rest)

/-- Whether a point stands in the attention list of a target (R6, R44). -/
def State.standsAt (s : State) (t : Target) (p : Point) : Bool :=
  p.standing.isSome && decide (s.target p.area = t)

/-- The attention list of a target, in the order of R45. -/
def State.attentionList (s : State) (t : Target) : List Item :=
  sortItems (itemBefore s.runSeconds) (s.points.filter (fun e => s.standsAt t e.2))

/-- Whether a point is in UNACK or RTN_UNACK. -/
def Point.unacknowledged (p : Point) : Bool :=
  match p.state with
  | .unack _ | .rtnUnack _ => true
  | _ => false

/-- Whether a point is in UNACK. -/
def Point.isUnack (p : Point) : Bool :=
  match p.state with
  | .unack _ => true
  | _ => false

/-- The acknowledge head of a list (R47). -/
def ackHead (items : List Item) : Option Item :=
  items.find? (fun e => e.2.unacknowledged)

/-- The seconds of shelving left, an expiry already reached counting as none (R115). -/
def secondsLeft (expiry now : Word32) : Nat :=
  if (expiry - now).toNat < 2147483648 then (expiry - now).toNat else 0

/-- The shelf entries: tag, expiry and shelved-by of every point in SHELVED, in tag order (R108). -/
def State.shelfEntries (s : State) : List (Tag × Word32 × OpIndex) :=
  s.points.filterMap (fun e =>
    match e.2.state with
    | .shelved t op => some (e.1, t, op)
    | _ => none)

/-- Whether shelf expiry `x` is before `y`, seen from run second `now` (log 9). -/
def expiryBefore (now x y : Word32) : Bool :=
  decide ((x - now + 2147483648).toNat < (y - now + 2147483648).toNat)

/-- A shelf entry put into the ordered shelf list: by expiry, then by tag (R108). -/
def insertShelf (now : Word32) (x : Tag × Word32 × OpIndex) : List (Tag × Word32 × OpIndex) →
    List (Tag × Word32 × OpIndex)
  | [] => [x]
  | y :: rest =>
    if expiryBefore now y.2.1 x.2.1 || (!expiryBefore now x.2.1 y.2.1 && decide (y.1 < x.1)) then
      y :: insertShelf now x rest
    else x :: y :: rest

/-- The shelf list (R108). -/
def State.shelfList (s : State) : List (Tag × Word32 × OpIndex) :=
  s.shelfEntries.foldr (insertShelf s.runSeconds) []

/-! ### Escalation and arrivals -/

/-- The escalation formula (R51): base priority, step, age in seconds. -/
def escalated (base step age : Nat) : Nat :=
  if step = 0 then base else max 1 (base - age / 60 / step)

/-- The effective priority the escalation formula gives a point now. -/
def Point.escalatedNow (now : Word32) (p : Point) : Nat :=
  escalated p.base p.step (p.age now)

/-- The arrival weight of a base priority (R55). -/
def arrivalWeight : Nat → Nat
  | 1 => 4
  | 2 => 2
  | 3 => 1
  | _ => 0

/-- The weight of an arrival is added to a target's arrival sum, which stops at 255 (R55). -/
def addWeight (t : Target) (weight : Nat) (s : State) : State :=
  s.putLoad t { s.loadOf t with w := min 255 ((s.loadOf t).w + weight) }

/-! ### The handover record -/

/-- The handover record of a desk in HANDOVER_OPEN or HANDOVER_REVIEW (R118). -/
def DeskState.handover? : DeskState → Option Handover
  | .handoverOpen _ h | .handoverReview _ h _ => some h
  | .outOfService | .vacant | .attended _ => none

/-- The holder slot (R91). -/
def DeskState.holderSlot? : DeskState → Option SlotId
  | .attended k | .handoverOpen k _ | .handoverReview k _ _ => some k
  | .outOfService | .vacant => none

/-- The desk state with its handover record changed, if it has one. -/
def DeskState.mapHandover (f : Handover → Handover) : DeskState → DeskState
  | .handoverOpen k h => .handoverOpen k (f h)
  | .handoverReview k h op => .handoverReview k (f h) op
  | st => st

/-- Whether a desk is in HANDOVER_OPEN or HANDOVER_REVIEW. -/
def State.inHandover (s : State) (d : Desk) : Bool :=
  (s.unit d).state.handover?.isSome

/-- The carried list of a desk, empty outside handover (R119). -/
def State.carried (s : State) (d : Desk) : List Carried :=
  match (s.unit d).state.handover? with
  | some h => h.carried
  | none => []

/-- The unbriefed entries of a carried list (R119). -/
def unbriefed (entries : List Carried) : List Carried :=
  entries.filter (fun e => !e.briefed)

/-- The carried list of a desk in handover, changed. -/
def State.mapCarried (s : State) (d : Desk) (f : List Carried → List Carried) : State :=
  s.putDeskState d ((s.unit d).state.mapHandover (fun h => { h with carried := f h.carried }))

/-- The sign-on result of a slot, present in PRESENT (R64). -/
def SlotState.result? : SlotState → Option SignOn
  | .present _ _ _ r => some r
  | .empty | .oneContact | .unpowered | .settling | .reading _ _ _ | .faultBattery | .faultRead _ => none

/-- The sign-on result of a PRESENT slot, changed (R74). -/
def SlotState.setResult (r : SignOn) : SlotState → SlotState
  | .present bat key issue _ => .present bat key issue r
  | st => st

/-- A change of the sign-on result that the desk unit makes to a PRESENT slot (R74). -/
def State.setResult (s : State) (d : Desk) (k : SlotId) (r : SignOn) : State :=
  s.putSlotState d k ((s.slot d k).state.setResult r)

/-- The reasons of a handover abort (R134). -/
inductive AbortReason where
  | cancelled | timeout | flood | carryFull | outOfService | holderLeft
  deriving DecidableEq, Repr

def AbortReason.code : AbortReason → Nat
  | .cancelled => 1 | .timeout => 2 | .flood => 3 | .carryFull => 4 | .outOfService => 5 | .holderLeft => 6

/-- The abort of a handover (R134); a desk in no handover is left alone. -/
def abortHandover (d : Desk) (reason : AbortReason) (s : State) : State :=
  match (s.unit d).state with
  | .handoverOpen k h =>
    (enter { kind := .handoverAbort, desk := some d, op := some h.outgoing, d1 := some reason.code
             d2 := some h.carried.length } s).putDeskState d (.attended k)
  | .handoverReview k h op =>
    (enter { kind := .handoverAbort, desk := some d, op := some h.outgoing, d1 := some reason.code
             d2 := some h.carried.length } (s.setResult d k.other (.companion op false))).putDeskState d (.attended k)
  | _ => s

/-- An unbriefed entry is put into a desk's carried list (R125, R126): an entry the point already has is re-marked
where it stands, else one is added at the end, and a 33rd aborts the handover. -/
def carryEntry (d : Desk) (tag : Tag) (st : Standing) (s : State) : State :=
  if (s.carried d).any (fun e => decide (e.tag = tag)) then
    s.mapCarried d (fun l => l.map (fun e => if e.tag = tag then { tag := tag, standing := st, briefed := false } else e))
  else if (s.carried d).length < Config.carriedDepth then
    s.mapCarried d (fun l => l ++ [{ tag := tag, standing := st, briefed := false }])
  else abortHandover d .carryFull s

/-- The entries of some points are removed from a desk's carried list (R127). -/
def dropCarried (d : Desk) (gone : Tag → Bool) (s : State) : State :=
  s.mapCarried d (fun l => l.filter (fun e => !gone e.tag))

/-- A desk unit in handover is told of a change of a point's state (R10): entering UNACK is R125, leaving the list
R127, any other change R128. -/
def tellDesk (d : Desk) (tag : Tag) : Option Standing → State → State
  | some .unack, s => if s.inHandover d then carryEntry d tag .unack s else s
  | some st, s => s.mapCarried d (fun l => l.map (fun e => if e.tag = tag then { e with standing := st } else e))
  | none, s => dropCarried d (fun t => decide (t = tag)) s

/-- The desk of a target is told. -/
def tellTarget (t : Target) (tag : Tag) (st : Option Standing) (s : State) : State :=
  match t with
  | .desk d => tellDesk d tag st s
  | .room => s

/-! ### Changes of a point -/

/-- A record that stands in no attention list is not silenced (R6). -/
def Point.unlisted (p : Point) : Point :=
  if p.standing.isSome then p else { p with silenced := false }

/-- A point's record is replaced while its target is `t`, with the consequences of R10 where its state changes: list
membership, the STATE entry, ALARM attention, and the word to a desk in handover. A record that leaves its list without
a change of state has its carried entry removed (R21). -/
def changePointAt (t : Target) (tag : Tag) (old new : Point) (s : State) : State :=
  let s1 := s.putPoint tag new.unlisted
  if old.state.code ≠ new.state.code then
    tellTarget t tag new.standing
      (enter { kind := .state, desk := t.desk?, tag := some tag, d1 := some old.state.code
               d2 := some new.state.code } s1)
  else if old.standing.isSome && new.standing.isNone then tellTarget t tag none s1
  else s1

/-- A point's record is replaced, its target being that of its area (R10). -/
def changePoint (tag : Tag) (old new : Point) (s : State) : State :=
  changePointAt (s.target new.area) tag old new s

/-- The flood flag of a target silences an arrival of base priority 3 (R9, R60). -/
def State.silencedOnArrival (s : State) (t : Target) (p : Point) : Bool :=
  decide (p.base = 3) && (s.loadOf t).flood

/-- A point enters UNACK as an arrival at a target (R9, R55): its weight is added and its silenced field set. `new`
carries the other changes. -/
def arriveAt (t : Target) (tag : Tag) (old new : Point) (s : State) : State :=
  changePointAt t tag old { new with silenced := s.silencedOnArrival t new } (addWeight t (arrivalWeight new.base) s)

/-- A point enters UNACK as an arrival at the target of its area (R9), the record `new` carrying the changes its own
rule makes. -/
def arrive (tag : Tag) (old new : Point) (s : State) : State :=
  arriveAt (s.target new.area) tag old { new with state := .unack s.runSeconds, effective := new.base } s

/-- A record-only point enters ACKED by auto-acknowledgement (R15, R103): its ACK entry names no operator. -/
def autoAcknowledge (tag : Tag) (old new : Point) (s : State) : State :=
  changePoint tag old { new with state := .acked s.runSeconds, effective := new.base }
    (enter { kind := .ack, tag := some tag, d1 := some old.state.code } s)

/-- A point returns to NORMAL: its activation time goes and its effective priority is its base (R8, R11, R13). -/
def Point.toNormal (p : Point) : Point :=
  { p with state := .normal, effective := p.base }

/-- An ACTIVE frame reaches a point (R7, R15). -/
def activeFrame (tag : Tag) (p : Point) (s : State) : State :=
  let raised := { p with active := true }
  match p.state with
  | .normal =>
    if p.base ≤ 3 then arrive tag p { raised with repeats := 0 } s
    else autoAcknowledge tag p { raised with repeats := 0 } s
  | .rtnUnack _ =>
    if p.base ≤ 3 then arrive tag p { raised with repeats := min 255 (p.repeats + 1) } s else s.putPoint tag raised
  | .unack _ | .acked _ | .shelved _ _ => s.putPoint tag raised

/-- A CLEAR frame reaches a point (R8, R15). -/
def clearFrame (tag : Tag) (p : Point) (s : State) : State :=
  let cleared := { p with active := false }
  match p.state with
  | .unack t => if p.base ≤ 3 then changePoint tag p { cleared with state := .rtnUnack t } s else s.putPoint tag cleared
  | .acked _ => changePoint tag p cleared.toNormal s
  | .normal | .rtnUnack _ | .shelved _ _ => s.putPoint tag cleared

/-- The record an acknowledgement by an operator leaves (R11). -/
def Point.acknowledged (op : OpIndex) (p : Point) : Point :=
  match p.state with
  | .unack t => { p with state := .acked t, lastAck := some op }
  | .rtnUnack _ => { p.toNormal with lastAck := some op }
  | .normal | .acked _ | .shelved _ _ => p

/-- A point in UNACK or RTN_UNACK is acknowledged by the holder of a desk (R11): the ACK entry of R104, then the
change of state. -/
def acknowledge (d : Desk) (op : OpIndex) (tag : Tag) (p : Point) (s : State) : State :=
  changePoint tag p (p.acknowledged op)
    (enter { kind := .ack, desk := some d, op := some op, tag := some tag, d1 := some p.state.code
             d2 := some (s.target p.area).code } s)

/-- A forced re-alarm at the desk where the handover was (R14, R55, R140): a point in ACKED enters UNACK as an arrival
at that desk, keeping its activation time. -/
def forcedRealarm (d : Desk) (tag : Tag) (s : State) : State :=
  match s.point tag with
  | some p =>
    match p.state with
    | .acked t =>
      if p.base ≤ 3 then
        arriveAt (.desk d) tag p { p with state := .unack t, effective := p.escalatedNow s.runSeconds } s
      else s
    | _ => s
  | none => s

/-- A point enters SHELVED (R12, R110), after its SHELVE entry. -/
def shelvePoint (tag : Tag) (p : Point) (expiry : Word32) (op : OpIndex) (s : State) : State :=
  changePoint tag p { p with state := .shelved expiry op, effective := p.base, silenced := false } s

/-- The state a point leaving SHELVED goes to, as its code (R113). -/
def Point.returnCode (p : Point) : Nat :=
  if p.active then (if p.base ≤ 3 then 1 else 2) else 0

/-- A point leaves SHELVED by its active field (R13, R16, R113), after its UNSHELVE or SHELF_EXPIRY entry. -/
def returnFromShelf (tag : Tag) (p : Point) (s : State) : State :=
  if p.active then
    if p.base ≤ 3 then arrive tag p p s else autoAcknowledge tag p p s
  else changePoint tag p p.toNormal s

/-! ### Working out routing (R37) -/

/-- Whether a point that stands has another target after an event than before it. -/
def movedPoint (before after : State) (p : Point) : Bool :=
  p.standing.isSome && decide (before.target p.area ≠ after.target p.area)

/-- Whether the test that builds a carried list takes an item: UNACK, RTN_UNACK, or ACKED at effective priority 1
(R121, R126). -/
def Point.toCarry (p : Point) : Bool :=
  match p.standing with
  | some .unack | some .rtnUnack => true
  | some .acked => decide (p.effective = 1)
  | none => false

/-- A desk in handover takes in a point that moves into its list (R126). -/
def takeIn (d : Desk) (item : Item) (s : State) : State :=
  match item.2.standing with
  | some st => if item.2.toCarry && s.inHandover d then carryEntry d item.1 st s else s
  | none => s

/-- The standing points whose target an event has changed. -/
def movedItems (before after : State) : List Item :=
  after.points.filter (fun e => movedPoint before after e.2)

/-- Whether a tag is among some items. -/
def hasTag (items : List Item) (t : Tag) : Bool :=
  items.any (fun e => decide (e.1 = t))

/-- The silenced field of every moved point is cleared (R37). -/
def clearMoved (before after : State) : State :=
  { after with points := tableMap (fun _ p => if movedPoint before after p then { p with silenced := false } else p)
                 after.points }

/-- The carried entries of the points that moved away from a desk are removed (R37, R127). -/
def dropMoved (before : State) (moved : List Item) (d : Desk) (s : State) : State :=
  dropCarried d (hasTag (moved.filter (fun e => decide (before.target e.2.area = .desk d)))) s

/-- A desk takes in the moved points that now stand in its list, in list order (R126). -/
def takeInMoved (moved : List Item) (d : Desk) (s : State) : State :=
  ((s.attentionList (.desk d)).filter (fun e => hasTag moved e.1)).foldl (fun s' e => takeIn d e s') s

/-- The routing targets are worked out again over the state before an event and the state after it (R37): every
standing point whose target changed has its silenced field cleared, leaves the carried list of its old target and is
taken in at its new one, the desks being worked through in ascending order (log 14). -/
def reroute (before after : State) : State :=
  let moved := movedItems before after
  let left := allDesks.foldl (fun s d => dropMoved before moved d s) (clearMoved before after)
  allDesks.foldl (fun s d => takeInMoved moved d s) left

end Sys2Proof.Machine
end

