-- ==== Sys2Proof/Machine/Desks.lean ====
section
/-! DEFINITION. The desk units and key slots (chapters 04, 05, 07): operators signed on, claims and releases of areas,
sign-on, the ends of a sign-on, the handover protocol, and the permission check. -/

namespace Sys2Proof.Machine

/-! ### Operators and results -/

/-- The order of the roles (R80). -/
def Role.rank : Role → Nat
  | .observer => 0 | .operator => 1 | .senior => 2 | .supervisor => 3

/-- "Role `r` or higher". -/
def Role.atLeast (x r : Role) : Bool :=
  decide (r.rank ≤ x.rank)

/-- Result codes (R206). -/
def SignOn.code : SignOn → Nat
  | .holder _ => 0 | .companion _ _ => 1 | .incoming _ => 2 | .refused _ => 3

/-- The operator a key is signed on against, absent when it is REFUSED (R64). -/
def SignOn.op? : SignOn → Option OpIndex
  | .holder op | .companion op _ | .incoming op => some op
  | .refused _ => none

/-- Reason codes of a refused key (R88, R206). -/
def KeyRefusal.code : KeyRefusal → Nat
  | .unknownKey => 1 | .revoked => 2 | .locked => 3 | .expired => 4 | .duplicate => 5

/-- The operator signed on in a slot (R64). -/
def State.signedOn (s : State) (d : Desk) (k : SlotId) : Option OpIndex :=
  (s.slot d k).state.result?.bind SignOn.op?

/-- The twelve slots, desk by desk, A before B. -/
def slotPlaces : List (Desk × SlotId) :=
  allDesks.flatMap (fun d => allSlots.map (fun k => (d, k)))

/-- Where an operator record is signed on (R88: in at most one slot). -/
def State.whereSignedOn (s : State) (op : OpIndex) : Option (Desk × SlotId) :=
  slotPlaces.find? (fun e => decide (s.signedOn e.1 e.2 = some op))

/-- A desk's holder: the operator of the key in the holder slot, whose result is HOLDER (R91). -/
def State.holder (s : State) (d : Desk) : Option OpIndex :=
  match (s.unit d).state.holderSlot? with
  | some k =>
    match (s.slot d k).state.result? with
    | some (.holder op) => some op
    | _ => none
  | none => none

/-- The record that holds a key number, with its index (R88). -/
def State.keyRecord (s : State) (key : KeyNumber) : Option (OpIndex × OperatorRecord) :=
  s.operators.find? (fun e => decide (e.2.key = key))

/-- The validity window of R88: passed while mill time is UNSET, else by plain day numbers (R175). -/
def State.windowPassed (s : State) (r : OperatorRecord) : Bool :=
  match s.mill with
  | none => true
  | some c => r.validFrom.all (fun v => decide (v ≤ c.now.day)) && r.validUntil.all (fun v => decide (c.now.day ≤ v))

/-- The areas a desk owns, ascending (R35). -/
def State.ownedAreas (s : State) (d : Desk) : List Area :=
  (s.owners.filter (fun e => decide (e.2 = d))).map (·.1)

/-- The incoming qualification (R90). -/
def State.qualifies (s : State) (d : Desk) (r : OperatorRecord) : Bool :=
  r.role.atLeast .operator && (s.ownedAreas d).all (inSet r.areas) && s.windowPassed r

/-- 256 times the slot code plus a figure, the first detail of key and desk entries (R77, R88, R92, R142). -/
def slotDetail (k : SlotId) (n : Nat) : Nat :=
  256 * k.code + n

/-! ### Ownership -/

/-- An ownership entry changes, with its AREA entry (R41): detail 1 the area, detail 2 the old owner or 255. -/
def changeOwner (a : Area) (new : Option Desk) (s : State) : State :=
  enter { kind := .area, desk := new, op := new.bind s.holder, d1 := some a.val
          d2 := some (((s.owner a).map Desk.code).getD 255) } (s.setOwner a new)

/-- A desk releases every area it owns outside a set, in ascending order (R40). -/
def releaseOutside (d : Desk) (kept : AreaSet) (s : State) : State :=
  ((s.ownedAreas d).filter (fun a => !inSet kept a)).foldl (fun s' a => changeOwner a none s') s

/-- Every area in ascending order. -/
def allAreas : List Area := List.finRange 64

/-- A desk that has gained a holder claims its unowned home areas in the holder's permitted set, in ascending order
(R38). -/
def claimHome (d : Desk) (permitted : AreaSet) (s : State) : State :=
  allAreas.foldl
    (fun s' a =>
      if inSet (s.unit d).home a && inSet permitted a && (s'.owner a).isNone then changeOwner a (some d) s' else s') s

/-! ### Gaining a holder and signing on -/

/-- DUE and DUE_LATE are cleared (R143). -/
def clearDue (d : Desk) (s : State) : State :=
  s.putUnit d { s.unit d with due := none }

/-- A VACANT desk gains a holder: the key's result is HOLDER, the desk ATTENDED, DUE cleared, SIGN_ON journalled with
second detail `d2`, home areas claimed (R89, R93). -/
def gainHolder (d : Desk) (k : SlotId) (op : OpIndex) (permitted : AreaSet) (d2 : Nat) (s : State) : State :=
  claimHome d permitted
    (enter { kind := .signOn, desk := some d, op := some op, d1 := some (slotDetail k 0), d2 := some d2 }
      (clearDue d ((s.setResult d k (.holder op)).putDeskState d (.attended k))))

/-- A key becomes COMPANION at sign-on, with NOT_QUALIFIED or without (R89). -/
def signOnCompanion (d : Desk) (k : SlotId) (op : OpIndex) (notQualified : Bool) (s : State) : State :=
  enter { kind := .signOn, desk := some d, op := some op, d1 := some (slotDetail k 1)
          d2 := some (if notQualified then 1 else 0) } (s.setResult d k (.companion op notQualified))

/-- The INCOMING entry (R142). -/
def incomingEntry (d : Desk) (k : SlotId) (op : OpIndex) (cause d2 : Nat) : Draft :=
  { kind := .incoming, desk := some d, op := some op, d1 := some (slotDetail k cause), d2 := some d2 }

/-- An accepted key is given its result by the state of its desk (R89, R123). HANDOVER_REVIEW and OUT_OF_SERVICE meet
no accepted key (R89); there the key is a companion (log 24). -/
def acceptKey (d : Desk) (k : SlotId) (op : OpIndex) (r : OperatorRecord) (s : State) : State :=
  match (s.unit d).state with
  | .vacant => if r.role.atLeast .operator then gainHolder d k op r.areas 0 s else signOnCompanion d k op false s
  | .handoverOpen hk h =>
    if s.qualifies d r then
      enter (incomingEntry d k op 1 h.carried.length)
        (enter { kind := .signOn, desk := some d, op := some op, d1 := some (slotDetail k 2), d2 := some 0 }
          ((s.setResult d k (.incoming op)).putDeskState d (.handoverReview hk h op)))
    else signOnCompanion d k op true s
  | .attended _ | .handoverReview _ _ _ | .outOfService => signOnCompanion d k op false s

/-- A key is refused at the sign-on check (R88). -/
def refuseKey (d : Desk) (k : SlotId) (op : Option OpIndex) (reason : KeyRefusal) (s : State) : State :=
  enter { kind := .signRefused, desk := some d, op := op, d1 := some (slotDetail k reason.code) }
    (s.setResult d k (.refused reason))

/-- The sign-on check of an identity, its slot being in PRESENT without a sign-on (R88). -/
def signOnCheck (d : Desk) (k : SlotId) (key : KeyNumber) (issue : Byte) (s : State) : State :=
  match s.keyRecord key with
  | none => refuseKey d k none .unknownKey s
  | some (op, r) =>
    if r.issue ≠ issue then refuseKey d k (some op) .revoked s
    else if r.locked then refuseKey d k (some op) .locked s
    else if !s.windowPassed r then refuseKey d k (some op) .expired s
    else if (s.whereSignedOn op).isSome then refuseKey d k (some op) .duplicate s
    else acceptKey d k op r s

/-! ### The ends of a sign-on -/

/-- How a sign-on ends: the key drawn, the record revoked, or the desk taken out of service (R92). -/
inductive LossCause where
  | removal | revocation | outOfService
  deriving DecidableEq, Repr

def LossCause.code : LossCause → Nat
  | .removal => 1 | .revocation => 2 | .outOfService => 3

/-- SIGN_OFF is journalled (R92). -/
def signOff (d : Desk) (k : SlotId) (op : OpIndex) (cause : LossCause) (s : State) : State :=
  enter { kind := .signOff, desk := some d, op := some op, d1 := some (slotDetail k cause.code) } s

/-- The companion in a slot that a desertion promotes: a key with the result COMPANION whose record's role is now
OPERATOR or higher (R93). -/
def State.promotable (s : State) (d : Desk) (k : SlotId) : Option (OpIndex × OperatorRecord) :=
  match (s.slot d k).state.result? with
  | some (.companion op _) =>
    match s.operator op with
    | some r => if r.role.atLeast .operator then some (op, r) else none
    | none => none
  | _ => none

/-- A desertion by the holder in slot `k` (R93): abort of an open handover, DESERTED, release of every area, the desk
VACANT, promotion of a companion. Routing is worked out at the end of the event. -/
def desert (d : Desk) (k : SlotId) (op : OpIndex) (cause : LossCause) (s : State) : State :=
  let promoted := s.promotable d k.other
  let s1 := abortHandover d .holderLeft s
  let s2 := enter { kind := .deserted, desk := some d, op := some op, d1 := some (slotDetail k cause.code)
                    d2 := some ((promoted.map (fun e => e.1.val)).getD 255) } s1
  let s3 := clearDue d ((releaseOutside d 0 s2).putDeskState d .vacant)
  match promoted with
  | some (op', r) => gainHolder d k.other op' r.areas 2 s3
  | none => s3

/-- The points a forced takeover re-alarms: unbriefed entries whose recorded state is ACKED, in order (R140). -/
def noted (entries : List Carried) : List Tag :=
  ((unbriefed entries).filter (fun e => decide (e.standing = .acked))).map (·.tag)

/-- A forced takeover (R140): the incoming operator in the other slot takes the desk from the outgoing key in slot
`k`, and the noted points are re-alarmed at this desk, whatever their targets become at the end of the event (R55). -/
def forcedTakeover (d : Desk) (k : SlotId) (h : Handover) (inc : OpIndex) (cause : LossCause) (s : State) : State :=
  let tags := noted h.carried
  let s1 := s.setResult d k.other (.holder inc)
  let s2 := enter { kind := .handoverForced, desk := some d, op := some inc
                    d1 := some (256 * cause.code + h.outgoing.val), d2 := some tags.length } s1
  let s3 := clearDue d (s2.putDeskState d (.attended k.other))
  tags.foldl (fun s' t => forcedRealarm d t s') s3

/-- The incoming operator in slot `k` leaves a handover (R124): the desk goes back to HANDOVER_OPEN and every mark is
cleared; `cause` is 3, 4 or 5. -/
def incomingLeaves (d : Desk) (k : SlotId) (cause : Nat) (s : State) : State :=
  match (s.unit d).state with
  | .handoverReview hk h inc =>
    let cleared := { h with carried := h.carried.map (fun e => { e with briefed := false }) }
    enter (incomingEntry d k inc cause (h.carried.filter (·.briefed)).length)
      (s.putDeskState d (.handoverOpen hk cleared))
  | _ => s

/-- What the desk unit does when a signed-on key in slot `k` is drawn or revoked, by the result it had (R75, R85,
R92). The slot has already been changed. -/
def loseKey (d : Desk) (k : SlotId) (result : SignOn) (cause : LossCause) (s : State) : State :=
  match result with
  | .refused _ => s
  | .companion op _ => signOff d k op cause s
  | .incoming _ => incomingLeaves d k (match cause with | .removal => 3 | _ => 4) s
  | .holder op =>
    match (s.unit d).state with
    | .handoverReview _ h inc => forcedTakeover d k h inc cause s
    | _ => desert d k op cause s

/-- A revocation (R76, R85): the key stays seated, its result becoming REFUSED with the reason. -/
def revoke (d : Desk) (k : SlotId) (reason : KeyRefusal) (s : State) : State :=
  match (s.slot d k).state.result? with
  | some r => loseKey d k r .revocation (s.setResult d k (.refused reason))
  | none => s

/-! ### The permission check (R95) -/

/-- The refusal reasons of R194. -/
inductive Reason where
  | notPermitted | notSignedOn | notAttended | wrongState | flood | carryFull | shelfFull | notShelvable | inHandover
  | duplicateKey | supervisorTaken | notLocal
  deriving DecidableEq, Repr

/-- Refusal reason codes (R206). -/
def Reason.code : Reason → Nat
  | .notPermitted => 1 | .notSignedOn => 2 | .notAttended => 3 | .wrongState => 4 | .flood => 5 | .carryFull => 6
  | .shelfFull => 7 | .notShelvable => 8 | .inHandover => 9 | .duplicateKey => 11 | .supervisorTaken => 12
  | .notLocal => 13

/-- A desk's holder with the holder's record. -/
def State.holderRecord (s : State) (d : Desk) : Option (OpIndex × OperatorRecord) :=
  (s.holder d).bind (fun op => (s.operator op).map (fun r => (op, r)))

/-- The first two tests of R95 for an action of the holder: a holder at the desk, then the role. -/
def holderWith (d : Desk) (role : Role) (s : State) : Except Reason (OpIndex × OperatorRecord) :=
  match s.holderRecord d with
  | none => .error .notSignedOn
  | some (op, r) => if r.role.atLeast role then .ok (op, r) else .error .notPermitted

/-- The operator a SILENCE is attributed to (R107): the holder, else the key signed on in slot A, else in slot B. -/
def State.silencer (s : State) (d : Desk) : Option OpIndex :=
  (s.holder d).orElse (fun _ => (s.signedOn d .a).orElse (fun _ => s.signedOn d .b))

/-! ### Acknowledging, silencing -/

/-- An acknowledgement is refused: ACK_REFUSED (R104); `how` is 1 for a press and 2 for a message. -/
def refuseAck (d : Desk) (tag : Option Tag) (reason : Reason) (how : Nat) (s : State) : State :=
  enter { kind := .ackRefused, desk := some d, op := s.holder d, tag := tag, d1 := some reason.code
          d2 := some how } s

/-- The tests of the permission check on the point an acknowledgement names: its area in the permitted set, and its
target the desk or the holder a SUPERVISOR (R95, R98). -/
def State.mayAcknowledge (s : State) (d : Desk) (r : OperatorRecord) (p : Point) : Bool :=
  inSet r.areas p.area && (decide (s.target p.area = .desk d) || decide (r.role = .supervisor))

/-- Whether a SILENCE on a target's list silences a point (R105). -/
def State.silences (s : State) (t : Target) (p : Point) : Bool :=
  s.standsAt t p && p.isUnack && !p.silenced

/-- The number of points a SILENCE silences in a target's list (R107). -/
def State.silenceCount (s : State) (t : Target) : Nat :=
  (s.points.filter (fun e => s.silences t e.2)).length

/-- A SILENCE on a target's list (R105). -/
def silenceList (t : Target) (s : State) : State :=
  { s with points := tableMap (fun _ p => if s.silences t p then { p with silenced := true } else p) s.points }

/-- The number a SILENCE action at a desk silences in the room list, present at the supervisor desk alone (R106). -/
def State.roomSilenceCount (s : State) (d : Desk) : Option Nat :=
  if s.supervisor = some d then some (s.silenceCount .room) else none

/-- A SILENCE action at a desk that has passed the check (R105 to R107). -/
def silenceDesk (d : Desk) (op : OpIndex) (s : State) : State :=
  let n := s.silenceCount (.desk d)
  let room := s.roomSilenceCount d
  let s1 := silenceList (.desk d) s
  let s2 := if room.isSome then silenceList .room s1 else s1
  let s3 := enter { kind := .silence, desk := some d, op := some op, d1 := some n, d2 := room } s2
  if 0 < n + room.getD 0 then setPending .alarm s3 else s3

/-! ### The handover protocol (chapter 07) -/

/-- The entries an opening carries, in list order (R121). -/
def State.toCarry (s : State) (d : Desk) : List Carried :=
  (s.attentionList (.desk d)).filterMap (fun e =>
    match e.2.standing with
    | some st => if e.2.toCarry then some { tag := e.1, standing := st, briefed := false } else none
    | none => none)

/-- A companion in the slot that is not the holder slot is put to the incoming qualification at an opening (R122). -/
def companionAtOpening (d : Desk) (k : SlotId) (h : Handover) (s : State) : State :=
  match (s.slot d k.other).state.result? with
  | some (.companion op _) =>
    match s.operator op with
    | some r =>
      if s.qualifies d r then
        enter (incomingEntry d k.other op 2 h.carried.length)
          ((s.setResult d k.other (.incoming op)).putDeskState d (.handoverReview k h op))
      else s
    | none => s
  | _ => s

/-- A handover is opened at an ATTENDED desk by its holder (R121, R122). -/
def openHandover (d : Desk) (k : SlotId) (op : OpIndex) (s : State) : State :=
  let h : Handover := { outgoing := op, openedAt := s.runSeconds
                        limitExpiry := later s.runSeconds (60 * s.limits.handoverLimit), carried := s.toCarry d }
  companionAtOpening d k h
    (enter { kind := .handoverOpen, desk := some d, op := some op, d1 := some h.carried.length
             d2 := some s.limits.handoverLimit } (s.putDeskState d (.handoverOpen k h)))

/-- The tests of an opening after the permission check (R120): ATTENDED, not in flood, room for what is carried. -/
def openTests (d : Desk) (s : State) : Except Reason SlotId :=
  match (s.unit d).state with
  | .attended k =>
    if (s.loadOf (.desk d)).flood then .error .flood
    else if Config.carriedDepth < (s.toCarry d).length then .error .carryFull
    else .ok k
  | _ => .error .wrongState

/-- All tests of an opening (R120), giving the holder slot and the holder. -/
def mayOpen (d : Desk) (s : State) : Except Reason (SlotId × OpIndex) :=
  match holderWith d .operator s with
  | .error e => .error e
  | .ok (op, _) =>
    match openTests d s with
    | .error e => .error e
    | .ok k => .ok (k, op)

/-- The tests of a cancellation by message (R135). -/
def mayCancel (d : Desk) (s : State) : Except Reason Unit :=
  match holderWith d .operator s with
  | .error e => .error e
  | .ok _ => if s.inHandover d then .ok () else .error .wrongState

/-- The tests of a commit (R132), giving the holder slot, the record and the incoming operator. -/
def mayCommit (d : Desk) (s : State) : Except Reason (SlotId × Handover × OpIndex) :=
  match holderWith d .operator s with
  | .error e => .error e
  | .ok _ =>
    match (s.unit d).state with
    | .handoverReview k h inc => if (unbriefed h.carried).isEmpty then .ok (k, h, inc) else .error .wrongState
    | _ => .error .wrongState

/-- A commit (R132). -/
def commitHandover (d : Desk) (k : SlotId) (h : Handover) (inc : OpIndex) (s : State) : State :=
  let s1 := (s.setResult d k.other (.holder inc)).setResult d k (.companion h.outgoing false)
  (enter { kind := .handoverDone, desk := some d, op := some inc, d1 := some h.outgoing.val
           d2 := some h.carried.length } (clearDue d s1)).putDeskState d (.attended k.other)

/-- The briefed mark of a tag's entry is set. -/
def markBriefed (tag : Tag) (entries : List Carried) : List Carried :=
  entries.map (fun e => if e.tag = tag then { e with briefed := true } else e)

/-- An unbriefed entry is briefed (R130): the mark, then the BRIEF entry; `how` is 1 for a press and 2 for a
message. -/
def briefEntry (d : Desk) (inc : OpIndex) (tag : Tag) (how : Nat) (s : State) : State :=
  let s1 := s.mapCarried d (markBriefed tag)
  enter { kind := .brief, desk := some d, op := some inc, tag := some tag
          d1 := some (unbriefed (s1.carried d)).length, d2 := some how } s1

/-! ### Service -/

/-- A slot of a desk taken out of service (R67). -/
def SlotState.unpower : SlotState → SlotState
  | .empty => .empty
  | .oneContact => .oneContact
  | .unpowered | .settling | .reading _ _ _ | .present _ _ _ _ | .faultBattery | .faultRead _ => .unpowered

/-- A slot of a desk returned to service (R67): a seated key settles afresh. -/
def SlotState.repower : SlotState → SlotState
  | .unpowered => .settling
  | st => st

/-- A signed-on key of a desk going out of service is signed off (R94). -/
def signOffSlot (d : Desk) (k : SlotId) (s : State) : State :=
  match s.signedOn d k with
  | some op => signOff d k op .outOfService s
  | none => s

/-- A change of both slots' states. -/
def mapSlots (d : Desk) (f : SlotState → SlotState) (s : State) : State :=
  (s.putSlotState d .a (f (s.slot d .a).state)).putSlotState d .b (f (s.slot d .b).state)

/-- An in-service desk is taken out of service (R94, R138). -/
def takeOutOfService (d : Desk) (s : State) : State :=
  let s1 := abortHandover d .outOfService s
  let s2 := signOffSlot d .b (signOffSlot d .a s1)
  let s3 := (releaseOutside d 0 s2).putDeskState d .outOfService
  mapSlots d SlotState.unpower (clearDue d s3)

/-- An out-of-service desk is returned to service (R94). -/
def returnToService (d : Desk) (s : State) : State :=
  mapSlots d SlotState.repower (s.putDeskState d .vacant)

end Sys2Proof.Machine
end

