-- ==== Sys2Proof/Machine/Operands.lean ====
section
/-! DEFINITION. The operands of the frame commands: each request body read by its layout (R206, R208). A body of the
wrong length, or with a code or a value its rule refuses with BAD_FIELD whatever the state, reads as `none`; values
that a rule clamps are clamped here. -/

namespace Sys2Proof.Machine

/-- A value clamped to a range (00 "Refusals and clamps"). -/
def clamp (lo hi n : Nat) : Nat :=
  max lo (min hi n)

/-- A body with no fields. -/
def readNothing (body : List Byte) : Option Unit :=
  if body.length = 0 then some () else none

/-- The role of a role code (R206). -/
def Role.ofCode : Nat → Option Role
  | 0 => some .observer | 1 => some .operator | 2 => some .senior | 3 => some .supervisor
  | _ => none

def Role.code : Role → Nat
  | .observer => 0 | .operator => 1 | .senior => 2 | .supervisor => 3

def MarkMode.ofCode : Nat → Option MarkMode
  | 0 => some .strict | 1 => some .follow
  | _ => none

def MarkMode.code : MarkMode → Nat
  | .strict => 0 | .follow => 1

def ClearMode.ofCode : Nat → Option ClearMode
  | 0 => some .byCommand | 1 => some .byStatus
  | _ => none

def ClearMode.code : ClearMode → Nat
  | .byCommand => 0 | .byStatus => 1

/-- A body naming a tag: CLEAR_POINT, POINT_READ. -/
def readTag (body : List Byte) : Option Tag :=
  if body.length = 2 then tagOf (field body 0 2) else none

/-- A body naming a desk: SILENCE, HANDOVER_OPEN, HANDOVER_CANCEL, HANDOVER_COMMIT. -/
def readDesk (body : List Byte) : Option Desk :=
  if body.length = 1 then Desk.ofCode (field body 0 1) else none

/-- A body naming an operator index: CLEAR_OPERATOR, OPERATOR_READ. -/
def readIndex (body : List Byte) : Option OpIndex :=
  if body.length = 1 then opOf (field body 0 1) else none

/-- A body naming a desk and a tag: ACK, UNSHELVE, BRIEF. -/
def readDeskTag (body : List Byte) : Option (Desk × Tag) :=
  if body.length = 3 then
    match Desk.ofCode (field body 0 1), tagOf (field body 1 2) with
    | some d, some t => some (d, t)
    | _, _ => none
  else none

/-- SHELVE: desk, tag, minutes clamped to 1 to 480 (R109). -/
def readShelve (body : List Byte) : Option (Desk × Tag × Nat) :=
  if body.length = 5 then
    match Desk.ofCode (field body 0 1), tagOf (field body 1 2) with
    | some d, some t => some (d, t, clamp 1 480 (field body 3 2))
    | _, _ => none
  else none

/-- SET_POINT (R17): the tag and the configuration fields, the step clamped to 120. -/
def readSetPoint (body : List Byte) : Option (Tag × StoredPoint) :=
  if body.length = 6 then
    match tagOf (field body 0 2), areaOf (field body 2 1), yesNoOf (field body 5 1) with
    | some t, some a, some sh =>
      let base := field body 3 1
      if 1 ≤ base ∧ base ≤ 4 then
        some (t, { area := a, base := base, step := min 120 (field body 4 1), shelvable := sh })
      else none
    | _, _, _ => none
  else none

/-- An optional desk code: 255 names none (R206). -/
def deskOrNone (n : Nat) : Option (Option Desk) :=
  if n = 255 then some none else (Desk.ofCode n).map some

/-- ASSIGN_AREA (R39): area and desk or none. -/
def readAssignArea (body : List Byte) : Option (Area × Option Desk) :=
  if body.length = 2 then
    match areaOf (field body 0 1), deskOrNone (field body 1 1) with
    | some a, some d => some (a, d)
    | _, _ => none
  else none

/-- An optional value: its presence byte, then the value (R206); `none` for a bad presence byte. -/
def optField (present value : Nat) : Option (Option Nat) :=
  match yesNoOf present with
  | some true => some (some value)
  | some false => some none
  | none => none

/-- Whether a character of a display tag is printable: 32 to 126 (R208). -/
def printable (b : Byte) : Bool :=
  decide (32 ≤ b.toNat) && decide (b.toNat ≤ 126)

/-- A display tag: its length byte, 255 for absent, and its twelve characters, those beyond the length being padding
(R206, R208). -/
def readDisplayTag (len : Nat) (chars : List Byte) : Option (Option (List Byte)) :=
  if len = 255 then some none
  else if len ≤ 12 ∧ (chars.take len).all printable then some (some (chars.take len))
  else none

/-- An operator record's 33 bytes (R208), tested as R82's tests of the fields give. -/
def readRecord (r : List Byte) : Option OperatorRecord :=
  match Role.ofCode (field r 4 1), optField (field r 13 1) (field r 14 2), optField (field r 16 1) (field r 17 2),
      yesNoOf (field r 19 1), readDisplayTag (field r 20 1) (slice r 21 12) with
  | some role, some validFrom, some validUntil, some locked, some displayTag =>
    let windowOk := match validFrom, validUntil with
      | some f, some u => decide (f ≤ u)
      | _, _ => true
    if field r 0 3 ≠ 0 ∧ windowOk = true then
      some { key := BitVec.ofNat 24 (field r 0 3), issue := BitVec.ofNat 8 (field r 3 1), role := role
             areas := areaSetOf (slice r 5 8), validFrom := validFrom, validUntil := validUntil, locked := locked
             displayTag := displayTag }
    else none
  | _, _, _, _, _ => none

/-- SET_OPERATOR (R82): index and record. -/
def readSetOperator (body : List Byte) : Option (OpIndex × OperatorRecord) :=
  if body.length = 34 then
    match opOf (field body 0 1), readRecord (body.drop 1) with
    | some i, some r => some (i, r)
    | _, _ => none
  else none

/-- TIME_MARK (R168): a second of day of 86400 or more is refused. -/
def readTimeMark (body : List Byte) : Option MillTime :=
  if body.length = 5 ∧ field body 2 3 < 86400 then some { day := field body 0 2, second := field body 2 3 } else none

/-- Whether a list of numbers is strictly increasing (R166). -/
def increasing : List Nat → Bool
  | [] => true
  | [_] => true
  | x :: y :: rest => decide (x < y) && increasing (y :: rest)

/-- A legal schedule: one to four starts below 86400, strictly increasing (R166). -/
def scheduleOk (starts : List Nat) : Bool :=
  decide (1 ≤ starts.length) && decide (starts.length ≤ 4) && starts.all (fun s => decide (s < 86400)) &&
    increasing starts

/-- SET_SCHEDULE (R204): starts, mark mode, HOLD. Starts beyond the given number are ignored. -/
def readSchedule (body : List Byte) : Option (List Nat × MarkMode × Bool) :=
  if body.length = 15 ∧ field body 0 1 ≤ 4 then
    let starts := ([field body 1 3, field body 4 3, field body 7 3, field body 10 3]).take (field body 0 1)
    match MarkMode.ofCode (field body 13 1), yesNoOf (field body 14 1) with
    | some m, some h => if scheduleOk starts then some (starts, m, h) else none
    | _, _ => none
  else none

/-- The fields of a SET_DESK (R202): desk, in service and supervisor, home set, tone, hold clamped to 1 to 15. -/
structure SetDeskFields where
  desk : Desk
  inService : Bool
  supervisor : Bool
  home : AreaSet
  tone : Nat
  hornHold : Nat
  deriving DecidableEq, Repr

/-- SET_DESK (R202). -/
def readSetDesk (body : List Byte) : Option SetDeskFields :=
  if body.length = 13 ∧ field body 11 1 ≤ 7 then
    match Desk.ofCode (field body 0 1), yesNoOf (field body 1 1), yesNoOf (field body 2 1) with
    | some d, some serv, some sup =>
      some { desk := d, inService := serv, supervisor := sup, home := areaSetOf (slice body 3 8)
             tone := field body 11 1, hornHold := clamp 1 15 (field body 12 1) }
    | _, _, _ => none
  else none

/-- SET_LIMITS (R59, R203): clamped, and refused when flood-off is not below the clamped flood-on. -/
def readLimits (body : List Byte) : Option Limits :=
  if body.length = 7 then
    let up := clamp 16 4095 (field body 0 2)
    if field body 2 2 < up then
      some { flood := { onAt := up, offAt := field body 2 2 }, handoverLimit := clamp 1 30 (field body 4 1)
             dueGrace := clamp 0 120 (field body 5 1), silenceTime := clamp 2 60 (field body 6 1) }
    else none
  else none

/-- The clamps of SET_FLASH, each against the values already clamped (R146). -/
def clampFlash (c df da g : Nat) : Flash :=
  let c' := clamp 20 200 c
  { c := c', df := clamp 1 c' df, da := clamp 1 (c' / 2) da, g := min 15 g }

/-- SET_FLASH (R146, R204). -/
def readFlash (body : List Byte) : Option Flash :=
  if body.length = 4 then some (clampFlash (field body 0 1) (field body 1 1) (field body 2 1) (field body 3 1))
  else none

/-- ATTN_CONTROL (R185): class enables, global enable, clear mode. -/
def readAttnControl (body : List Byte) : Option (ClassSet × Bool × ClearMode) :=
  if body.length = 3 then
    match yesNoOf (field body 1 1), ClearMode.ofCode (field body 2 1) with
    | some g, some m => some (BitVec.ofNat 8 (field body 0 1), g, m)
    | _, _ => none
  else none

/-- ATTN_CLEAR (R188). -/
def readAttnClear (body : List Byte) : Option ClassSet :=
  if body.length = 1 then some (BitVec.ofNat 8 (field body 0 1)) else none

/-- LIST_READ (R49): target, start position, count clamped to 1 to 16. -/
def readListRead (body : List Byte) : Option (Target × Nat × Nat) :=
  if body.length = 4 then
    (Target.ofCode (field body 0 1)).map (fun t => (t, field body 1 2, clamp 1 16 (field body 3 1)))
  else none

/-- JOURNAL_READ (R182): from-sequence and count, at most four entries being served. -/
def readJournalRead (body : List Byte) : Option (Word32 × Nat) :=
  if body.length = 5 then some (BitVec.ofNat 32 (field body 0 4), clamp 1 4 (field body 4 1)) else none

/-- DESK_READ (R209): desk, and whether part 1 is asked for. -/
def readDeskRead (body : List Byte) : Option (Desk × Bool) :=
  if body.length = 2 then
    match Desk.ofCode (field body 0 1), yesNoOf (field body 1 1) with
    | some d, some p => some (d, p)
    | _, _ => none
  else none

end Sys2Proof.Machine
end

