-- ==== Sys2Proof/Machine/Replies.lean ====
section
/-! DEFINITION. The bodies of the query replies (R25, R49, R97, R176, R182, R189, R208, R209), byte by byte as R208
lays them out. -/

namespace Sys2Proof.Machine

/-- The answer to a request (R194). -/
inductive Answer where
  | ok (body : List Byte)
  | badType
  | badField
  | notCommandLink
  | refused (reason : Reason)
  | busy
  deriving DecidableEq, Repr

/-- The body of a reply: status, reason, then with OK the body of the type (R207). -/
def Answer.body : Answer → List Byte
  | .ok body => [0, 0] ++ body
  | .badType => [1, 0]
  | .badField => [2, 0]
  | .notCommandLink => [3, 0]
  | .refused r => [4, BitVec.ofNat 8 r.code]
  | .busy => [5, 0]

/-- A number as one byte. -/
def byte (n : Nat) : Byte :=
  BitVec.ofNat 8 n

/-- An optional one-byte code (R206). -/
def optDesk (d : Option Desk) : Byte :=
  optByte (d.map Desk.code)

def optIndex (i : Option OpIndex) : Byte :=
  optByte (i.map (·.val))

/-- A run-second count, four bytes. -/
def seconds (t : Word32) : List Byte :=
  be 4 t.toNat

/-- An optional run-second count: presence byte, then the count or 0 (R206). -/
def optSeconds : Option Word32 → List Byte
  | some t => 1 :: seconds t
  | none => 0 :: be 4 0

/-- A mill time, or UNSET: day 65535 and second 16777215 (R206). -/
def optMill : Option MillTime → List Byte
  | some t => be 2 t.day ++ be 3 t.second
  | none => be 2 65535 ++ be 3 16777215

/-- A desk set with the room, desk `n` at 2^n and the room at 2^6 (R206). -/
def targetSet (p : PerTarget Bool) : Byte :=
  byte (allTargets.foldl (fun acc t => if p.get t then acc + 2 ^ t.code else acc) 0)

/-- The flash settings, four bytes (R208). -/
def Flash.bytes (f : Flash) : List Byte :=
  [byte f.c, byte f.df, byte f.da, byte f.g]

/-! ### POINT_READ -/

def PointOrigin.code : PointOrigin → Nat
  | .configured => 0 | .provisional => 1

/-- The shelf expiry, present in SHELVED (R2). -/
def PointState.expiry? : PointState → Option Word32
  | .shelved t _ => some t
  | .normal | .unack _ | .acked _ | .rtnUnack _ => none

/-- The shelved-by index, present in SHELVED (R2). -/
def PointState.shelvedBy? : PointState → Option OpIndex
  | .shelved _ op => some op
  | .normal | .unack _ | .acked _ | .rtnUnack _ => none

/-- The POINT_READ reply body (R25, R208). -/
def pointReadBody (s : State) (t : Tag) : List Byte :=
  match s.point t with
  | some p =>
    be 2 t.val ++
      [1, byte p.origin.code, byte p.area.val, byte p.base, byte p.step, yesNo p.shelvable, byte p.state.code,
        yesNo p.active] ++
      optSeconds p.state.activation? ++
      [byte p.effective, yesNo p.silenced, byte p.repeats, optIndex p.lastAck] ++
      optSeconds p.state.expiry? ++ [optIndex p.state.shelvedBy?, byte (s.target p.area).code]
  | none =>
    be 2 t.val ++ [0, 0, 0, 0, 0, 0, 0, 0] ++ optSeconds none ++ [0, 0, 0, 255] ++ optSeconds none ++ [255, 255]

/-! ### LIST_READ -/

/-- The carried mark of an item in a target's list: 0 NONE, 1 UNBRIEFED, 2 BRIEFED (R49). -/
def carriedMark (s : State) (t : Target) (tag : Tag) : Nat :=
  match t with
  | .room => 0
  | .desk d =>
    match (s.carried d).find? (fun e => decide (e.tag = tag)) with
    | some e => if e.briefed then 2 else 1
    | none => 0

/-- The number of items of a list in a standing (R49). -/
def countStanding (items : List Item) (st : Standing) : Nat :=
  (items.filter (fun e => decide (e.2.standing = some st))).length

/-- An item of a LIST_READ reply, six bytes (R208). -/
def listItemBytes (s : State) (t : Target) (e : Item) : List Byte :=
  let q := 18 * carriedMark s t e.1 + 9 * (if e.2.silenced then 1 else 0) + 3 * (e.2.effective - 1) +
    ((e.2.standing.map Standing.code).getD 0)
  be 2 (e.1.val + 1024 * q) ++ seconds (e.2.state.activation?.getD 0)

/-- The LIST_READ reply body (R49, R208). -/
def listReadBody (s : State) (t : Target) (start count : Nat) : List Byte :=
  let items := s.attentionList t
  let page := (items.drop start).take count
  [byte t.code] ++ be 2 items.length ++ be 2 (countStanding items .unack) ++
    be 2 (countStanding items .rtnUnack) ++ be 2 (countStanding items .acked) ++ be 2 start ++ [byte page.length] ++
    page.flatMap (listItemBytes s t)

/-! ### JOURNAL_READ -/

/-- The detail presence byte and the details (R208). -/
def detailBytes (d1 d2 : Option Nat) : List Byte :=
  byte ((if d1.isSome then 1 else 0) + (if d2.isSome then 2 else 0)) :: (be 2 (d1.getD 0) ++ be 2 (d2.getD 0))

/-- A journal entry, 23 bytes (R208). -/
def Entry.bytes (e : Entry) : List Byte :=
  seconds e.seq ++ seconds e.runSeconds ++ optMill e.mill ++ [byte e.what.kind.code, optDesk e.what.desk,
    optIndex e.what.op] ++ be 2 ((e.what.tag.map (·.val)).getD 65535) ++ detailBytes e.what.d1 e.what.d2

/-- The sequence number of the oldest retained entry; the next number while none is retained. -/
def State.oldestSeq (s : State) : Word32 :=
  match s.journal with
  | e :: _ => e.seq
  | [] => s.nextSeq

/-- The sequence number of the newest entry made. -/
def State.newestSeq (s : State) : Word32 :=
  s.nextSeq - 1

/-- The entries a JOURNAL_READ returns from a from-sequence on (R182). -/
def journalFrom (s : State) (from_ : Word32) : List Entry :=
  let within := (from_ - s.oldestSeq).toNat
  if within < s.journal.length then s.journal.drop within
  else if (from_ - s.newestSeq).toNat < 2147483648 then []
  else s.journal

/-- The JOURNAL_READ reply body (R182, R208). -/
def journalReadBody (s : State) (from_ : Word32) (count : Nat) : List Byte :=
  let page := (journalFrom s from_).take count
  seconds s.oldestSeq ++ seconds s.newestSeq ++ [byte page.length] ++ page.flatMap Entry.bytes

/-! ### OPERATOR_READ -/

/-- A display tag: its length, 255 when absent, and twelve characters padded with 0 (R206, R208). -/
def displayTagBytes : Option (List Byte) → List Byte
  | some chars => byte chars.length :: ((chars ++ List.replicate 12 0).take 12)
  | none => 255 :: List.replicate 12 0

/-- An optional day: presence byte, then the day or 0 (R206). -/
def optDay : Option Nat → List Byte
  | some d => 1 :: be 2 d
  | none => 0 :: be 2 0

/-- An operator record, 33 bytes (R208). -/
def OperatorRecord.bytes (r : OperatorRecord) : List Byte :=
  be 3 r.key.toNat ++ [r.issue, byte r.role.code] ++ areaSetBytes r.areas ++ optDay r.validFrom ++
    optDay r.validUntil ++ [yesNo r.locked] ++ displayTagBytes r.displayTag

/-- Desk, slot and result of a signed-on record, 255 each when it is not signed on (R97). -/
def signedOnBytes (s : State) (i : OpIndex) : List Byte :=
  match s.whereSignedOn i with
  | some (d, k) => [byte d.code, byte k.code, optByte ((s.slot d k).state.result?.map SignOn.code)]
  | none => [255, 255, 255]

/-- The OPERATOR_READ reply body (R97, R208). -/
def operatorReadBody (s : State) (i : OpIndex) : List Byte :=
  match s.operator i with
  | some r => [byte i.val, 1] ++ r.bytes ++ signedOnBytes s i
  | none => [byte i.val, 0] ++ List.replicate 33 0 ++ [255, 255, 255]

/-! ### TIME_READ -/

/-- The TIME_READ reply body (R176, R208). -/
def timeReadBody (s : State) : List Byte :=
  let shift := match s.mill with
    | some c => be 2 (currentShift s.schedule c.now).1 ++ [byte (currentShift s.schedule c.now).2]
    | none => be 2 65535 ++ [255]
  let next := match s.mill with
    | some c => be 3 (startTime s.schedule (nextStart s.schedule c)).second ++
        [byte (startIndex s.schedule (nextStart s.schedule c))]
    | none => be 3 16777215 ++ [255]
  seconds s.runSeconds ++ optMill s.millNow ++ shift ++ optMill (s.mill.map (·.lastFired)) ++
    [byte s.schedule.length] ++ ((s.schedule ++ [0, 0, 0, 0]).take 4).flatMap (be 3) ++
    [byte s.markMode.code, yesNo s.timeHold] ++ next

/-! ### DESK_READ -/

def DeskState.code : DeskState → Nat
  | .outOfService => 0 | .vacant => 1 | .attended _ => 2 | .handoverOpen _ _ => 3 | .handoverReview _ _ _ => 4

def Pattern.code : Pattern → Nat
  | .off => 0 | .steady => 1 | .flash => 2 | .altFirst => 3 | .altSecond => 4

/-- Failure codes (R77). -/
def ReadFailure.code : ReadFailure → Nat
  | .check => 1 | .zeroKey => 2 | .kind => 3 | .noAnswer => 4

def SlotState.code : SlotState → Nat
  | .empty => 0 | .oneContact => 1 | .unpowered => 2 | .settling => 3 | .reading _ _ _ => 4 | .present _ _ _ _ => 5
  | .faultBattery | .faultRead _ => 6

def Contacts.code (c : Contacts) : Nat :=
  (if c.c1 then 1 else 0) + (if c.c2 then 2 else 0)

def Battery.code : Battery → Nat
  | .low => 1 | .good => 2

/-- The battery reading, present in READING, PRESENT and FAULT(BATTERY) (R64, R206). -/
def SlotState.battery? : SlotState → Option Nat
  | .reading b _ _ | .present b _ _ _ => some b.code
  | .faultBattery => some 0
  | .empty | .oneContact | .unpowered | .settling | .faultRead _ => none

/-- The fault reason: 1 BATTERY, 2 READ (R77). -/
def SlotState.faultReason? : SlotState → Option Nat
  | .faultBattery => some 1
  | .faultRead _ => some 2
  | _ => none

def SlotState.attempt? : SlotState → Option Nat
  | .reading _ n _ => some n
  | _ => none

def SlotState.lastFailure? : SlotState → Option Nat
  | .reading _ _ f => f.map ReadFailure.code
  | .faultRead f => some f.code
  | _ => none

/-- Key number, 0 when absent, and issue count, 255 when absent (R206). -/
def SlotState.identityBytes : SlotState → List Byte
  | .present _ key issue _ => be 3 key.toNat ++ [issue]
  | _ => be 3 0 ++ [255]

/-- The reason of a result: of a refusal, or NOT_QUALIFIED of a companion (R206). -/
def SignOn.reason? : SignOn → Option Nat
  | .refused r => some r.code
  | .companion _ true => some 6
  | .companion _ false | .holder _ | .incoming _ => none

/-- A slot of a DESK_READ reply, 26 bytes (R209). -/
def slotBytes (s : State) (d : Desk) (k : SlotId) : List Byte :=
  let sl := s.slot d k
  let st := sl.state
  let op := s.signedOn d k
  [byte st.code, byte sl.contacts.code, optByte st.battery?, optByte st.faultReason?, optByte st.attempt?,
    optByte st.lastFailure?] ++ st.identityBytes ++
    [optByte (st.result?.map SignOn.code), optByte (st.result?.bind SignOn.reason?), optIndex op] ++
    displayTagBytes ((op.bind s.operator).bind (·.displayTag))

/-- The incoming operator, present in HANDOVER_REVIEW (R118). -/
def DeskState.incoming? : DeskState → Option OpIndex
  | .handoverReview _ _ op => some op
  | _ => none

/-- The handover record of a DESK_READ reply, twelve bytes (R209). -/
def handoverBytes (u : DeskUnit) : List Byte :=
  match u.state.handover? with
  | some h => [byte h.outgoing.val, optIndex u.state.incoming?] ++ seconds h.openedAt ++ seconds h.limitExpiry ++
      [byte h.carried.length, byte (unbriefed h.carried).length]
  | none => [255, 255] ++ be 4 0 ++ be 4 0 ++ [0, 0]

/-- The set of areas a desk owns (R35). -/
def State.ownedSet (s : State) (d : Desk) : AreaSet :=
  (s.ownedAreas d).foldl (fun acc a => acc ||| BitVec.twoPow 64 a.val) 0

/-- Part 0 of a DESK_READ reply (R209). -/
def deskPart0 (s : State) (d : Desk) : List Byte :=
  let u := s.unit d
  let ld := s.loadOf (.desk d)
  [byte d.code, 0, byte u.state.code, optByte (u.state.holderSlot?.map SlotId.code), yesNo u.due.isSome,
    yesNo ((u.due.map (·.late)).getD false)] ++ optSeconds (u.due.map (·.time)) ++
    areaSetBytes (s.ownedSet d) ++ [byte ld.w] ++ be 2 ld.l ++ [yesNo ld.flood,
    byte u.lamps.alarm.code, byte u.lamps.ret.code, byte u.lamps.hand.code, byte u.lamps.key.code,
    byte u.lamps.link.code] ++ slotBytes s d .a ++ slotBytes s d .b ++ handoverBytes u

/-- Part 1 of a DESK_READ reply: the carried list (R209). -/
def deskPart1 (s : State) (d : Desk) : List Byte :=
  let l := s.carried d
  [byte d.code, 1, byte l.length, byte (unbriefed l).length] ++
    l.flatMap (fun e => be 2 (e.tag.val + 1024 * (e.standing.code + 3 * (if e.briefed then 1 else 0))))

/-! ### STATUS -/

def StoreState.code : StoreState → Nat
  | .valid => 0 | .invalid => 1 | .writing _ => 2

/-- The command link (R195). -/
def State.commandLink (s : State) : Option Link :=
  match s.command with
  | .unlatched => none
  | .latched l _ | .lost l _ => some l

/-- The shelf list's count and earliest expiry (R108, R208). -/
def shelfBytes (s : State) : List Byte :=
  byte s.shelfList.length ::
    (match s.shelfList with
    | e :: _ => seconds e.2.1
    | [] => be 4 0)

/-- The STATUS reply body, 106 bytes (R208). -/
def statusBody (s : State) : List Byte :=
  seconds s.runSeconds ++ [optByte (s.commandLink.map Link.code), yesNo s.isLocal, byte s.store.code] ++
    [s.attention.pending, s.attention.enables, yesNo s.attention.globalEnable, byte s.attention.clearMode.code] ++
    allAreas.map (fun a => optDesk (s.owner a)) ++
    [targetSet (PerTarget.of (fun t => (s.loadOf t).flood)), byte (s.loadOf .room).w] ++ be 2 (s.loadOf .room).l ++
    be 2 s.limits.flood.onAt ++ be 2 s.limits.flood.offAt ++
    (match s.heldFlood with
    | some p => 1 :: (be 2 p.onAt ++ be 2 p.offAt)
    | none => 0 :: be 4 0) ++
    shelfBytes s ++ s.flash.bytes ++
    (match s.staged with
    | some f => 1 :: f.bytes
    | none => 0 :: be 4 0) ++
    [optByte (s.horn.owner.map Target.code), byte s.horn.count, yesNo s.horn.output.isSome,
      targetSet s.horn.requests]

end Sys2Proof.Machine
end

