-- ==== Sys2Proof/Machine/Links.lean ====
section
/-! DEFINITION. The supervisory link unit (chapter 11): what a link sends and when, the taking of a well-formed frame,
the command link and LOCAL, and the resets. -/

namespace Sys2Proof.Machine

/-- The part's blocks work: it is neither in reset nor in the start-up hold (R198, R199). -/
def State.works (s : State) : Bool :=
  match s.phase with
  | .running | .closing => true
  | .hold _ | .inReset _ => false

/-- An event of a block happens only while the blocks work (R199). -/
def whileWorking (event : State → State) (s : State) : State :=
  if s.works then event s else s

/-! ### Sending -/

/-- Whether a frame holds one of the link's four waiting places until it has gone (R193). -/
def FrameRole.holdsPlace : FrameRole → Bool
  | .reply | .resetReply => true
  | .busyReply | .hello | .attention => false

/-- The frames of a link not yet fully sent, in sending order. -/
def SupLink.unsent (l : SupLink) : List OutFrame :=
  l.sending.toList ++ l.waiting

/-- The bytes of a frame the part sends, with the check bytes it computes for it (R192, R205). -/
def OutFrame.bytes (f : OutFrame) : List Byte :=
  frameBytes f.type f.tag f.body

/-- The bytes a link is sending: those of its frame, none while it sends nothing (R192, R193). -/
def State.onWire (s : State) (l : Link) : List Byte :=
  match (s.link l).sending with
  | some f => f.bytes
  | none => []

/-- How many taken frames wait on a link (R193). -/
def SupLink.taken (l : SupLink) : Nat :=
  (l.unsent.filter (fun f => f.role.holdsPlace)).length

/-- Whether a BUSY reply of a fifth frame is unsent (R193). -/
def SupLink.busyUnsent (l : SupLink) : Bool :=
  l.unsent.any (fun f => decide (f.role = .busyReply))

/-- The ATTENTION frame for a class set (R207). -/
def attentionFrame (classes : ClassSet) : OutFrame :=
  { role := .attention, type := 241, tag := 0, body := [classes] }

/-- A link that sends nothing starts on the frame that has waited longest, if any (R193). -/
def SupLink.startWaiting (l : SupLink) : SupLink :=
  match l.waiting with
  | f :: rest => { l with sending := some f, waiting := rest }
  | [] => l

/-- A link that sends nothing takes its opportunity to send (R187): a waiting notice first, dropped if no class is
pending and enabled, then a waiting frame (log 11). -/
def SupLink.opportunity (classes : ClassSet) (l : SupLink) : SupLink :=
  if l.sending.isSome then l
  else if l.notice then
    if classes ≠ 0 then { l with sending := some (attentionFrame classes), notice := false }
    else { l with notice := false }.startWaiting
  else l.startWaiting

/-- The classes an ATTENTION frame names: pending and enabled (R187). -/
def State.noticeClasses (s : State) : ClassSet :=
  s.attention.pending &&& s.attention.enabled

/-- A link takes its opportunity to send. -/
def takeOpportunity (l : Link) (s : State) : State :=
  s.putLink l ((s.link l).opportunity s.noticeClasses)

/-- A frame goes to a link: sent at once if the link sends nothing, else waiting at the end (R193). -/
def SupLink.offer (f : OutFrame) (l : SupLink) : SupLink :=
  if l.sending.isSome then { l with waiting := l.waiting ++ [f] } else { l with sending := some f }

/-- The reply frame of a request (R207): type 128 plus the request's type modulo 128, the request's tag. -/
def replyFrame (role : FrameRole) (type tag : Byte) (a : Answer) : OutFrame :=
  { role := role, type := type ||| 128, tag := tag, body := a.body }

/-- A request is answered on its link. -/
def answer (l : Link) (role : FrameRole) (type tag : Byte) (a : Answer) (s : State) : State :=
  s.putLink l ((s.link l).offer (replyFrame role type tag a))

/-- A link's receiver, set. -/
def setReceiver (l : Link) (r : Receiver) (s : State) : State :=
  s.putLink l { s.link l with receiver := r }

/-! ### The command link and LOCAL -/

/-- The silence timer's expiry when it is restarted now (R197). -/
def State.silenceExpiry (s : State) : Word32 :=
  later s.runSeconds s.limits.silenceTime

/-- A well-formed frame has come on a link (R197): on the command link it restarts the silence timer, and in LOCAL it
leaves LOCAL with LINK_BACK. Routing is worked out by the caller. -/
def heard (l : Link) (s : State) : State :=
  match s.command with
  | .latched c _ => if c = l then { s with command := .latched c s.silenceExpiry } else s
  | .lost c lostAt =>
    if c = l then
      enter { kind := .linkBack, d1 := some c.code, d2 := some (min 65535 (since lostAt s.runSeconds)) }
        { s with command := .latched c s.silenceExpiry }
    else s
  | .unlatched => s

/-- The latch moves to a link, or is made (R195, R196): TAKE_COMMAND with second detail `how`, the silence timer
started, LOCAL left. -/
def latchOn (l : Link) (how : Nat) (s : State) : State :=
  enter { kind := .takeCommand, d1 := some l.code, d2 := some how }
    { s with command := .latched l s.silenceExpiry }

/-- The command-link latch (R195): the state in which a command is carried out, `none` on the link that is not the
command link. -/
def latch (l : Link) (s : State) : Option State :=
  match s.commandLink with
  | none => some (latchOn l 1 s)
  | some c => if c = l then some (heard l s) else none

/-! ### Taking a frame -/

/-- What a request's rule does: its effect on the state and its answer. -/
abbrev Serve := State → State × Answer

/-- A request whose body its layout refuses is answered BAD_FIELD; any other is served (R193, R206). -/
def served {α : Type} (read : Option α) (serve : α → Serve) : Serve :=
  fun s =>
    match read with
    | some x => serve x s
    | none => (s, .badField)

/-- A request answered from the state, changing nothing. -/
def readOut (body : State → List Byte) : Serve :=
  fun s => (s, .ok (body s))

/-- An accepted change answered OK with an empty body. -/
def accepted (s : State) : State × Answer :=
  (s, .ok [])

/-- The effect of a query or of a frame answered BAD_TYPE (R193): the link is heard, routing worked out, then the
request served (R197). -/
def asQuery (l : Link) (serve : Serve) : Serve :=
  fun s => serve (reroute s (heard l s))

/-- The effect of a command that changes no input of routing (R195): the latch, routing if LOCAL was left, then the
command. -/
def asCommand (l : Link) (serve : Serve) : Serve :=
  fun s =>
    match latch l s with
    | some s' => serve (reroute s s')
    | none => (s, .notCommandLink)

/-- The effect of a command that may change inputs of routing: routing is worked out once, at the end of the event
(R37; log 13). -/
def asRoutingCommand (l : Link) (serve : Serve) : Serve :=
  fun s =>
    match latch l s with
    | some s' => (reroute s (serve s').1, (serve s').2)
    | none => (s, .notCommandLink)

/-- A frame is taken and answered (R193); the reply to an accepted RESET is marked as such (R198). The frame is
carried out and its reply made as it is taken, so a later move of the command link leaves both alone (R196; DESIGN
CHOICE, log 34). -/
def handle (l : Link) (type tag : Byte) (serve : Serve) (s : State) : State :=
  let r := serve (takeOpportunity l s)
  answer l (if r.1.phase = .closing then .resetReply else .reply) type tag r.2 r.1

/-- A fifth frame is answered BUSY and not taken (R193); the frame is heard all the same (R197; log 12). -/
def turnAway (l : Link) (type tag : Byte) (s : State) : State :=
  let s1 := takeOpportunity l s
  answer l .busyReply type tag .busy (reroute s1 (heard l s1))

/-- A well-formed frame's last byte has arrived on a link (R193). The receiver hunts again. No frame is taken in
reset, in the start-up hold or after a RESET was accepted (R198, R199). -/
def takeFrame (l : Link) (type tag : Byte) (serve : Serve) (s : State) : State :=
  if s.phase = .running then
    let s1 := setReceiver l .hunting s
    if (s1.link l).taken < Config.linkDepth then handle l type tag serve s1
    else if (s1.link l).busyUnsent then s1
    else turnAway l type tag s1
  else s

/-! ### Resets (R198) -/

/-- A desk unit in reset: everything at its value after reset but the levels at its contact pins. -/
def keepPins (fresh old : DeskUnit) : DeskUnit :=
  { fresh with slotA := { fresh.slotA with pins := old.slotA.pins }
               slotB := { fresh.slotB with pins := old.slotB.pins } }

/-- The part is reset: working state goes to its value after reset, a write in flight leaves an image that fails its
check (R201), and the image, the pins, the level of the reset input and the queue of commands are kept. -/
def resetTo (phase : Phase) (s : State) : State :=
  { State.reset with
    phase := phase
    resetInput := s.resetInput
    desks := PerDesk.of (fun d => keepPins (State.reset.unit d) (s.unit d))
    image := match s.store with
      | .writing _ => none
      | .valid | .invalid => s.image
    pending := s.pending }

end Sys2Proof.Machine
end

