-- ==== Sys2Proof/Machine/AlarmFamily.lean ====
section
/-! DEFINITION. Acknowledgement, silencing and shelving (chapter 06), reading a list, escalation and load (chapter 03):
ACK, ACK_PRESS, SILENCE, SILENCE_PRESS, SHELVE, UNSHELVE, SHELF_EXPIRY, LIST_READ, ESCALATION, LOAD_UPDATE. -/

namespace Sys2Proof.Machine

/-! ### ACK -/

/-- An ACK message is refused, with its ACK_REFUSED entry (R98, R104). -/
def ackRefusal (d : Desk) (t : Tag) (reason : Reason) (s : State) : State × Answer :=
  (refuseAck d (some t) reason 2 s, .refused reason)

/-- The reply body of an ACK: tag, state, effective priority (R98). -/
def ackBody (t : Tag) (p : Point) : List Byte :=
  be 2 t.val ++ [byte p.state.code, byte p.effective]

/-- ACK's tests and effect (R98). -/
def serveAck (x : Desk × Tag) : Serve :=
  fun s =>
    match holderWith x.1 .operator s with
    | .error e => ackRefusal x.1 x.2 e s
    | .ok (op, r) =>
      match s.point x.2 with
      | none => ackRefusal x.1 x.2 .wrongState s
      | some p =>
        if !s.mayAcknowledge x.1 r p then ackRefusal x.1 x.2 .notPermitted s
        else if p.base ≤ 3 ∧ p.unacknowledged then
          (acknowledge x.1 op x.2 p s, .ok (ackBody x.2 (p.acknowledged op)))
        else ackRefusal x.1 x.2 .wrongState s

def takeAck (l : Link) (tag : Byte) (body : List Byte) (s : State) : State :=
  takeFrame l 6 tag (asCommand l (served (readDeskTag body) serveAck)) s

/-- ACK (R98, R102, R104). -/
def execAck (l : Link) (tag : Byte) (body : List Byte) (s : State) : Host.Outcome State Fault Refusal :=
  .next (takeAck l tag body s)

/-- A press of the ACK button (R100). -/
def ackPress (d : Desk) (s : State) : State :=
  match s.holderRecord d with
  | none => refuseAck d none .notSignedOn 1 s
  | some (op, r) =>
    match ackHead (s.attentionList (.desk d)) with
    | none => s
    | some (t, p) =>
      if r.role.atLeast .operator && inSet r.areas p.area then acknowledge d op t p s
      else refuseAck d (some t) .notPermitted 1 s

/-- ACK_PRESS (R100). -/
def execAckPress (d : Desk) (s : State) : Host.Outcome State Fault Refusal :=
  .next (whileWorking (ackPress d) s)

/-! ### SILENCE -/

/-- The reply body of a SILENCE: the two counts, 65535 for an absent room count (R107, R208). -/
def silenceBody (s : State) (d : Desk) : List Byte :=
  be 2 (s.silenceCount (.desk d)) ++ be 2 ((s.roomSilenceCount d).getD 65535)

/-- SILENCE's test and effect (R107). -/
def serveSilence (d : Desk) : Serve :=
  fun s =>
    match s.silencer d with
    | none => (s, .refused .notSignedOn)
    | some op => (silenceDesk d op s, .ok (silenceBody s d))

def takeSilence (l : Link) (tag : Byte) (body : List Byte) (s : State) : State :=
  takeFrame l 7 tag (asCommand l (served (readDesk body) serveSilence)) s

/-- SILENCE (R105 to R107). -/
def execSilence (l : Link) (tag : Byte) (body : List Byte) (s : State) : Host.Outcome State Fault Refusal :=
  .next (takeSilence l tag body s)

/-- A press of the SILENCE button (R107): refused, it has no effect. -/
def silencePress (d : Desk) (s : State) : State :=
  match s.silencer d with
  | none => s
  | some op => silenceDesk d op s

/-- SILENCE_PRESS (R105 to R107). -/
def execSilencePress (d : Desk) (s : State) : Host.Outcome State Fault Refusal :=
  .next (whileWorking (silencePress d) s)

/-! ### SHELVE, UNSHELVE, SHELF_EXPIRY -/

/-- The tests SHELVE and UNSHELVE share, up to the permitted set (R109, R111): the holder, the role SENIOR, a record at
the slot, its area in the permitted set. -/
def shelfTests (d : Desk) (t : Tag) (s : State) : Except Reason (OpIndex × Point) :=
  match holderWith d .senior s with
  | .error e => .error e
  | .ok (op, r) =>
    match s.point t with
    | none => .error .wrongState
    | some p => if inSet r.areas p.area then .ok (op, p) else .error .notPermitted

/-- Whether a point is in SHELVED. -/
def Point.isShelved (p : Point) : Bool :=
  match p.state with
  | .shelved _ _ => true
  | _ => false

/-- An accepted SHELVE (R110, R115): the SHELVE entry, then the change of state. -/
def applyShelve (d : Desk) (t : Tag) (minutes : Nat) (op : OpIndex) (p : Point) (s : State) : State × Answer :=
  let expiry := later s.runSeconds (60 * minutes)
  (shelvePoint t p expiry op
    (enter { kind := .shelve, desk := some d, op := some op, tag := some t, d1 := some minutes
             d2 := some p.state.code } s),
   .ok (be 2 minutes ++ seconds expiry))

/-- SHELVE's tests and effect (R109, R110). -/
def serveShelve (x : Desk × Tag × Nat) : Serve :=
  fun s =>
    match shelfTests x.1 x.2.1 s with
    | .error e => (s, .refused e)
    | .ok (op, p) =>
      if !p.shelvable then (s, .refused .notShelvable)
      else if p.isShelved then (s, .refused .wrongState)
      else if Config.shelfDepth ≤ s.shelfEntries.length then (s, .refused .shelfFull)
      else applyShelve x.1 x.2.1 x.2.2 op p s

def takeShelve (l : Link) (tag : Byte) (body : List Byte) (s : State) : State :=
  takeFrame l 8 tag (asCommand l (served (readShelve body) serveShelve)) s

/-- SHELVE (R109, R110). -/
def execShelve (l : Link) (tag : Byte) (body : List Byte) (s : State) : Host.Outcome State Fault Refusal :=
  .next (takeShelve l tag body s)

/-- UNSHELVE's tests and effect (R111, R113, R115). -/
def serveUnshelve (x : Desk × Tag) : Serve :=
  fun s =>
    match shelfTests x.1 x.2 s with
    | .error e => (s, .refused e)
    | .ok (op, p) =>
      match p.state with
      | .shelved expiry _ =>
        (returnFromShelf x.2 p
          (enter { kind := .unshelve, desk := some x.1, op := some op, tag := some x.2, d1 := some p.returnCode
                   d2 := some (min 65535 (secondsLeft expiry s.runSeconds)) } s),
         .ok [byte p.returnCode])
      | .normal | .unack _ | .acked _ | .rtnUnack _ => (s, .refused .wrongState)

def takeUnshelve (l : Link) (tag : Byte) (body : List Byte) (s : State) : State :=
  takeFrame l 9 tag (asCommand l (served (readDeskTag body) serveUnshelve)) s

/-- UNSHELVE (R111, R113). -/
def execUnshelve (l : Link) (tag : Byte) (body : List Byte) (s : State) : Host.Outcome State Fault Refusal :=
  .next (takeUnshelve l tag body s)

/-- The shelving of a point runs out at its expiry (R112, R113, R115); a point not in SHELVED, or whose expiry is not
reached, has none to run out (log 6). -/
def shelfExpiry (t : Tag) (s : State) : State :=
  match s.point t with
  | some p =>
    match p.state with
    | .shelved expiry op =>
      if reached expiry s.runSeconds then
        returnFromShelf t p
          (enter { kind := .shelfExpiry, desk := (s.target p.area).desk?, op := some op, tag := some t
                   d1 := some p.returnCode } s)
      else s
    | .normal | .unack _ | .acked _ | .rtnUnack _ => s
  | none => s

/-- SHELF_EXPIRY (R112, R113). -/
def execShelfExpiry (t : Tag) (s : State) : Host.Outcome State Fault Refusal :=
  .next (whileWorking (shelfExpiry t) s)

/-! ### LIST_READ -/

def takeListRead (l : Link) (tag : Byte) (body : List Byte) (s : State) : State :=
  takeFrame l 34 tag
    (asQuery l (served (readListRead body) (fun x => readOut (fun s => listReadBody s x.1 x.2.1 x.2.2)))) s

/-- LIST_READ (R49). -/
def execListRead (l : Link) (tag : Byte) (body : List Byte) (s : State) : Host.Outcome State Fault Refusal :=
  .next (takeListRead l tag body s)

/-! ### ESCALATION -/

/-- A point at the minute tick (R52). -/
def Point.escalate (now : Word32) (p : Point) : Point :=
  if p.base ≤ 3 ∧ p.unacknowledged then { p with effective := p.escalatedNow now } else p

/-- The alarm engine's work at a minute tick (R50, R52), taken once for each tick (log 6). -/
def escalation (s : State) : State :=
  if s.tick.escalation then
    { s with points := tableMap (fun _ p => p.escalate s.runSeconds) s.points
             tick := { s.tick with escalation := false } }
  else s

/-- ESCALATION (R52). -/
def execEscalation (s : State) : Host.Outcome State Fault Refusal :=
  .next (whileWorking escalation s)

/-! ### LOAD_UPDATE -/

/-- The load figure of the next minute (R56). -/
def nextLoad (w l : Nat) : Nat :=
  min 4095 (l - l / 8 + 2 * w)

/-- A target's load is updated and its flood flag evaluated (R56, R58); a flag set at a desk ends a handover there
(R61, R137). -/
def updateLoad (t : Target) (s : State) : State :=
  let ld := s.loadOf t
  let l' := nextLoad ld.w ld.l
  let pair := s.limits.flood
  if ld.flood then
    if l' ≤ pair.offAt then
      enter { kind := .floodOff, desk := t.desk?, d1 := some l', d2 := some pair.offAt }
        (s.putLoad t { w := 0, l := l', flood := false })
    else s.putLoad t { w := 0, l := l', flood := true }
  else if pair.onAt ≤ l' then
    let s1 := enter { kind := .floodOn, desk := t.desk?, d1 := some l', d2 := some pair.onAt }
      (s.putLoad t { w := 0, l := l', flood := true })
    match t with
    | .desk d => abortHandover d .flood s1
    | .room => s1
  else s.putLoad t { w := 0, l := l', flood := false }

/-- A held flood pair comes into force (R59). -/
def adoptFlood (s : State) : State :=
  match s.heldFlood with
  | some p => { s with limits := { s.limits with flood := p }, heldFlood := none }
  | none => s

/-- The load monitor's work at a minute tick (R50, R56, R58, R59), taken once for each tick (log 6), the targets in
the order D0 to D5, room (log 15). -/
def loadUpdate (s : State) : State :=
  if s.tick.load then
    allTargets.foldl (fun s' t => updateLoad t s') (adoptFlood { s with tick := { s.tick with load := false } })
  else s

/-- LOAD_UPDATE (R56, R58). -/
def execLoadUpdate (s : State) : Host.Outcome State Fault Refusal :=
  .next (whileWorking loadUpdate s)

end Sys2Proof.Machine
end

