-- ==== Sys2Proof/Machine/AttentionFamily.lean ====
section
/-! DEFINITION. Attention control, part-wide queries and notices (chapters 10 and 12): ATTN_CONTROL, ATTN_CLEAR, STATUS,
JOURNAL_READ, DESK_READ, ATTENTION. -/

namespace Sys2Proof.Machine

/-! ### ATTN_CONTROL (R185, R186) -/

/-- The attention state after an accepted ATTN_CONTROL (R185). -/
def Attention.controlled (a : Attention) (enables : ClassSet) (globalEnable : Bool) (mode : ClearMode) : Attention :=
  { pending := a.pending, enables := enables, globalEnable := globalEnable, clearMode := mode }

/-- Whether an ATTN_CONTROL turns on the notices of a pending class (R186): a class pending and enabled after it that
was not enabled before it. -/
def turnsOnPending (old new : Attention) : Bool :=
  decide (new.pending &&& new.enabled &&& ~~~old.enabled ≠ 0)

/-- ATTN_CONTROL's effect (R185, R186); the reply gives the pending flags and what is now in force. -/
def serveAttnControl (x : ClassSet × Bool × ClearMode) : Serve :=
  fun s =>
    let a := s.attention.controlled x.1 x.2.1 x.2.2
    let s1 := { s with attention := a }
    (if turnsOnPending s.attention a then raiseNotice s1 else s1,
     .ok [a.pending, a.enables, yesNo a.globalEnable, byte a.clearMode.code])

def takeAttnControl (l : Link) (tag : Byte) (body : List Byte) (s : State) : State :=
  takeFrame l 19 tag (asCommand l (served (readAttnControl body) serveAttnControl)) s

/-- ATTN_CONTROL (R185, R186). -/
def execAttnControl (l : Link) (tag : Byte) (body : List Byte) (s : State) : Host.Outcome State Fault Refusal :=
  .next (takeAttnControl l tag body s)

/-! ### ATTN_CLEAR (R188) -/

/-- The pending flags of a set of classes are cleared. -/
def clearPending (classes : ClassSet) (s : State) : State :=
  { s with attention := { s.attention with pending := s.attention.pending &&& ~~~classes } }

/-- ATTN_CLEAR's effect (R188); the reply gives the flags that remain. -/
def serveAttnClear (classes : ClassSet) : Serve :=
  fun s => (clearPending classes s, .ok [(clearPending classes s).attention.pending])

def takeAttnClear (l : Link) (tag : Byte) (body : List Byte) (s : State) : State :=
  takeFrame l 20 tag (asCommand l (served (readAttnClear body) serveAttnClear)) s

/-- ATTN_CLEAR (R188). -/
def execAttnClear (l : Link) (tag : Byte) (body : List Byte) (s : State) : Host.Outcome State Fault Refusal :=
  .next (takeAttnClear l tag body s)

/-! ### STATUS, JOURNAL_READ, DESK_READ -/

/-- STATUS's answer, and the clearing it makes in BY_STATUS mode on the command link (R189, R208). -/
def serveStatus (l : Link) (_ : Unit) : Serve :=
  fun s =>
    (if s.attention.clearMode = .byStatus ∧ s.commandLink = some l then clearPending s.attention.pending s else s,
     .ok (statusBody s))

def takeStatus (l : Link) (tag : Byte) (body : List Byte) (s : State) : State :=
  takeFrame l 32 tag (asQuery l (served (readNothing body) (serveStatus l))) s

/-- STATUS (R189, R208). -/
def execStatus (l : Link) (tag : Byte) (body : List Byte) (s : State) : Host.Outcome State Fault Refusal :=
  .next (takeStatus l tag body s)

def takeJournalRead (l : Link) (tag : Byte) (body : List Byte) (s : State) : State :=
  takeFrame l 35 tag
    (asQuery l (served (readJournalRead body) (fun x => readOut (fun s => journalReadBody s x.1 x.2)))) s

/-- JOURNAL_READ (R182). -/
def execJournalRead (l : Link) (tag : Byte) (body : List Byte) (s : State) : Host.Outcome State Fault Refusal :=
  .next (takeJournalRead l tag body s)

/-- The DESK_READ reply body, by the part asked for (R209). -/
def deskReadBody (s : State) (x : Desk × Bool) : List Byte :=
  if x.2 then deskPart1 s x.1 else deskPart0 s x.1

def takeDeskRead (l : Link) (tag : Byte) (body : List Byte) (s : State) : State :=
  takeFrame l 36 tag (asQuery l (served (readDeskRead body) (fun x => readOut (fun s => deskReadBody s x)))) s

/-- DESK_READ (R209). -/
def execDeskRead (l : Link) (tag : Byte) (body : List Byte) (s : State) : Host.Outcome State Fault Refusal :=
  .next (takeDeskRead l tag body s)

/-! ### ATTENTION (R187) -/

/-- A link with a notice waiting takes its opportunity to send when it sends nothing (R187). -/
def attention (l : Link) (s : State) : State :=
  if (s.link l).notice && (s.link l).sending.isNone then takeOpportunity l s else s

/-- ATTENTION (R187). -/
def execAttention (l : Link) (s : State) : Host.Outcome State Fault Refusal :=
  .next (whileWorking (attention l) s)

end Sys2Proof.Machine
end

