-- ==== Sys2Proof/Machine/HandoverFamily.lean ====
section
/-! DEFINITION. The handover commands and events (chapter 07): HANDOVER_OPEN, HANDOVER_CANCEL, HANDOVER_COMMIT, BRIEF,
HAND_PRESS, HANDOVER_TIMEOUT. -/

namespace Sys2Proof.Machine

/-! ### HANDOVER_OPEN -/

/-- HANDOVER_OPEN's tests and effect (R120, R121); the reply gives the entries carried and the limit expiry. -/
def serveHandoverOpen (d : Desk) : Serve :=
  fun s =>
    match mayOpen d s with
    | .error e => (s, .refused e)
    | .ok (k, op) =>
      (openHandover d k op s,
       .ok (byte (s.toCarry d).length :: seconds (later s.runSeconds (60 * s.limits.handoverLimit))))

def takeHandoverOpen (l : Link) (tag : Byte) (body : List Byte) (s : State) : State :=
  takeFrame l 10 tag (asCommand l (served (readDesk body) serveHandoverOpen)) s

/-- HANDOVER_OPEN (R120 to R122). -/
def execHandoverOpen (l : Link) (tag : Byte) (body : List Byte) (s : State) : Host.Outcome State Fault Refusal :=
  .next (takeHandoverOpen l tag body s)

/-! ### HANDOVER_CANCEL -/

/-- HANDOVER_CANCEL's tests and effect (R135). -/
def serveHandoverCancel (d : Desk) : Serve :=
  fun s =>
    match mayCancel d s with
    | .error e => (s, .refused e)
    | .ok _ => accepted (abortHandover d .cancelled s)

def takeHandoverCancel (l : Link) (tag : Byte) (body : List Byte) (s : State) : State :=
  takeFrame l 11 tag (asCommand l (served (readDesk body) serveHandoverCancel)) s

/-- HANDOVER_CANCEL (R135). -/
def execHandoverCancel (l : Link) (tag : Byte) (body : List Byte) (s : State) : Host.Outcome State Fault Refusal :=
  .next (takeHandoverCancel l tag body s)

/-! ### HANDOVER_COMMIT -/

/-- HANDOVER_COMMIT's tests and effect (R132); the reply gives the entries carried. -/
def serveHandoverCommit (d : Desk) : Serve :=
  fun s =>
    match mayCommit d s with
    | .error e => (s, .refused e)
    | .ok (k, h, inc) => (commitHandover d k h inc s, .ok [byte h.carried.length])

def takeHandoverCommit (l : Link) (tag : Byte) (body : List Byte) (s : State) : State :=
  takeFrame l 12 tag (asCommand l (served (readDesk body) serveHandoverCommit)) s

/-- HANDOVER_COMMIT (R132). -/
def execHandoverCommit (l : Link) (tag : Byte) (body : List Byte) (s : State) : Host.Outcome State Fault Refusal :=
  .next (takeHandoverCommit l tag body s)

/-! ### BRIEF -/

/-- The reply body of a BRIEF: the tag and the unbriefed entries left (R130). -/
def briefBody (d : Desk) (t : Tag) (s : State) : List Byte :=
  be 2 t.val ++ [byte (unbriefed (s.carried d)).length]

/-- BRIEF's tests and effect (R130). An entry already briefed is left as it is, without a journal entry. -/
def serveBrief (x : Desk × Tag) : Serve :=
  fun s =>
    match (s.unit x.1).state with
    | .handoverReview _ h inc =>
      match h.carried.find? (fun e => decide (e.tag = x.2)) with
      | some e =>
        let s1 := if e.briefed then s else briefEntry x.1 inc x.2 2 s
        (s1, .ok (briefBody x.1 x.2 s1))
      | none => (s, .refused .wrongState)
    | .outOfService | .vacant | .attended _ | .handoverOpen _ _ => (s, .refused .wrongState)

def takeBrief (l : Link) (tag : Byte) (body : List Byte) (s : State) : State :=
  takeFrame l 13 tag (asCommand l (served (readDeskTag body) serveBrief)) s

/-- BRIEF (R130). -/
def execBrief (l : Link) (tag : Byte) (body : List Byte) (s : State) : Host.Outcome State Fault Refusal :=
  .next (takeBrief l tag body s)

/-! ### HAND_PRESS -/

/-- A press in ATTENDED asks for an opening (R120); refused, it has no effect. -/
def pressToOpen (d : Desk) (s : State) : State :=
  match mayOpen d s with
  | .ok (k, op) => openHandover d k op s
  | .error _ => s

/-- A press in HANDOVER_OPEN asks for a cancellation (R135). -/
def pressToCancel (d : Desk) (s : State) : State :=
  match mayCancel d s with
  | .ok _ => abortHandover d .cancelled s
  | .error _ => s

/-- A press in a fully briefed HANDOVER_REVIEW asks for a commit (R131, R132). -/
def pressToCommit (d : Desk) (s : State) : State :=
  match mayCommit d s with
  | .ok (k, h, inc) => commitHandover d k h inc s
  | .error _ => s

/-- A press of the HAND button, by the desk's state (R96, R120, R131, R135). -/
def handPress (d : Desk) (s : State) : State :=
  match (s.unit d).state with
  | .attended _ => pressToOpen d s
  | .handoverOpen _ _ => pressToCancel d s
  | .handoverReview _ h inc =>
    match unbriefed h.carried with
    | e :: _ => briefEntry d inc e.tag 1 s
    | [] => pressToCommit d s
  | .vacant | .outOfService => s

/-- HAND_PRESS (R131). -/
def execHandPress (d : Desk) (s : State) : Host.Outcome State Fault Refusal :=
  .next (whileWorking (handPress d) s)

/-! ### HANDOVER_TIMEOUT -/

/-- A handover's limit expiry (R136); a desk in no handover, or whose expiry is not reached, has none to fall
(log 6). -/
def handoverTimeout (d : Desk) (s : State) : State :=
  match (s.unit d).state.handover? with
  | some h => if reached h.limitExpiry s.runSeconds then abortHandover d .timeout s else s
  | none => s

/-- HANDOVER_TIMEOUT (R136). -/
def execHandoverTimeout (d : Desk) (s : State) : Host.Outcome State Fault Refusal :=
  .next (whileWorking (handoverTimeout d) s)

end Sys2Proof.Machine
end

