-- ==== Sys2Proof/Machine/OperatorFamily.lean ====
section
/-! DEFINITION. The operator table's commands (chapter 05): SET_OPERATOR, CLEAR_OPERATOR, OPERATOR_READ. -/

namespace Sys2Proof.Machine

/-- Whether a new record ends the sign-on of an old one, and with what reason (R85). -/
def withdrawal (old new : OperatorRecord) : Option KeyRefusal :=
  if old.key ≠ new.key ∨ old.issue ≠ new.issue then some .revoked
  else if new.locked ∧ ¬ old.locked then some .locked
  else none

/-- Whether a change of record puts an INCOMING operator to the qualification again (R86, R87). -/
def requalifies (old new : OperatorRecord) : Bool :=
  decide (old.role ≠ new.role) || decide (old.areas ≠ new.areas) || decide (old.validFrom ≠ new.validFrom) ||
    decide (old.validUntil ≠ new.validUntil)

/-- What a SET_OPERATOR means for the desk where its record is signed on (R83): nothing, the end of the sign-on, a
release of areas, or the disqualification of an incoming operator. -/
inductive Consequence where
  | nothing
  | ends (reason : KeyRefusal)
  | releases
  | disqualifies
  deriving DecidableEq, Repr

/-- The second detail of OPERATOR_CHANGED (R83). -/
def Consequence.code : Consequence → Nat
  | .nothing => 0 | .ends _ => 1 | .releases => 2 | .disqualifies => 3

/-- Whether a change narrows the permitted set (R86). -/
def narrows (old new : OperatorRecord) : Bool :=
  decide (old.areas &&& ~~~new.areas ≠ 0)

/-- The consequence of replacing a record that is signed on at a slot of a desk (R85 to R87), in the state that holds
the new record. -/
def consequence (d : Desk) (k : SlotId) (old new : OperatorRecord) (s : State) : Consequence :=
  match withdrawal old new with
  | some reason => .ends reason
  | none =>
    match (s.slot d k).state.result? with
    | some (.holder _) =>
      if narrows old new && (s.ownedAreas d).any (fun a => !inSet new.areas a) then .releases else .nothing
    | some (.incoming _) => if requalifies old new && !s.qualifies d new then .disqualifies else .nothing
    | _ => .nothing

/-- The consequence is applied at the desk (R85 to R87). -/
def applyConsequence (d : Desk) (k : SlotId) (i : OpIndex) (new : OperatorRecord) (c : Consequence)
    (s : State) : State :=
  match c with
  | .nothing => s
  | .ends reason => revoke d k reason s
  | .releases => releaseOutside d new.areas s
  | .disqualifies => incomingLeaves d k 5 (s.setResult d k (.companion i true))

/-- The OPERATOR_CHANGED entry (R83): the record in its operator field, the desk where it is signed on, if any, in its
desk field. R84 gives the details of CLEAR_OPERATOR's entry and not its fields: that they are R83's is DEDUCED
(log 35). -/
def operatorChanged (i : OpIndex) (place : Option (Desk × SlotId)) (d1 d2 : Nat) (s : State) : State :=
  enter { kind := .operatorChanged, desk := place.map (·.1), op := some i, d1 := some d1, d2 := some d2 } s

/-- An accepted SET_OPERATOR (R83). -/
def applySetOperator (i : OpIndex) (new : OperatorRecord) (s : State) : State :=
  let s1 := { s with operators := tablePut s.operators i new }
  match s.operator i with
  | none => operatorChanged i none 1 0 s1
  | some old =>
    match s.whereSignedOn i with
    | none => operatorChanged i none 2 0 s1
    | some (d, k) =>
      let c := consequence d k old new s1
      applyConsequence d k i new c (operatorChanged i (some (d, k)) 2 c.code s1)

/-- Whether another record holds a key number (R82). -/
def keyTaken (i : OpIndex) (key : KeyNumber) (s : State) : Bool :=
  s.operators.any (fun e => decide (e.1 ≠ i) && decide (e.2.key = key))

def serveSetOperator (x : OpIndex × OperatorRecord) : Serve :=
  fun s => if keyTaken x.1 x.2.key s then (s, .refused .duplicateKey) else accepted (applySetOperator x.1 x.2 s)

def takeSetOperator (l : Link) (tag : Byte) (body : List Byte) (s : State) : State :=
  takeFrame l 4 tag (asRoutingCommand l (served (readSetOperator body) serveSetOperator)) s

/-- SET_OPERATOR (R82, R83, R85 to R87). -/
def execSetOperator (l : Link) (tag : Byte) (body : List Byte) (s : State) : Host.Outcome State Fault Refusal :=
  .next (takeSetOperator l tag body s)

/-- CLEAR_OPERATOR's effect (R84). That its OPERATOR_CHANGED entry names the record and the desk where it was signed on,
and is made before the entries of the revocation, as R83 says of SET_OPERATOR's, is DEDUCED (log 35). -/
def serveClearOperator (i : OpIndex) : Serve :=
  fun s =>
    match s.operator i with
    | none => accepted s
    | some _ =>
      let s1 := { s with operators := tableErase s.operators i }
      match s.whereSignedOn i with
      | none => accepted (operatorChanged i none 3 0 s1)
      | some (d, k) => accepted (revoke d k .revoked (operatorChanged i (some (d, k)) 3 1 s1))

def takeClearOperator (l : Link) (tag : Byte) (body : List Byte) (s : State) : State :=
  takeFrame l 5 tag (asRoutingCommand l (served (readIndex body) serveClearOperator)) s

/-- CLEAR_OPERATOR (R84). -/
def execClearOperator (l : Link) (tag : Byte) (body : List Byte) (s : State) : Host.Outcome State Fault Refusal :=
  .next (takeClearOperator l tag body s)

def takeOperatorRead (l : Link) (tag : Byte) (body : List Byte) (s : State) : State :=
  takeFrame l 37 tag (asQuery l (served (readIndex body) (fun i => readOut (fun s => operatorReadBody s i)))) s

/-- OPERATOR_READ (R97). -/
def execOperatorRead (l : Link) (tag : Byte) (body : List Byte) (s : State) : Host.Outcome State Fault Refusal :=
  .next (takeOperatorRead l tag body s)

end Sys2Proof.Machine
end

