-- ==== Sys2Proof/Machine/PointFamily.lean ====
section
/-! DEFINITION. Commands and events of the point table and the event links (chapters 01 and 02): SET_POINT,
CLEAR_POINT, POINT_READ, INTAKE_FRAME, INTAKE_TAKE, ASSIGN_AREA. -/

namespace Sys2Proof.Machine

/-! ### SET_POINT (R17 to R23) -/

/-- The record SET_POINT creates at an absent slot (R18); STORE_LOAD makes the same (R5). -/
def newPoint (c : StoredPoint) : Point :=
  { origin := .configured, area := c.area, base := c.base, step := c.step, shelvable := c.shelvable, state := .normal
    active := false, effective := c.base, silenced := false, repeats := 0, lastAck := none }

/-- The effective priority a change between base priorities of 1 to 3, or of the step, leaves (R20). -/
def Point.reprioritised (now : Word32) (old : Point) (base step : Nat) : Nat :=
  match old.state with
  | .unack _ | .rtnUnack _ => escalated base step (old.age now)
  | .acked _ => max 1 (base - (old.base - old.effective))
  | .normal | .shelved _ _ => base

/-- The record with a new base priority and step, and what they mean for the alarm that stands (R20, R21). -/
def Point.withBase (now : Word32) (base step : Nat) (p : Point) : Point :=
  let q := { p with base := base, step := step }
  if p.base ≤ 3 ∧ base ≤ 3 then
    if base = p.base ∧ step = p.step then q else { q with effective := p.reprioritised now base step }
  else if p.base ≤ 3 then
    match p.state with
    | .unack t => { q with state := .acked t, effective := base }
    | .rtnUnack _ => { q with state := .normal, effective := base }
    | .normal | .acked _ | .shelved _ _ => { q with effective := base }
  else { q with effective := base }

/-- A point's area changes (R23): a standing point whose target changes with it moves between the lists. -/
def moveArea (tag : Tag) (a : Area) (s : State) : State :=
  match s.point tag with
  | some p =>
    if p.standing.isSome ∧ s.target p.area ≠ s.target a then
      let q := { p with area := a, silenced := false }
      let s1 := tellTarget (s.target p.area) tag none (s.putPoint tag q)
      match s.target a with
      | .desk d => takeIn d (tag, q) s1
      | .room => s1
    else s.putPoint tag { p with area := a }
  | none => s

/-- An accepted SET_POINT (R18, R19): first the base priority and step, then the area. -/
def applySetPoint (tag : Tag) (c : StoredPoint) (s : State) : State :=
  match s.point tag with
  | none => s.putPoint tag (newPoint c)
  | some p =>
    let q := { p.withBase s.runSeconds c.base c.step with origin := .configured, shelvable := c.shelvable }
    moveArea tag c.area (changePoint tag p q s)

def serveSetPoint (x : Tag × StoredPoint) : Serve :=
  fun s => accepted (applySetPoint x.1 x.2 s)

def takeSetPoint (l : Link) (tag : Byte) (body : List Byte) (s : State) : State :=
  takeFrame l 1 tag (asCommand l (served (readSetPoint body) serveSetPoint)) s

/-- SET_POINT (R17 to R23). -/
def execSetPoint (l : Link) (tag : Byte) (body : List Byte) (s : State) : Host.Outcome State Fault Refusal :=
  .next (takeSetPoint l tag body s)

/-! ### CLEAR_POINT, POINT_READ -/

/-- CLEAR_POINT's effect (R24). -/
def serveClearPoint (t : Tag) : Serve :=
  fun s =>
    match s.point t with
    | none => accepted s
    | some p =>
      if p.state = .normal then accepted { s with points := tableErase s.points t } else (s, .refused .wrongState)

def takeClearPoint (l : Link) (tag : Byte) (body : List Byte) (s : State) : State :=
  takeFrame l 2 tag (asCommand l (served (readTag body) serveClearPoint)) s

/-- CLEAR_POINT (R24). -/
def execClearPoint (l : Link) (tag : Byte) (body : List Byte) (s : State) : Host.Outcome State Fault Refusal :=
  .next (takeClearPoint l tag body s)

def takePointRead (l : Link) (tag : Byte) (body : List Byte) (s : State) : State :=
  takeFrame l 33 tag (asQuery l (served (readTag body) (fun t => readOut (fun s => pointReadBody s t)))) s

/-- POINT_READ (R25). -/
def execPointRead (l : Link) (tag : Byte) (body : List Byte) (s : State) : Host.Outcome State Fault Refusal :=
  .next (takePointRead l tag body s)

/-! ### ASSIGN_AREA (R39) -/

/-- Whether an optional desk is in handover. -/
def State.deskInHandover (s : State) (d : Option Desk) : Bool :=
  d.any s.inHandover

/-- ASSIGN_AREA's tests and effect (R39); the body's test is its reading. -/
def serveAssignArea (x : Area × Option Desk) : Serve :=
  fun s =>
    if s.deskInHandover (s.owner x.1) || s.deskInHandover x.2 then (s, .refused .inHandover)
    else
      match x.2 with
      | none => accepted (if (s.owner x.1).isSome then changeOwner x.1 none s else s)
      | some d =>
        match s.holderRecord d with
        | none => (s, .refused .notAttended)
        | some (_, r) =>
          if inSet r.areas x.1 then accepted (if s.owner x.1 = some d then s else changeOwner x.1 (some d) s)
          else (s, .refused .notPermitted)

def takeAssignArea (l : Link) (tag : Byte) (body : List Byte) (s : State) : State :=
  takeFrame l 3 tag (asRoutingCommand l (served (readAssignArea body) serveAssignArea)) s

/-- ASSIGN_AREA (R39). -/
def execAssignArea (l : Link) (tag : Byte) (body : List Byte) (s : State) : Host.Outcome State Fault Refusal :=
  .next (takeAssignArea l tag body s)

/-! ### INTAKE_FRAME (R26, R27) -/

/-- The reasons of a BAD_FRAME entry (chapter 02). -/
inductive BadFrame where
  | check | tag | kind | area | overrun | length
  deriving DecidableEq, Repr

def BadFrame.code : BadFrame → Nat
  | .check => 1 | .tag => 2 | .kind => 3 | .area => 4 | .overrun => 5 | .length => 6

/-- The first detail of the intake unit's entries: 256 times the link number plus a figure. -/
def intakeDetail (l : EventLink) (n : Nat) : Nat :=
  256 * l.code + n

/-- A frame is discarded with its BAD_FRAME entry. -/
def badFrame (l : EventLink) (reason : BadFrame) (tag : Option Tag) (seq : Option Nat) (s : State) : State :=
  enter { kind := .badFrame, tag := tag, d1 := some (intakeDetail l reason.code), d2 := seq } s

/-- A six-byte frame joins a queue that has room (R26); the eighth asserts the hold line (R27). -/
def queueFrame (l : EventLink) (f : SixBytes) (s : State) : State :=
  let q := (s.eventLink l).queue ++ [f]
  if q.length = Config.intakeDepth then
    enter { kind := .intakeHeld, d1 := some (intakeDetail l 0) }
      (s.putEventLink l { s.eventLink l with queue := q, holdLine := true })
  else s.putEventLink l { s.eventLink l with queue := q }

/-- Bytes are divided off on an event link (R26). -/
def intakeFrame (l : EventLink) (bytes : List Byte) (s : State) : State :=
  match sixOf bytes with
  | none => badFrame l .length none none s
  | some f =>
    if (s.eventLink l).queue.length < Config.intakeDepth then queueFrame l f s else badFrame l .overrun none none s

/-- INTAKE_FRAME (R26, R27). -/
def execIntakeFrame (l : EventLink) (bytes : List Byte) (s : State) : Host.Outcome State Fault Refusal :=
  .next (whileWorking (intakeFrame l bytes) s)

/-! ### INTAKE_TAKE (R28 to R33) -/

/-- Stage 2: the gateway sequence number against the expected one (R30). -/
def compareSequence (l : EventLink) (received : Byte) (s : State) : State :=
  let s1 := match (s.eventLink l).expected with
    | none => s
    | some e =>
      if e = received then s
      else enter { kind := .intakeGap, d1 := some (intakeDetail l e.toNat), d2 := some received.toNat } s
  s1.putEventLink l { s1.eventLink l with expected := some (received + 1) }

/-- The provisional record made for an unknown tag (R4). -/
def provisionalPoint (a : Area) : Point :=
  { origin := .provisional, area := a, base := 1, step := 0, shelvable := false, state := .normal, active := false
    effective := 1, silenced := false, repeats := 0, lastAck := none }

/-- Stage 5: the frame is applied to its point (R7, R8, R15). -/
def applyFrame (tag : Tag) (isActive : Bool) (s : State) : State :=
  match s.point tag with
  | some p => if isActive then activeFrame tag p s else clearFrame tag p s
  | none => s

/-- Stages 4 and 5: the area header is resolved (R32, R33) and the frame applied. -/
def resolveFrame (l : EventLink) (f : SixBytes) (tag : Tag) (isActive : Bool) (s : State) : State :=
  match s.point tag with
  | some p =>
    if p.origin = .configured ∧ f.b0.toNat ≠ p.area.val then
      applyFrame tag isActive
        (enter { kind := .intakeMismatch, tag := some tag, d1 := some (intakeDetail l f.b0.toNat)
                 d2 := some p.area.val } s)
    else applyFrame tag isActive s
  | none =>
    match areaOf f.b0.toNat with
    | some a =>
      applyFrame tag isActive
        (enter { kind := .provisional, tag := some tag, d1 := some (intakeDetail l f.b0.toNat) }
          (s.putPoint tag (provisionalPoint a)))
    | none => badFrame l .area (some tag) (some f.b4.toNat) s

/-- The kind of an intake frame: ACTIVE or CLEAR (R205). -/
def frameKind : Nat → Option Bool
  | 1 => some true
  | 2 => some false
  | _ => none

/-- Stages 1 to 5 of a frame that has left its queue (R28). A frame whose tag and kind are both out of range fails
stage 3 twice; the tag is tested first and gives the reason (DESIGN CHOICE, log 33). -/
def checkFrame (l : EventLink) (f : SixBytes) (s : State) : State :=
  if sumsToZero f then
    let s1 := compareSequence l f.b4 s
    match tagOf (num [f.b1, f.b2]) with
    | none => badFrame l .tag none (some f.b4.toNat) s1
    | some tag =>
      match frameKind f.b3.toNat with
      | none => badFrame l .kind none (some f.b4.toNat) s1
      | some isActive => resolveFrame l f tag isActive s1
  else badFrame l .check none none s

/-- The head of an intake queue is taken (R28), releasing the hold line (R27); an empty queue has no head to take
(log 6). -/
def intakeTake (l : EventLink) (s : State) : State :=
  match (s.eventLink l).queue with
  | f :: rest => checkFrame l f (s.putEventLink l { s.eventLink l with queue := rest, holdLine := false })
  | [] => s

/-- INTAKE_TAKE (R28 to R33). -/
def execIntakeTake (l : EventLink) (s : State) : Host.Outcome State Fault Refusal :=
  .next (whileWorking (intakeTake l) s)

end Sys2Proof.Machine
end

