-- ==== Sys2Proof/Machine/SettingsFamily.lean ====
section
/-! DEFINITION. The settings and the settings store (chapter 11, R200 to R204): SET_DESK, SET_LIMITS, SET_FLASH,
STORE_SAVE, STORE_WRITE_COMPLETE. -/

namespace Sys2Proof.Machine

/-! ### SET_DESK (R202) -/

/-- Whether a desk is in service (R91). -/
def State.inService (s : State) (d : Desk) : Bool :=
  decide ((s.unit d).state ≠ .outOfService)

/-- The service part of a SET_DESK (R94): a desk taken out of service, returned to it, or left as it is. -/
def setService (d : Desk) (serve : Bool) (s : State) : State :=
  if s.inService d then (if serve then s else takeOutOfService d s)
  else if serve then returnToService d s else s

/-- The supervisor setting of a SET_DESK (R42, R202). -/
def setSupervisor (d : Desk) (sup : Bool) (s : State) : State :=
  if sup then { s with supervisor := some d }
  else if s.supervisor = some d then { s with supervisor := none } else s

/-- The desk configuration of an accepted SET_DESK replaces the old (R42, R161, R202). -/
def applySetDesk (f : SetDeskFields) (s : State) : State :=
  let s1 := setSupervisor f.desk f.supervisor (setService f.desk f.inService s)
  s1.putUnit f.desk { s1.unit f.desk with home := f.home, tone := f.tone, hornHold := f.hornHold }

/-- Whether another desk is the supervisor desk (R202). -/
def State.supervisedElsewhere (s : State) (d : Desk) : Bool :=
  s.supervisor.any (fun e => decide (e ≠ d))

/-- SET_DESK's test and effect (R202); the reply gives the clamped hold. -/
def serveSetDesk (f : SetDeskFields) : Serve :=
  fun s =>
    if f.supervisor && s.supervisedElsewhere f.desk then (s, .refused .supervisorTaken)
    else (applySetDesk f s, .ok [byte f.hornHold])

def takeSetDesk (l : Link) (tag : Byte) (body : List Byte) (s : State) : State :=
  takeFrame l 16 tag (asRoutingCommand l (served (readSetDesk body) serveSetDesk)) s

/-- SET_DESK (R202, R42, R94, R161). -/
def execSetDesk (l : Link) (tag : Byte) (body : List Byte) (s : State) : Host.Outcome State Fault Refusal :=
  .next (takeSetDesk l tag body s)

/-! ### SET_LIMITS, SET_FLASH -/

/-- SET_LIMITS's effect (R203): the flood pair is held until the next minute tick (R59), the rest is replaced. -/
def serveSetLimits (x : Limits) : Serve :=
  fun s =>
    ({ s with limits := { x with flood := s.limits.flood }, heldFlood := some x.flood },
     .ok (be 2 x.flood.onAt ++ be 2 x.flood.offAt ++ [byte x.handoverLimit, byte x.dueGrace, byte x.silenceTime]))

def takeSetLimits (l : Link) (tag : Byte) (body : List Byte) (s : State) : State :=
  takeFrame l 17 tag (asCommand l (served (readLimits body) serveSetLimits)) s

/-- SET_LIMITS (R203, R59). -/
def execSetLimits (l : Link) (tag : Byte) (body : List Byte) (s : State) : Host.Outcome State Fault Refusal :=
  .next (takeSetLimits l tag body s)

/-- SET_FLASH's effect (R146): the clamped four are staged and answered (R204). -/
def serveSetFlash (x : Flash) : Serve :=
  fun s => ({ s with staged := some x }, .ok x.bytes)

def takeSetFlash (l : Link) (tag : Byte) (body : List Byte) (s : State) : State :=
  takeFrame l 18 tag (asCommand l (served (readFlash body) serveSetFlash)) s

/-- SET_FLASH (R146, R204). -/
def execSetFlash (l : Link) (tag : Byte) (body : List Byte) (s : State) : Host.Outcome State Fault Refusal :=
  .next (takeSetFlash l tag body s)

/-! ### STORE_SAVE, STORE_WRITE_COMPLETE (R200, R201) -/

/-- The configuration fields of a point, as the store keeps them (R5). -/
def Point.stored (p : Point) : StoredPoint :=
  { area := p.area, base := p.base, step := p.step, shelvable := p.shelvable }

/-- The CONFIGURED point records, as the store keeps them (R3). -/
def State.storedPoints (s : State) : Table 1024 StoredPoint :=
  tableMap (fun _ p => p.stored) (s.points.filter (fun e => decide (e.2.origin = .configured)))

/-- A desk's configuration, as the store keeps it. -/
def State.storedDesk (s : State) (d : Desk) : StoredDesk :=
  { inService := s.inService d, home := (s.unit d).home, tone := (s.unit d).tone, hornHold := (s.unit d).hornHold }

/-- The snapshot of every setting (R201): the held flood pair and the staged flash values where there are any. -/
def State.snapshot (s : State) : Image :=
  { points := s.storedPoints, operators := s.operators, desks := PerDesk.of s.storedDesk, supervisor := s.supervisor
    flash := s.staged.getD s.flash, schedule := s.schedule, markMode := s.markMode, timeHold := s.timeHold
    limits := { s.limits with flood := s.heldFlood.getD s.limits.flood }, clearMode := s.attention.clearMode }

/-- STORE_SAVE's test and effect (R201); the reply gives the numbers of point and operator records. -/
def serveStoreSave (_ : Unit) : Serve :=
  fun s =>
    match s.store with
    | .writing _ => (s, .busy)
    | .valid | .invalid =>
      ({ s with store := .writing s.snapshot },
       .ok (be 2 s.snapshot.points.length ++ [byte s.snapshot.operators.length]))

def takeStoreSave (l : Link) (tag : Byte) (body : List Byte) (s : State) : State :=
  takeFrame l 21 tag (asCommand l (served (readNothing body) serveStoreSave)) s

/-- STORE_SAVE (R201). -/
def execStoreSave (l : Link) (tag : Byte) (body : List Byte) (s : State) : Host.Outcome State Fault Refusal :=
  .next (takeStoreSave l tag body s)

/-- A store write ends (R201); `agrees` says whether the image read back passes its check (log 18). With no write in
flight there is none to end (log 6). -/
def storeWriteComplete (agrees : Bool) (s : State) : State :=
  match s.store with
  | .writing image =>
    enter { kind := .storeSaved, d1 := some (if agrees then 1 else 2), d2 := some image.points.length }
      (if agrees then { s with store := .valid, image := some image } else { s with store := .invalid, image := none })
  | .valid | .invalid => s

/-- STORE_WRITE_COMPLETE (R201). -/
def execStoreWriteComplete (agrees : Bool) (s : State) : Host.Outcome State Fault Refusal :=
  .next (whileWorking (storeWriteComplete agrees) s)

end Sys2Proof.Machine
end

