-- ==== Sys2Proof/Machine/TimeFamily.lean ====
section
/-! DEFINITION. The time base's commands and events (chapter 09) and the desk units' tick work (R144): TIME_MARK,
SET_SCHEDULE, TIME_READ, SECOND_EVENT, MINUTE_PULSE, DUE_LATE. -/

namespace Sys2Proof.Machine

/-! ### TIME_MARK (R168 to R172) -/

/-- The classes of a time mark (R168). -/
inductive MarkClass where
  | set | trim | step | false_
  deriving DecidableEq, Repr

def MarkClass.code : MarkClass → Nat
  | .set => 1 | .trim => 2 | .step => 3 | .false_ => 4

/-- The class of a mark whose difference from mill time is `d` (R168). -/
def classOf (mode : MarkMode) (d : Int) : MarkClass :=
  if d.natAbs ≤ 2 then .trim
  else match mode with
    | .follow => .step
    | .strict => .false_

/-- What a mark did, as its reply reports it: its class, whether it was taken, its difference, absent for SET, and the
numbers of boundaries fired and passed over (R169, R208). -/
structure MarkReport where
  cls : MarkClass
  taken : Bool
  diff : Option Int
  fired : Nat
  passed : Nat
  deriving DecidableEq, Repr

/-- The OK reply body of a TIME_MARK (R208). -/
def MarkReport.body (r : MarkReport) : List Byte :=
  [byte r.cls.code, yesNo r.taken, optByte (r.diff.map (fun d => if d < 0 then 1 else 0))] ++
    be 4 ((r.diff.map Int.natAbs).getD 0) ++ [byte r.fired] ++ be 2 (min 65535 r.passed)

/-- The journal entry of a mark with a difference (R172). -/
def markEntry (kind : Kind) (d : Int) (held : Bool) (code : Nat) : Draft :=
  { kind := kind, d1 := some (512 * (if d < 0 then 1 else 0) + 256 * (if held then 1 else 0) + code)
    d2 := some (min 65535 d.natAbs) }

/-- A mark while mill time is UNSET: class SET, taken unless HOLD is set (R169, R170). -/
def markUnset (t : MillTime) (s : State) : State × MarkReport :=
  if s.timeHold then
    (enter { kind := .timeSet, d1 := some 257 } s, { cls := .set, taken := false, diff := none, fired := 0, passed := 0 })
  else
    (enter { kind := .timeSet, d1 := some 1 } (setMill t s),
      { cls := .set, taken := true, diff := none, fired := 0, passed := 0 })

/-- A mark of class TRIM or STEP is taken (R169, R171): mill time moves, the entry is made if the class has one, and a
forward move fires the starts it crosses. -/
def takeMark (c : MillClock) (t : MillTime) (d : Int) (cls : MarkClass) (entry : Option Draft) (s : State) :
    State × MarkReport :=
  if d < 0 then
    let s1 := moveMill t s
    let s2 := match entry with
      | some e => enter e s1
      | none => s1
    (s2, { cls := cls, taken := true, diff := some d, fired := 0, passed := 0 })
  else
    let counts := firedAndPassed (crossed s.schedule c d.toNat)
    (moveForward c d.toNat entry s,
      { cls := cls, taken := true, diff := some d, fired := counts.1, passed := counts.2 })

/-- A mark that is not taken while mill time is SET is journalled alone (R169, R170). -/
def keepTime (d : Int) (cls : MarkClass) (s : State) : State × MarkReport :=
  let kind := match cls with
    | .false_ => Kind.timeFalse
    | .set | .trim | .step => Kind.timeStep
  (enter (markEntry kind d s.timeHold cls.code) s, { cls := cls, taken := false, diff := some d, fired := 0, passed := 0 })

/-- A mark while mill time is SET (R169 to R171). -/
def markSet (c : MillClock) (t : MillTime) (s : State) : State × MarkReport :=
  let d := difference c.now t
  let cls := classOf s.markMode d
  if s.timeHold then keepTime d cls s
  else
    match cls with
    | .false_ => keepTime d cls s
    | .trim | .set => takeMark c t d cls none s
    | .step => takeMark c t d cls (some (markEntry .timeStep d false cls.code)) s

/-- A mark is taken as one event at the time base (R168). -/
def timeMark (t : MillTime) (s : State) : State × MarkReport :=
  match s.mill with
  | none => markUnset t s
  | some c => markSet c t s

def serveTimeMark (t : MillTime) : Serve :=
  fun s => ((timeMark t s).1, .ok (timeMark t s).2.body)

def takeTimeMark (l : Link) (tag : Byte) (body : List Byte) (s : State) : State :=
  takeFrame l 14 tag (asCommand l (served (readTimeMark body) serveTimeMark)) s

/-- TIME_MARK (R168 to R172). -/
def execTimeMark (l : Link) (tag : Byte) (body : List Byte) (s : State) : Host.Outcome State Fault Refusal :=
  .next (takeTimeMark l tag body s)

/-! ### SET_SCHEDULE, TIME_READ -/

/-- SET_SCHEDULE's effect (R174, R204): the last fired boundary is kept, and nothing fires. -/
def serveSchedule (x : List Nat × MarkMode × Bool) : Serve :=
  fun s => accepted { s with schedule := x.1, markMode := x.2.1, timeHold := x.2.2 }

def takeSetSchedule (l : Link) (tag : Byte) (body : List Byte) (s : State) : State :=
  takeFrame l 15 tag (asCommand l (served (readSchedule body) serveSchedule)) s

/-- SET_SCHEDULE (R174, R204). -/
def execSetSchedule (l : Link) (tag : Byte) (body : List Byte) (s : State) : Host.Outcome State Fault Refusal :=
  .next (takeSetSchedule l tag body s)

def takeTimeRead (l : Link) (tag : Byte) (body : List Byte) (s : State) : State :=
  takeFrame l 38 tag (asQuery l (served (readNothing body) (fun _ => readOut timeReadBody))) s

/-- TIME_READ (R176). -/
def execTimeRead (l : Link) (tag : Byte) (body : List Byte) (s : State) : Host.Outcome State Fault Refusal :=
  .next (takeTimeRead l tag body s)

/-! ### SECOND_EVENT (R163 to R165) -/

/-- Mill time runs on by a second while it is SET, firing a start it reaches (R165). -/
def advanceMill (s : State) : State :=
  match s.mill with
  | some c => moveForward c 1 none s
  | none => s

/-- The minute tick is handed to the blocks when the count is a multiple of 60 other than 0 (R164). -/
def handTick (s : State) : State :=
  if s.runSeconds ≠ 0 ∧ s.runSeconds.toNat % 60 = 0 then { s with tick := ⟨true, true, true⟩ } else s

/-- A second passes (R163). A boundary it fires has the new count as its due time. -/
def secondEvent (s : State) : State :=
  handTick (advanceMill { s with runSeconds := s.runSeconds + 1 })

/-- SECOND_EVENT (R163 to R165). -/
def execSecondEvent (s : State) : Host.Outcome State Fault Refusal :=
  .next (whileWorking secondEvent s)

/-! ### MINUTE_PULSE (R173) -/

/-- The PULSE entry: seconds moved, and 1 for forward or 2 for backward (R173). -/
def pulseEntry (moved direction : Nat) : Draft :=
  { kind := .pulse, d1 := some moved, d2 := some direction }

/-- A pulse while mill time is SET and HOLD is off rounds mill time to the nearest whole minute (R173). -/
def roundMinute (c : MillClock) (s : State) : State :=
  let sec := c.now.second % 60
  if sec = 0 then s
  else if sec < 30 then
    enter (pulseEntry sec 2) (moveMill { c.now with second := c.now.second - sec } s)
  else moveForward c (60 - sec) (some (pulseEntry (60 - sec) 1)) s

/-- A pulse of the mill master clock (R173). -/
def minutePulse (s : State) : State :=
  match s.mill with
  | some c => if s.timeHold then s else roundMinute c s
  | none => s

/-- MINUTE_PULSE (R173). -/
def execMinutePulse (s : State) : Host.Outcome State Fault Refusal :=
  .next (whileWorking minutePulse s)

/-! ### DUE_LATE (R144) -/

/-- Whether a DUE desk is late at a tick (R144). -/
def lateNow (grace : Nat) (now : Word32) (m : DueMark) : Bool :=
  !m.late && decide (60 * grace ≤ since m.time now)

/-- The desk unit of a desk looks for a late shift change (R144). -/
def checkLate (d : Desk) (s : State) : State :=
  match (s.unit d).due with
  | some m =>
    if lateNow s.limits.dueGrace s.runSeconds m then
      enter { kind := .dueLate, desk := some d, op := s.holder d, d1 := some s.limits.dueGrace }
        (s.putUnit d { s.unit d with due := some { m with late := true } })
    else s
  | none => s

/-- The desk units' work at a minute tick (R144), taken once for each tick (log 6), the desks ascending (log 15). -/
def dueLate (s : State) : State :=
  if s.tick.late then
    allDesks.foldl (fun s' d => checkLate d s') { s with tick := { s.tick with late := false } }
  else s

/-- DUE_LATE (R144). -/
def execDueLate (s : State) : Host.Outcome State Fault Refusal :=
  .next (whileWorking dueLate s)

end Sys2Proof.Machine
end

