-- ==== Sys2Proof/Machine/LinkFamily.lean ====
section
/-! DEFINITION. The link unit's own commands and events (chapter 11): TAKE_COMMAND, RESET, UNACCEPTED_TYPE_FRAME,
FRAME_CHECK_FAILED, FRAME_BYTE_GAP_TIMEOUT, FRAME_SEND_COMPLETE, LINK_LOST, RECEIVER_TAKES_BYTE. -/

namespace Sys2Proof.Machine

/-! ### TAKE_COMMAND (R195, R196) -/

/-- TAKE_COMMAND on the link that is not the command link (R196): the latch moves in LOCAL. The frames already taken
on the former command link keep their effect and their replies, sent or not; a frame that is still in the model's
queue of commands at the move is the one R196 calls waiting (DESIGN CHOICE, log 34). -/
def moveLatch (l : Link) : Serve :=
  fun s => if s.isLocal then (reroute s (latchOn l 2 s), .ok []) else (s, .refused .notLocal)

/-- TAKE_COMMAND's effect (R195, R196). The length of its body is tested before NOT_LOCAL (log 30). -/
def serveTakeCommand (l : Link) (body : List Byte) : Serve :=
  fun s =>
    match latch l s with
    | some s' => served (readNothing body) (fun _ => accepted) (reroute s s')
    | none => served (readNothing body) (fun _ => moveLatch l) s

def takeTakeCommand (l : Link) (tag : Byte) (body : List Byte) (s : State) : State :=
  takeFrame l 22 tag (serveTakeCommand l body) s

/-- TAKE_COMMAND (R195, R196). -/
def execTakeCommand (l : Link) (tag : Byte) (body : List Byte) (s : State) : Host.Outcome State Fault Refusal :=
  .next (takeTakeCommand l tag body s)

/-! ### RESET -/

/-- RESET is accepted (R198): the link unit takes no further frame, and the part resets once the reply has gone. -/
def serveReset (_ : Unit) : Serve :=
  fun s => accepted { s with phase := .closing }

def takeReset (l : Link) (tag : Byte) (body : List Byte) (s : State) : State :=
  takeFrame l 23 tag (asCommand l (served (readNothing body) serveReset)) s

/-- RESET (R198). -/
def execReset (l : Link) (tag : Byte) (body : List Byte) (s : State) : Host.Outcome State Fault Refusal :=
  .next (takeReset l tag body s)

/-! ### Frames that are not requests -/

/-- A frame of a type the part does not accept (R193), whatever its body. -/
def takeUnaccepted (l : Link) (type tag : Byte) (_body : List Byte) (s : State) : State :=
  takeFrame l type tag (asQuery l (fun s' => (s', .badType))) s

/-- UNACCEPTED_TYPE_FRAME (R193). -/
def execUnacceptedTypeFrame (l : Link) (type tag : Byte) (body : List Byte) (s : State) :
    Host.Outcome State Fault Refusal :=
  .next (takeUnaccepted l type tag body s)

/-- FRAME_CHECK_FAILED (R191): the frame inside the receiver is discarded. -/
def execFrameCheckFailed (l : Link) (s : State) : Host.Outcome State Fault Refusal :=
  .next (whileWorking (setReceiver l .hunting) s)

/-- FRAME_BYTE_GAP_TIMEOUT (R191): the partial frame is discarded. -/
def execFrameByteGapTimeout (l : Link) (s : State) : Host.Outcome State Fault Refusal :=
  .next (whileWorking (setReceiver l .hunting) s)

/-! ### FRAME_SEND_COMPLETE (R193, R198) -/

/-- The last byte of the frame being sent has gone: its place is free, and the link takes its next opportunity to send
(R187, R193); after the reply to a RESET the part resets (R198). A link that sends nothing completes nothing
(log 6). -/
def frameSendComplete (l : Link) (s : State) : State :=
  match (s.link l).sending with
  | some f =>
    if f.role = .resetReply then resetTo (.hold .resetCommand) s
    else takeOpportunity l (s.putLink l { s.link l with sending := none })
  | none => s

/-- FRAME_SEND_COMPLETE (R193, R198). -/
def execFrameSendComplete (l : Link) (s : State) : Host.Outcome State Fault Refusal :=
  .next (whileWorking (frameSendComplete l) s)

/-! ### LINK_LOST (R197) -/

/-- The silence timer's expiry (R197): the part enters LOCAL. A timer that does not run, or whose expiry is not
reached, does not expire (log 6). -/
def linkLost (s : State) : State :=
  match s.command with
  | .latched l expiry =>
    if reached expiry s.runSeconds then
      reroute s
        (enter { kind := .linkLost, d1 := some l.code, d2 := some s.limits.silenceTime }
          { s with command := .lost l s.runSeconds })
    else s
  | .unlatched | .lost _ _ => s

/-- LINK_LOST (R197). -/
def execLinkLost (s : State) : Host.Outcome State Fault Refusal :=
  .next (whileWorking linkLost s)

/-! ### RECEIVER_TAKES_BYTE (R191 to R193) -/

/-- A well-formed frame is handed on by its type (R193, R208). -/
def handOn (l : Link) (type tag : Byte) (body : List Byte) (s : State) : State :=
  match type.toNat with
  | 1 => takeSetPoint l tag body s
  | 2 => takeClearPoint l tag body s
  | 3 => takeAssignArea l tag body s
  | 4 => takeSetOperator l tag body s
  | 5 => takeClearOperator l tag body s
  | 6 => takeAck l tag body s
  | 7 => takeSilence l tag body s
  | 8 => takeShelve l tag body s
  | 9 => takeUnshelve l tag body s
  | 10 => takeHandoverOpen l tag body s
  | 11 => takeHandoverCancel l tag body s
  | 12 => takeHandoverCommit l tag body s
  | 13 => takeBrief l tag body s
  | 14 => takeTimeMark l tag body s
  | 15 => takeSetSchedule l tag body s
  | 16 => takeSetDesk l tag body s
  | 17 => takeSetLimits l tag body s
  | 18 => takeSetFlash l tag body s
  | 19 => takeAttnControl l tag body s
  | 20 => takeAttnClear l tag body s
  | 21 => takeStoreSave l tag body s
  | 22 => takeTakeCommand l tag body s
  | 23 => takeReset l tag body s
  | 32 => takeStatus l tag body s
  | 33 => takePointRead l tag body s
  | 34 => takeListRead l tag body s
  | 35 => takeJournalRead l tag body s
  | 36 => takeDeskRead l tag body s
  | 37 => takeOperatorRead l tag body s
  | 38 => takeTimeRead l tag body s
  | _ => takeUnaccepted l type tag body s

/-- A frame's last check byte has arrived: a frame that passes its check is handed on, any other is discarded (R191,
R192). `bytes` are the bytes after the start byte. -/
def frameEnds (l : Link) (bytes : List Byte) (s : State) : State :=
  let s1 := setReceiver l .hunting s
  let checked := bytes.take (bytes.length - 2)
  match checked with
  | _ :: type :: tag :: body =>
    if bytes.drop (bytes.length - 2) = checkBytes checked then handOn l type tag body s1 else s1
  | _ => s1

/-- The receiver INSIDE a frame has collected these bytes after the start byte (R191). -/
def collected (l : Link) (bytes : List Byte) (s : State) : State :=
  match bytes with
  | length :: _ =>
    if Config.maxBody < length.toNat then setReceiver l .hunting s
    else if bytes.length = length.toNat + 5 then frameEnds l bytes s
    else setReceiver l (.inside bytes) s
  | [] => setReceiver l (.inside []) s

/-- A byte arrives on a link (R191). -/
def receiveByte (l : Link) (b : Byte) (s : State) : State :=
  match (s.link l).receiver with
  | .hunting => if b = Config.startByte then setReceiver l (.inside []) s else s
  | .inside bytes => collected l (bytes ++ [b]) s

/-- RECEIVER_TAKES_BYTE (R191). -/
def execReceiverTakesByte (l : Link) (b : Byte) (s : State) : Host.Outcome State Fault Refusal :=
  .next (whileWorking (receiveByte l b) s)

end Sys2Proof.Machine
end

