-- ==== Sys2Proof/Machine/Annunciator.lean ====
section
/-! DEFINITION. The annunciator (chapter 08): patterns, the choice of the lamps, the horn arbiter, CYCLE_START and
FLASH_TICK. -/

namespace Sys2Proof.Machine

/-! ### Patterns (R148) -/

/-- The half-cycle H (R145). -/
def Flash.half (f : Flash) : Nat := f.c / 2

/-- Whether a pattern lights its lamp at a position of the cycle (R148). -/
def Pattern.lit (f : Flash) (pos : Nat) : Pattern → Bool
  | .off => false
  | .steady => decide (pos < f.c)
  | .flash => decide (pos < f.df)
  | .altFirst => decide (f.g ≤ pos) && decide (pos < f.da)
  | .altSecond => decide (f.half + f.g ≤ pos) && decide (pos < f.half + f.da)

/-- The lamps of a desk, lit or dark at the present tick (R145, R148): L-ALARM, L-RETURN, L-HAND, L-KEY, L-LINK. -/
def State.lampsLit (s : State) (d : Desk) : List Bool :=
  let l := (s.unit d).lamps
  [l.alarm, l.ret, l.hand, l.key, l.link].map (Pattern.lit s.flash s.position)

/-! ### List facts (R48) -/

/-- Whether a target's attention list holds an item of some kind (R48). -/
def State.listHolds (s : State) (t : Target) (kind : Point → Bool) : Bool :=
  s.points.any (fun e => s.standsAt t e.2 && kind e.2)

/-- Whether a target's list has an unacknowledged alarm (R48). -/
def State.hasUnack (s : State) (t : Target) : Bool :=
  s.listHolds t Point.isUnack

/-- Whether a target's list has an unacknowledged return (R48). -/
def State.hasReturn (s : State) (t : Target) : Bool :=
  s.listHolds t (fun p => decide (p.standing = some .rtnUnack))

/-- Whether a target's list holds any item (R48). -/
def State.hasStanding (s : State) (t : Target) : Bool :=
  s.listHolds t (fun _ => true)

/-- Whether a target's list has the horn request fact (R48, R156). -/
def State.requestsHorn (s : State) (t : Target) : Bool :=
  s.listHolds t (fun p => p.isUnack && !p.silenced)

/-! ### The choice of the lamps (R150 to R154) -/

/-- L-ALARM (R151). -/
def lampAlarm (s : State) (d : Desk) : Pattern :=
  if (s.loadOf (.desk d)).flood then .altFirst
  else if s.hasUnack (.desk d) then .flash
  else if s.hasStanding (.desk d) then .steady else .off

/-- L-RETURN (R151). -/
def lampReturn (s : State) (d : Desk) : Pattern :=
  if (s.loadOf (.desk d)).flood then .altSecond
  else if s.hasReturn (.desk d) then .flash else .off

/-- L-HAND (R152). -/
def lampHand (u : DeskUnit) : Pattern :=
  match u.state with
  | .handoverOpen _ _ => .flash
  | .handoverReview _ _ _ => if u.due.isSome then .flash else .steady
  | .attended _ | .vacant | .outOfService => if u.due.isSome then .flash else .off

/-- Whether a slot is in FAULT, or in PRESENT with the result REFUSED (R153). -/
def SlotState.flashesKey : SlotState → Bool
  | .faultBattery | .faultRead _ => true
  | .present _ _ _ (.refused _) => true
  | _ => false

/-- L-KEY (R153). -/
def lampKey (u : DeskUnit) : Pattern :=
  if u.slotA.state.flashesKey || u.slotB.state.flashesKey then .flash
  else if u.state.hasHolder then .steady else .off

/-- L-LINK (R154). -/
def lampLink (s : State) : Pattern :=
  if s.isLocal then .flash else .steady

/-- The five lamps of a desk (R150 to R154): all dark at a desk out of service. -/
def chooseLamps (s : State) (d : Desk) : Lamps :=
  match (s.unit d).state with
  | .outOfService => ⟨.off, .off, .off, .off, .off⟩
  | .vacant | .attended _ | .handoverOpen _ _ | .handoverReview _ _ _ =>
    { alarm := lampAlarm s d, ret := lampReturn s d, hand := lampHand (s.unit d), key := lampKey (s.unit d)
      link := lampLink s }

/-! ### The horn arbiter (R156 to R160) -/

/-- A requester's horn hold: a desk setting, or the room's (R159). -/
def State.hornHold (s : State) : Target → Nat
  | .desk d => (s.unit d).hornHold
  | .room => Config.roomHold

/-- A requester's tone: a desk setting, or the room's (R160). -/
def State.hornTone (s : State) : Target → Nat
  | .desk d => (s.unit d).tone
  | .room => Config.roomTone

/-- The requesters that follow one in round-robin order, up to but not including itself (R159). -/
def othersAfter (t : Target) : List Target :=
  allTargets.drop (t.code + 1) ++ allTargets.take t.code

/-- The hold count brought up to date (R158): the owner sounded through the cycle now ending. -/
def countUp (h : Horn) : Nat :=
  match h.owner with
  | some t => if h.requests.get t then min 15 (h.count + 1) else h.count
  | none => h.count

/-- The owner decided from the requests just registered and the count brought up to date (R159). -/
def decideOwner (s : State) (owner : Option Target) (count : Nat) (requests : PerTarget Bool) : Option Target :=
  match owner with
  | none => allTargets.find? requests.get
  | some t =>
    match (othersAfter t).find? requests.get with
    | none => some t
    | some u => if requests.get t = true ∧ count < s.hornHold t then some t else some u

/-- The horn output of a cycle (R160). -/
def hornOutput (s : State) (owner : Option Target) (requests : PerTarget Bool) : Option Nat :=
  match owner with
  | some t => if requests.get t then some (s.hornTone t) else none
  | none => none

/-- The horn arbiter's work at a cycle start (R156 to R160). -/
def arbitrate (s : State) : Horn :=
  let requests := PerTarget.of s.requestsHorn
  let count := countUp s.horn
  let owner := decideOwner s s.horn.owner count requests
  { owner := owner, count := if owner = s.horn.owner then count else 0, requests := requests
    output := hornOutput s owner requests }

/-! ### CYCLE_START and FLASH_TICK -/

/-- The work of a cycle start (R147). -/
def cycleStart (s : State) : State :=
  { s with flash := s.staged.getD s.flash, staged := none, position := 0
           desks := PerDesk.of (fun d => { s.unit d with lamps := chooseLamps s d })
           horn := arbitrate s }

/-- A cycle start falls only at the tick after the last position of the cycle (R145; log 6). -/
def cycleStartEvent (s : State) : State :=
  if s.flash.c ≤ s.position + 1 then cycleStart s else s

/-- CYCLE_START (R147). -/
def execCycleStart (s : State) : Host.Outcome State Fault Refusal :=
  .next (whileWorking cycleStartEvent s)

/-- A flash tick advances the position; the tick after the last position is the cycle start (R145). -/
def flashTick (s : State) : State :=
  if s.flash.c ≤ s.position + 1 then cycleStart s else { s with position := s.position + 1 }

/-- FLASH_TICK (R145). -/
def execFlashTick (s : State) : Host.Outcome State Fault Refusal :=
  .next (whileWorking flashTick s)

end Sys2Proof.Machine
end

