-- ==== Sys2Proof/Machine/KeySlotFamily.lean ====
section
/-! DEFINITION. The key slots (chapter 04): CONTACT_CLOSE, CONTACT_OPEN, SETTLE_END, READ_COMPLETE, READ_TIMEOUT. -/

namespace Sys2Proof.Machine

/-! ### Contacts -/

def Contacts.get (c : Contacts) : Contact → Bool
  | .c1 => c.c1
  | .c2 => c.c2

def Contacts.set (c : Contacts) (k : Contact) (closed : Bool) : Contacts :=
  match k with
  | .c1 => { c with c1 := closed }
  | .c2 => { c with c2 := closed }

/-- The level at a contact's pin, which moves whatever the part is doing (log 4). -/
def setPin (d : Desk) (k : SlotId) (contact : Contact) (closed : Bool) (s : State) : State :=
  s.putSlot d k { s.slot d k with pins := (s.slot d k).pins.set contact closed }

/-- The slot records a contact's new position and takes a new state (R65). -/
def moveContact (d : Desk) (k : SlotId) (contact : Contact) (closed : Bool) (st : SlotState) (s : State) : State :=
  s.putSlot d k { s.slot d k with contacts := (s.slot d k).contacts.set contact closed, state := st }

/-- The state a closing contact gives a slot (R66); a slot with both contacts closed has none left to close. -/
def SlotState.afterClose (inService : Bool) : SlotState → SlotState
  | .empty => .oneContact
  | .oneContact => if inService then .settling else .unpowered
  | st => st

/-- A contact closes at its slot (R65, R66). -/
def closeContact (d : Desk) (k : SlotId) (contact : Contact) (s : State) : State :=
  if (s.slot d k).contacts.get contact then s
  else moveContact d k contact true
    ((s.slot d k).state.afterClose (decide ((s.unit d).state ≠ .outOfService))) s

/-- CONTACT_CLOSE (R65, R66). -/
def execContactClose (d : Desk) (k : SlotId) (contact : Contact) (s : State) : Host.Outcome State Fault Refusal :=
  .next (whileWorking (closeContact d k contact) (setPin d k contact true s))

/-! ### Removal -/

/-- The state an opening contact gives a slot: with one contact closed the slot becomes EMPTY, with both PARTIAL (R66
to R68, R72, R75). -/
def SlotState.afterOpen : SlotState → SlotState
  | .empty | .oneContact => .empty
  | .unpowered | .settling | .reading _ _ _ | .present _ _ _ _ | .faultBattery | .faultRead _ => .oneContact

/-- The KEY_OUT entry (R77): the state left, and for PRESENT the result at removal and the operator signed on. -/
def keyOut (d : Desk) (k : SlotId) (left : Nat) (result : Option SignOn) : Draft :=
  { kind := .keyOut, desk := some d, op := result.bind SignOn.op?, d1 := some (slotDetail k left)
    d2 := result.map SignOn.code }

/-- What an opening contact means for the key that was in the slot, the slot having already moved (R72, R75). -/
def removalOf (d : Desk) (k : SlotId) (old : SlotState) (s : State) : State :=
  match old with
  | .reading _ _ _ => enter (keyOut d k 1 none) s
  | .present _ _ _ r => loseKey d k r .removal (enter (keyOut d k 2 (some r)) s)
  | .faultBattery | .faultRead _ => enter (keyOut d k 3 none) s
  | .empty | .oneContact | .unpowered | .settling => s

/-- A contact opens at its slot (R65, R75); routing is worked out at the end of the event (R37). -/
def openContact (d : Desk) (k : SlotId) (contact : Contact) (s : State) : State :=
  if (s.slot d k).contacts.get contact then
    let old := (s.slot d k).state
    reroute s (removalOf d k old (moveContact d k contact false old.afterOpen s))
  else s

/-- CONTACT_OPEN (R65 to R68, R72, R75). -/
def execContactOpen (d : Desk) (k : SlotId) (contact : Contact) (s : State) : Host.Outcome State Fault Refusal :=
  .next (whileWorking (openContact d k contact) (setPin d k contact false s))

/-! ### SETTLE_END (R69) -/

/-- The key slot's own entries (R77). -/
def keyEntry (kind : Kind) (d : Desk) (k : SlotId) (figure : Nat) (d2 : Option Nat) : Draft :=
  { kind := kind, desk := some d, d1 := some (slotDetail k figure), d2 := d2 }

/-- The battery sampled at the end of the settle: DEAD, LOW or GOOD (R69). -/
def sampleBattery (d : Desk) (k : SlotId) (sense1 sense2 : Bool) (s : State) : State :=
  match sense1, sense2 with
  | false, _ => enter (keyEntry .keyFault d k 1 none) (s.putSlotState d k .faultBattery)
  | true, false => enter (keyEntry .keyBatteryLow d k 0 none) (s.putSlotState d k (.reading .low 1 none))
  | true, true => s.putSlotState d k (.reading .good 1 none)

/-- The settle timer runs out (R68, R69); it runs in SETTLING alone (log 7). -/
def settleEnd (d : Desk) (k : SlotId) (sense1 sense2 : Bool) (s : State) : State :=
  match (s.slot d k).state with
  | .settling => sampleBattery d k sense1 sense2 s
  | _ => s

/-- SETTLE_END (R69). -/
def execSettleEnd (d : Desk) (k : SlotId) (sense1 sense2 : Bool) (s : State) : Host.Outcome State Fault Refusal :=
  .next (whileWorking (settleEnd d k sense1 sense2) s)

/-! ### READ_COMPLETE, READ_TIMEOUT (R70 to R73) -/

/-- The key number of an identity record (R205). -/
def recordKey (r : SixBytes) : KeyNumber :=
  BitVec.ofNat 24 (num [r.b0, r.b1, r.b2])

/-- The three tests of an identity record, the first that fails giving the cause; `none` for a valid record (R71). -/
def judgeRecord (r : SixBytes) : Option ReadFailure :=
  if !sumsToZero r then some .check
  else if (recordKey r) = 0 then some .zeroKey
  else if r.b4 ≠ 1 then some .kind
  else none

/-- An attempt fails (R70, R72): the next begins, or after the third the slot is in FAULT. -/
def failRead (d : Desk) (k : SlotId) (bat : Battery) (attempt : Nat) (cause : ReadFailure) (s : State) : State :=
  if attempt < 3 then s.putSlotState d k (.reading bat (attempt + 1) (some cause))
  else enter (keyEntry .keyFault d k 2 (some cause.code)) (s.putSlotState d k (.faultRead cause))

/-- The slot in PRESENT with a valid identity, the sign-on check still to be made within the event (R73). The result
stands only until `signOnCheck` gives one. -/
def identified (bat : Battery) (r : SixBytes) : SlotState :=
  .present bat (recordKey r) r.b3 (.refused .unknownKey)

/-- A valid record takes the slot to PRESENT, with KEY_IN, and the identity to the sign-on check (R73, R88). -/
def keyIn (d : Desk) (k : SlotId) (bat : Battery) (r : SixBytes) (s : State) : State :=
  signOnCheck d k (recordKey r) r.b3
    (enter (keyEntry .keyIn d k ((recordKey r).toNat / 65536) (some ((recordKey r).toNat % 65536)))
      (s.putSlotState d k (identified bat r)))

/-- An attempt completes with six bytes (R70, R71); with no attempt in flight the completion is discarded (R70).
Routing is worked out at the end of the event (R37). -/
def readComplete (d : Desk) (k : SlotId) (r : SixBytes) (s : State) : State :=
  match (s.slot d k).state with
  | .reading bat n _ =>
    match judgeRecord r with
    | none => reroute s (keyIn d k bat r s)
    | some cause => failRead d k bat n cause s
  | _ => s

/-- READ_COMPLETE (R70, R71, R73). -/
def execReadComplete (d : Desk) (k : SlotId) (r : SixBytes) (s : State) : Host.Outcome State Fault Refusal :=
  .next (whileWorking (readComplete d k r) s)

/-- An attempt completes with no answer (R70). -/
def readTimeout (d : Desk) (k : SlotId) (s : State) : State :=
  match (s.slot d k).state with
  | .reading bat n _ => failRead d k bat n .noAnswer s
  | _ => s

/-- READ_TIMEOUT (R70). -/
def execReadTimeout (d : Desk) (k : SlotId) (s : State) : Host.Outcome State Fault Refusal :=
  .next (whileWorking (readTimeout d k) s)

end Sys2Proof.Machine
end

