-- ==== Sys2Proof/Machine/StartupFamily.lean ====
section
/-! DEFINITION. Resets and start-up (R198 to R200): POWER_ON, SUPPLY_LOW, RESET_PIN, RESET_END, STARTUP_HOLD_END. -/

namespace Sys2Proof.Machine

/-! ### Resets (R198, R199) -/

/-- The supply comes up (R198): the part resets, and the start-up hold begins (log 17), but while the reset input is
asserted the part stays in reset. -/
def powerOn (s : State) : State :=
  resetTo (if s.resetInput then .inReset .powerOn else .hold .powerOn) s

/-- POWER_ON (R198). -/
def execPowerOn (s : State) : Host.Outcome State Fault Refusal :=
  .next (powerOn s)

/-- The supply is found low (R198, R199): the part is reset and stays so; in the start-up hold the hold is restarted
with this cause. -/
def supplyLow (s : State) : State :=
  match s.phase with
  | .hold _ => { s with phase := .hold .supplyLow }
  | .inReset _ => { s with phase := .inReset .supplyLow }
  | .running | .closing => resetTo (.inReset .supplyLow) s

/-- SUPPLY_LOW (R198, R199). -/
def execSupplyLow (s : State) : Host.Outcome State Fault Refusal :=
  .next (supplyLow s)

/-- The reset input is asserted (R198, R199): the part is held in reset. -/
def resetPin (s : State) : State :=
  { resetTo (.inReset .resetPin) s with resetInput := true }

/-- RESET_PIN (R198, R199). -/
def execResetPin (s : State) : Host.Outcome State Fault Refusal :=
  .next (resetPin s)

/-- The reset ends and the start-up hold begins, with the cause last recorded (R198, R199). The reset input is released
from then on (log 17). -/
def resetEnd (s : State) : State :=
  match s.phase with
  | .inReset cause => { s with phase := .hold cause, resetInput := false }
  | .running | .closing | .hold _ => s

/-- RESET_END (R199). -/
def execResetEnd (s : State) : Host.Outcome State Fault Refusal :=
  .next (resetEnd s)

/-! ### The end of the start-up hold (R199) -/

/-- The factory defaults of a desk (R200). -/
def factoryDesk (d : Desk) : StoredDesk :=
  { inService := true, home := 0, tone := d.code, hornHold := Config.defaultHornHold }

/-- The factory defaults (R200). -/
def factoryImage : Image :=
  { points := [], operators := [], desks := PerDesk.of factoryDesk, supervisor := none, flash := ⟨100, 50, 50, 0⟩
    schedule := Config.defaultSchedule, markMode := .strict, timeHold := false
    limits := { flood := ⟨160, 96⟩, handoverLimit := 10, dueGrace := 30, silenceTime := 10 }, clearMode := .byCommand }

/-- A desk unit after reset with its loaded configuration (R81, R155, R161); the pin levels are kept. -/
def loadDesk (c : StoredDesk) (u : DeskUnit) : DeskUnit :=
  { u with state := if c.inService then .vacant else .outOfService, home := c.home, tone := c.tone
           hornHold := c.hornHold }

/-- Step 1 and 2 of the hold's end: every setting is loaded from an image, and every block has its state after reset
(R199, R200). -/
def loadImage (image : Image) (s : State) : State :=
  { s with points := tableMap (fun _ c => newPoint c) image.points, operators := image.operators
           desks := PerDesk.of (fun d => loadDesk (image.desks.get d) (s.unit d)), supervisor := image.supervisor
           flash := image.flash, schedule := image.schedule, markMode := image.markMode, timeHold := image.timeHold
           limits := image.limits, attention := { s.attention with clearMode := image.clearMode } }

/-- The store is loaded (R200): from an image that passes its check, or from factory defaults. -/
def loadStore (s : State) : State :=
  match s.image with
  | some image => { loadImage image s with store := .valid }
  | none => { loadImage factoryImage s with store := .invalid }

/-- A contact found closed at the end of the hold is taken as a closing event (R79). -/
def senseContact (d : Desk) (k : SlotId) (contact : Contact) (s : State) : State :=
  if (s.slot d k).pins.get contact then closeContact d k contact s else s

/-- A slot senses its two contacts (R79). -/
def senseSlot (s : State) (place : Desk × SlotId) : State :=
  senseContact place.1 place.2 .c2 (senseContact place.1 place.2 .c1 s)

/-- The cause figure of a RESTART entry and of HELLO (R180, R206). -/
def ResetCause.code : ResetCause → Nat
  | .powerOn => 1 | .supplyLow => 2 | .resetPin => 3 | .resetCommand => 4

/-- The RESTART entry, then STORE_INVALID if the image was invalid (R199, R200). -/
def restartEntries (cause : ResetCause) (s : State) : State :=
  let s1 := enter { kind := .restart, d1 := some cause.code } s
  if s.store = .invalid then enter { kind := .storeInvalid } s1 else s1

/-- The HELLO frame (R199, R207). -/
def helloFrame (cause : ResetCause) (valid : Bool) : OutFrame :=
  { role := .hello, type := 240, tag := 0
    body := [byte cause.code, yesNo valid] ++ be 2 Config.identity ++ [byte Config.revision] }

/-- Each link begins to send HELLO (R199). -/
def sendHello (cause : ResetCause) (s : State) : State :=
  let f := helloFrame cause (decide (s.store = .valid))
  { s with links :=
      { s0 := { s.links.s0 with sending := some f }, s1 := { s.links.s1 with sending := some f } } }

/-- The start-up hold ends (R199): every block takes its state after reset with the settings the store loads, run
seconds starting at 0; the slots sense their contacts, the first cycle start falls, RESTART is journalled and HELLO
sent. -/
def startUp (cause : ResetCause) (s : State) : State :=
  let s1 := loadStore (resetTo .running s)
  let s2 := slotPlaces.foldl senseSlot s1
  sendHello cause (restartEntries cause (cycleStart s2))

/-- The end of the start-up hold (R199); outside the hold there is none to end (log 6). -/
def startupHoldEnd (s : State) : State :=
  match s.phase with
  | .hold cause => startUp cause s
  | .running | .closing | .inReset _ => s

/-- STARTUP_HOLD_END (R199). -/
def execStartupHoldEnd (s : State) : Host.Outcome State Fault Refusal :=
  .next (startupHoldEnd s)

end Sys2Proof.Machine
end

