-- ==== Sys2Proof/Machine/Dispatch.lean ====
section
/-! DEFINITION. Every command dispatched to its meaning, in the order of Syntax.lean. -/

namespace Sys2Proof.Machine

def exec (i : Instr) (s : State) : Host.Outcome State Fault Refusal :=
  match i with
  | .setPoint link tag body => Sys2Proof.Machine.execSetPoint link tag body s
  | .clearPoint link tag body => Sys2Proof.Machine.execClearPoint link tag body s
  | .assignArea link tag body => Sys2Proof.Machine.execAssignArea link tag body s
  | .setOperator link tag body => Sys2Proof.Machine.execSetOperator link tag body s
  | .clearOperator link tag body => Sys2Proof.Machine.execClearOperator link tag body s
  | .ack link tag body => Sys2Proof.Machine.execAck link tag body s
  | .silence link tag body => Sys2Proof.Machine.execSilence link tag body s
  | .shelve link tag body => Sys2Proof.Machine.execShelve link tag body s
  | .unshelve link tag body => Sys2Proof.Machine.execUnshelve link tag body s
  | .handoverOpen link tag body => Sys2Proof.Machine.execHandoverOpen link tag body s
  | .handoverCancel link tag body => Sys2Proof.Machine.execHandoverCancel link tag body s
  | .handoverCommit link tag body => Sys2Proof.Machine.execHandoverCommit link tag body s
  | .brief link tag body => Sys2Proof.Machine.execBrief link tag body s
  | .timeMark link tag body => Sys2Proof.Machine.execTimeMark link tag body s
  | .setSchedule link tag body => Sys2Proof.Machine.execSetSchedule link tag body s
  | .setDesk link tag body => Sys2Proof.Machine.execSetDesk link tag body s
  | .setLimits link tag body => Sys2Proof.Machine.execSetLimits link tag body s
  | .setFlash link tag body => Sys2Proof.Machine.execSetFlash link tag body s
  | .attnControl link tag body => Sys2Proof.Machine.execAttnControl link tag body s
  | .attnClear link tag body => Sys2Proof.Machine.execAttnClear link tag body s
  | .storeSave link tag body => Sys2Proof.Machine.execStoreSave link tag body s
  | .takeCommand link tag body => Sys2Proof.Machine.execTakeCommand link tag body s
  | .reset link tag body => Sys2Proof.Machine.execReset link tag body s
  | .status link tag body => Sys2Proof.Machine.execStatus link tag body s
  | .pointRead link tag body => Sys2Proof.Machine.execPointRead link tag body s
  | .listRead link tag body => Sys2Proof.Machine.execListRead link tag body s
  | .journalRead link tag body => Sys2Proof.Machine.execJournalRead link tag body s
  | .deskRead link tag body => Sys2Proof.Machine.execDeskRead link tag body s
  | .operatorRead link tag body => Sys2Proof.Machine.execOperatorRead link tag body s
  | .timeRead link tag body => Sys2Proof.Machine.execTimeRead link tag body s
  | .unacceptedTypeFrame link type tag body => Sys2Proof.Machine.execUnacceptedTypeFrame link type tag body s
  | .frameCheckFailed link => Sys2Proof.Machine.execFrameCheckFailed link s
  | .frameByteGapTimeout link => Sys2Proof.Machine.execFrameByteGapTimeout link s
  | .frameSendComplete link => Sys2Proof.Machine.execFrameSendComplete link s
  | .attention link => Sys2Proof.Machine.execAttention link s
  | .linkLost => Sys2Proof.Machine.execLinkLost s
  | .intakeFrame link bytes => Sys2Proof.Machine.execIntakeFrame link bytes s
  | .intakeTake link => Sys2Proof.Machine.execIntakeTake link s
  | .secondEvent => Sys2Proof.Machine.execSecondEvent s
  | .escalation => Sys2Proof.Machine.execEscalation s
  | .loadUpdate => Sys2Proof.Machine.execLoadUpdate s
  | .dueLate => Sys2Proof.Machine.execDueLate s
  | .minutePulse => Sys2Proof.Machine.execMinutePulse s
  | .shelfExpiry point => Sys2Proof.Machine.execShelfExpiry point s
  | .handoverTimeout desk => Sys2Proof.Machine.execHandoverTimeout desk s
  | .storeWriteComplete agrees => Sys2Proof.Machine.execStoreWriteComplete agrees s
  | .flashTick => Sys2Proof.Machine.execFlashTick s
  | .cycleStart => Sys2Proof.Machine.execCycleStart s
  | .contactClose desk slot contact => Sys2Proof.Machine.execContactClose desk slot contact s
  | .contactOpen desk slot contact => Sys2Proof.Machine.execContactOpen desk slot contact s
  | .settleEnd desk slot sense1 sense2 => Sys2Proof.Machine.execSettleEnd desk slot sense1 sense2 s
  | .readComplete desk slot record => Sys2Proof.Machine.execReadComplete desk slot record s
  | .readTimeout desk slot => Sys2Proof.Machine.execReadTimeout desk slot s
  | .ackPress desk => Sys2Proof.Machine.execAckPress desk s
  | .silencePress desk => Sys2Proof.Machine.execSilencePress desk s
  | .handPress desk => Sys2Proof.Machine.execHandPress desk s
  | .powerOn => Sys2Proof.Machine.execPowerOn s
  | .supplyLow => Sys2Proof.Machine.execSupplyLow s
  | .resetPin => Sys2Proof.Machine.execResetPin s
  | .startupHoldEnd => Sys2Proof.Machine.execStartupHoldEnd s
  | .receiverTakesByte link byte => Sys2Proof.Machine.execReceiverTakesByte link byte s
  | .resetEnd => Sys2Proof.Machine.execResetEnd s

end Sys2Proof.Machine
end

