-- ==== Sys2Proof/WellFormed.lean ====
section
/-! DEFINITION. Well-formed commands: what a sender can bring about. A frame's body has at most 120 bytes (R191), and a
frame of an unaccepted type has none of the types the part accepts (R193, R208). -/

namespace Sys2Proof

/-- The types the part accepts as requests (R208). -/
def acceptedType (type : Byte) : Bool :=
  (decide (1 ≤ type.toNat) && decide (type.toNat ≤ 23)) || (decide (32 ≤ type.toNat) && decide (type.toNat ≤ 38))

/-- Whether a body fits a frame (R191). -/
def bodyFits (body : List Byte) : Bool :=
  decide (body.length ≤ Config.maxBody)

/-- Whether a command is one that can happen. -/
def Instr.wellFormed : Instr → Bool
  | .setPoint _ _ body | .clearPoint _ _ body | .assignArea _ _ body | .setOperator _ _ body
  | .clearOperator _ _ body | .ack _ _ body | .silence _ _ body | .shelve _ _ body | .unshelve _ _ body
  | .handoverOpen _ _ body | .handoverCancel _ _ body | .handoverCommit _ _ body | .brief _ _ body
  | .timeMark _ _ body | .setSchedule _ _ body | .setDesk _ _ body | .setLimits _ _ body | .setFlash _ _ body
  | .attnControl _ _ body | .attnClear _ _ body | .storeSave _ _ body | .takeCommand _ _ body | .reset _ _ body
  | .status _ _ body | .pointRead _ _ body | .listRead _ _ body | .journalRead _ _ body | .deskRead _ _ body
  | .operatorRead _ _ body | .timeRead _ _ body => bodyFits body
  | .unacceptedTypeFrame _ type _ body => bodyFits body && !acceptedType type
  | .frameCheckFailed _ | .frameByteGapTimeout _ | .frameSendComplete _ | .attention _ | .linkLost
  | .intakeFrame _ _ | .intakeTake _ | .secondEvent | .escalation | .loadUpdate | .dueLate | .minutePulse
  | .shelfExpiry _ | .handoverTimeout _ | .storeWriteComplete _ | .flashTick | .cycleStart | .contactClose _ _ _
  | .contactOpen _ _ _ | .settleEnd _ _ _ _ | .readComplete _ _ _ | .readTimeout _ _ | .ackPress _
  | .silencePress _ | .handPress _ | .powerOn | .supplyLow | .resetPin | .startupHoldEnd | .receiverTakesByte _ _
  | .resetEnd => true

end Sys2Proof
end

