-- ==== Sys2Proof/Safety.lean ====
section
/-! DEFINITION. The laws a lawful state of the part keeps, in the terms of the spec's rules, and the words the
statements about commands are written in. -/

namespace Sys2Proof.Machine

/-! ### Laws of the state -/

/-- The images the state holds: the stored one, and the snapshot being written (R200, R201). -/
def State.images (s : State) : List Image :=
  s.image.toList ++ (match s.store with
    | .writing i => [i]
    | .valid | .invalid => [])

/-- Every sparse table is in its canonical form. -/
def State.TablesLawful (s : State) : Prop :=
  tableWf s.points = true ∧ tableWf s.operators = true ∧ tableWf s.owners = true ∧
    ∀ i ∈ s.images, tableWf i.points = true ∧ tableWf i.operators = true

/-- The retained entries number at most 2048 and carry consecutive sequence numbers up to the one before the next
(R178). -/
def State.JournalLawful (s : State) : Prop :=
  s.journal.length ≤ 2048 ∧
    s.journal.map (·.seq) =
      (List.range s.journal.length).map (fun k => s.nextSeq - BitVec.ofNat 32 (s.journal.length - k))

/-- Every arrival sum is at most 255 and every load figure at most 4095 (R54, R55, R56). -/
def State.LoadLawful (s : State) : Prop :=
  ∀ t, (s.loadOf t).w ≤ 255 ∧ (s.loadOf t).l ≤ 4095

/-- The ranges of the flash settings, Da no greater than the H of the C beside it (R146). -/
def Flash.Lawful (f : Flash) : Prop :=
  20 ≤ f.c ∧ f.c ≤ 200 ∧ 1 ≤ f.df ∧ f.df ≤ f.c ∧ 1 ≤ f.da ∧ f.da ≤ f.c / 2 ∧ f.g ≤ 15

/-- The flash settings in force, staged and stored are in their ranges, and the position is within the cycle (R145,
R146). -/
def State.FlashLawful (s : State) : Prop :=
  s.flash.Lawful ∧ (∀ f, s.staged = some f → f.Lawful) ∧ (∀ i ∈ s.images, i.flash.Lawful) ∧ s.position < s.flash.c

/-- The ranges of the limits (R59, R203). -/
def Limits.Lawful (x : Limits) : Prop :=
  16 ≤ x.flood.onAt ∧ x.flood.onAt ≤ 4095 ∧ x.flood.offAt < x.flood.onAt ∧ 1 ≤ x.handoverLimit ∧
    x.handoverLimit ≤ 30 ∧ x.dueGrace ≤ 120 ∧ 2 ≤ x.silenceTime ∧ x.silenceTime ≤ 60

/-- The limits in force, held and stored, the schedule in force and stored, and every desk's horn tone and hold are in
their ranges (R59, R161, R166, R202, R203). -/
def State.SettingsLawful (s : State) : Prop :=
  s.limits.Lawful ∧ (∀ p, s.heldFlood = some p → ({ s.limits with flood := p } : Limits).Lawful) ∧
    scheduleOk s.schedule = true ∧
    (∀ d, (s.unit d).tone ≤ 7 ∧ 1 ≤ (s.unit d).hornHold ∧ (s.unit d).hornHold ≤ 15) ∧
    ∀ i ∈ s.images, i.limits.Lawful ∧ scheduleOk i.schedule = true ∧
      ∀ d, (i.desks.get d).tone ≤ 7 ∧ 1 ≤ (i.desks.get d).hornHold ∧ (i.desks.get d).hornHold ≤ 15

/-- No desk is in HANDOVER_OPEN or HANDOVER_REVIEW while its flood flag is set (R137). -/
def State.FloodLawful (s : State) : Prop :=
  ∀ d, s.inHandover d = true → (s.loadOf (.desk d)).flood = false

/-- The laws of a point record: its ranges (R2), active in step with the state (R2), silenced only while the point
stands in a list (R6), a record-only point's effective priority 4 (R15) and its states without UNACK and RTN_UNACK (R16,
R21). -/
def Point.Lawful (p : Point) : Prop :=
  1 ≤ p.base ∧ p.base ≤ 4 ∧ p.step ≤ 120 ∧ p.repeats ≤ 255 ∧ 1 ≤ p.effective ∧ p.effective ≤ p.base ∧
    (p.silenced = true → p.standing.isSome = true) ∧ (p.unacknowledged = true → p.base ≤ 3) ∧ (p.base = 4 → p.effective = 4) ∧
    (match p.state with
      | .normal => p.active = false ∧ p.effective = p.base
      | .unack _ | .acked _ => p.active = true
      | .rtnUnack _ => p.active = false
      | .shelved _ _ => p.effective = p.base)

/-- Every point record keeps its laws, every stored record is in its ranges (R2, R17). -/
def State.PointsLawful (s : State) : Prop :=
  (∀ t p, (t, p) ∈ s.points → p.Lawful) ∧
    ∀ i ∈ s.images, ∀ t c, (t, c) ∈ i.points → 1 ≤ c.base ∧ c.base ≤ 4 ∧ c.step ≤ 120

/-- Each event link's queue holds at most 8 frames, its hold line asserted exactly while it holds 8 (R26, R27). -/
def State.IntakeLawful (s : State) : Prop :=
  ∀ l, (s.eventLink l).queue.length ≤ 8 ∧ ((s.eventLink l).holdLine = true ↔ (s.eventLink l).queue.length = 8)

/-- How many BUSY replies of fifth frames a link has unsent (R193). -/
def SupLink.busyCount (l : SupLink) : Nat :=
  (l.unsent.filter (fun f => decide (f.role = .busyReply))).length

/-- Each link holds at most four taken frames and one BUSY reply, and a link that sends nothing has nothing waiting
(R193). -/
def State.LinksLawful (s : State) : Prop :=
  ∀ l, (s.link l).taken ≤ 4 ∧ (s.link l).busyCount ≤ 1 ∧ ((s.link l).sending = none → (s.link l).waiting = [])

/-- While the reset input is asserted the part is in reset (R198). -/
def State.ResetLawful (s : State) : Prop :=
  s.resetInput = true → ∃ c, s.phase = .inReset c

/-- The horn's hold count is at most 15 (R157), and the horn sounds exactly while its owner has a standing request
(R160). -/
def State.HornLawful (s : State) : Prop :=
  s.horn.count ≤ 15 ∧ (s.horn.output.isSome = true ↔ ∃ t, s.horn.owner = some t ∧ s.horn.requests.get t = true)

/-- Every carried list holds at most 32 entries, no point twice (R119). -/
def State.CarriedLawful (s : State) : Prop :=
  ∀ d, (s.carried d).length ≤ 32 ∧ ((s.carried d).map (·.tag)).Nodup

/-- The sign-on result of a slot (R64). -/
def State.resultAt (s : State) (d : Desk) (k : SlotId) : Option SignOn :=
  (s.slot d k).state.result?

/-- Every area an area set must cover for a desk: those the desk owns (R35, R90). -/
def State.Covers (s : State) (d : Desk) (set : AreaSet) : Prop :=
  ∀ a, s.owner a = some d → inSet set a = true

/-- Every area has at most one owner, and an owning desk has a holder with that area in the permitted set (R35). -/
def State.OwnersLawful (s : State) : Prop :=
  ∀ a d, s.owner a = some d → ∃ op r, s.holderRecord d = some (op, r) ∧ inSet r.areas a = true

/-- The laws of who is signed on where, on which the law of R35 rests: a signed-on operator has a record and is signed
on in one slot (R88); HOLDER is the result of the holder slot alone (R91), INCOMING that of the other slot in
HANDOVER_REVIEW alone (R118); the outgoing operator is the holder (R118); the incoming operator is qualified for what
the desk owns (R129); a desk out of service has read no key (R64). -/
def State.SignOnsLawful (s : State) : Prop :=
  (∀ d k op, s.signedOn d k = some op → (s.operator op).isSome = true) ∧
  (∀ d k d' k' op, s.signedOn d k = some op → s.signedOn d' k' = some op → d = d' ∧ k = k') ∧
  (∀ d k, (∃ op, s.resultAt d k = some (.holder op)) ↔ (s.unit d).state.holderSlot? = some k) ∧
  (∀ d k op, s.resultAt d k = some (.incoming op) ↔
    ∃ hk h, (s.unit d).state = .handoverReview hk h op ∧ k = hk.other) ∧
  (∀ d h, (s.unit d).state.handover? = some h → s.holder d = some h.outgoing) ∧
  (∀ d hk h inc r, (s.unit d).state = .handoverReview hk h inc → s.operator inc = some r →
    r.role.atLeast .operator = true ∧ s.Covers d r.areas) ∧
  (∀ d k, (s.unit d).state = .outOfService →
    (s.slot d k).state = .empty ∨ (s.slot d k).state = .oneContact ∨ (s.slot d k).state = .unpowered)

/-- The laws of desks and areas together (R35). -/
def State.DesksLawful (s : State) : Prop :=
  tableWf s.operators = true ∧ tableWf s.owners = true ∧ s.SignOnsLawful ∧ s.OwnersLawful

/-! ### Frames on the links -/

/-- The command a well-formed frame of a type is (R193, R208). -/
def frameCommand (l : Link) (type tag : Byte) (body : List Byte) : Instr :=
  match type.toNat with
  | 1 => .setPoint l tag body
  | 2 => .clearPoint l tag body
  | 3 => .assignArea l tag body
  | 4 => .setOperator l tag body
  | 5 => .clearOperator l tag body
  | 6 => .ack l tag body
  | 7 => .silence l tag body
  | 8 => .shelve l tag body
  | 9 => .unshelve l tag body
  | 10 => .handoverOpen l tag body
  | 11 => .handoverCancel l tag body
  | 12 => .handoverCommit l tag body
  | 13 => .brief l tag body
  | 14 => .timeMark l tag body
  | 15 => .setSchedule l tag body
  | 16 => .setDesk l tag body
  | 17 => .setLimits l tag body
  | 18 => .setFlash l tag body
  | 19 => .attnControl l tag body
  | 20 => .attnClear l tag body
  | 21 => .storeSave l tag body
  | 22 => .takeCommand l tag body
  | 23 => .reset l tag body
  | 32 => .status l tag body
  | 33 => .pointRead l tag body
  | 34 => .listRead l tag body
  | 35 => .journalRead l tag body
  | 36 => .deskRead l tag body
  | 37 => .operatorRead l tag body
  | 38 => .timeRead l tag body
  | _ => .unacceptedTypeFrame l type tag body

/-- The types that are commands, but for TAKE_COMMAND (R193, R208). -/
def commandType (type : Byte) : Bool :=
  decide (1 ≤ type.toNat) && decide (type.toNat ≤ 23) && decide (type.toNat ≠ 22)

/-- The types that are queries (R193, R208). -/
def queryType (type : Byte) : Bool :=
  decide (32 ≤ type.toNat) && decide (type.toNat ≤ 38)

/-- Bytes arriving one after the other on a link. -/
def receiveAll (l : Link) : List Byte → State → Host.Outcome State Fault Refusal
  | [], s => .next s
  | b :: rest, s =>
    match exec (.receiverTakesByte l b) s with
    | .next t => receiveAll l rest t
    | .fault r => .fault r
    | .refused r => .refused r

/-- A link that can take a frame: the part runs, and fewer than four frames wait (R193). -/
def State.canTake (s : State) (l : Link) : Prop :=
  s.phase = .running ∧ (s.link l).taken < 4

/-- The silence timer restarted, if the link is the command link and the part is not in LOCAL (R197). -/
def State.timerRestarted (l : Link) (s : State) : State :=
  match s.command with
  | .latched c _ => if c = l then { s with command := .latched c (s.runSeconds + BitVec.ofNat 32 s.limits.silenceTime) } else s
  | .unlatched | .lost _ _ => s

/-- The state in which a frame taken on a link is served: the receiver hunts (R191), a link that sends nothing has
taken its opportunity to send (R187), the silence timer is restarted (R197). -/
def State.listening (l : Link) (s : State) : State :=
  (takeOpportunity l (setReceiver l .hunting s)).timerRestarted l

/-- A frame goes to a link: sent at once if the link sends nothing, else waiting in its turn (R193). -/
def State.sends (l : Link) (f : OutFrame) (s : State) : State :=
  s.putLink l (match (s.link l).sending with
    | some _ => { s.link l with waiting := (s.link l).waiting ++ [f] }
    | none => { s.link l with sending := some f })

/-- A request is answered on its link. The reply has the type 128 plus the request's type modulo 128, and the request's
tag; its body begins with the status and the reason (R207). -/
def State.replies (l : Link) (type tag status reason : Byte) (body : List Byte) (s : State) : State :=
  s.sends l { role := .reply, type := 128 + type % 128, tag := tag, body := status :: reason :: body }

/-- A part that runs with a link latched as the command link, the link able to take a frame (R193, R195). -/
def State.commands (s : State) (l : Link) : Prop :=
  s.canTake l ∧ ∃ expiry, s.command = .latched l expiry

/-- A link that can take a frame, on which the part is not waiting to leave LOCAL (R193, R197): a query there changes no
routing. -/
def State.answers (s : State) (l : Link) : Prop :=
  s.canTake l ∧ ∀ lostAt, s.command ≠ .lost l lostAt

/-- The length of a request's body (R208). -/
def requestLength (type : Byte) : Nat :=
  match type.toNat with
  | 1 => 6 | 2 => 2 | 3 => 2 | 4 => 34 | 5 => 1 | 6 => 3 | 7 => 1 | 8 => 5 | 9 => 3 | 10 => 1 | 11 => 1 | 12 => 1
  | 13 => 3 | 14 => 5 | 15 => 15 | 16 => 13 | 17 => 7 | 18 => 4 | 19 => 3 | 20 => 1 | 33 => 2 | 34 => 4 | 35 => 5
  | 36 => 2 | 37 => 1
  | _ => 0

/-- A request's body of the right length with a value that its type's rule answers BAD_FIELD (R17, R24, R25, R39, R49,
R82, R84, R91, R97, R166, R168, R185, R202, R204, R206, R208, R209). -/
def outOfRange (type : Byte) (body : List Byte) : Prop :=
  let value (off len : Nat) : Nat := field body off len
  match type.toNat with
  | 1 => 1023 < value 0 2 ∨ 63 < value 2 1 ∨ value 3 1 = 0 ∨ 4 < value 3 1 ∨ 1 < value 5 1
  | 2 | 33 => 1023 < value 0 2
  | 3 => 63 < value 0 1 ∨ (5 < value 1 1 ∧ value 1 1 ≠ 255)
  | 4 => 63 < value 0 1 ∨ value 1 3 = 0 ∨ 3 < value 5 1 ∨ 1 < value 14 1 ∨ 1 < value 17 1 ∨
      (value 14 1 = 1 ∧ value 17 1 = 1 ∧ value 18 2 < value 15 2) ∨ 1 < value 20 1 ∨
      (12 < value 21 1 ∧ value 21 1 ≠ 255) ∨
      (value 21 1 ≤ 12 ∧ ∃ j, j < value 21 1 ∧ (value (22 + j) 1 < 32 ∨ 126 < value (22 + j) 1))
  | 5 | 37 => 63 < value 0 1
  | 6 | 8 | 9 | 13 => 5 < value 0 1 ∨ 1023 < value 1 2
  | 7 | 10 | 11 | 12 => 5 < value 0 1
  | 14 => 86400 ≤ value 2 3
  | 15 => value 0 1 = 0 ∨ 4 < value 0 1 ∨ (∃ j, j < value 0 1 ∧ 86400 ≤ value (1 + 3 * j) 3) ∨
      (∃ j, j + 1 < value 0 1 ∧ value (4 + 3 * j) 3 ≤ value (1 + 3 * j) 3) ∨ 1 < value 13 1 ∨ 1 < value 14 1
  | 16 => 5 < value 0 1 ∨ 1 < value 1 1 ∨ 1 < value 2 1 ∨ 7 < value 11 1
  | 19 => 1 < value 1 1 ∨ 1 < value 2 1
  | 34 => 6 < value 0 1
  | 36 => 5 < value 0 1 ∨ 1 < value 1 1
  | _ => False

/-- What an event about desk `d` leaves beside that desk and the ownership table, when it changes no alarm itself:
`u` is the state before it with the event's own changes of other fields, and `ends` is desk `d`'s unit as the event
leaves it before routing is worked out. Routing is worked out once, over the state before the event and the state it
leaves, which is `u` with that unit, the owners as they end, and the event's entries (R37; `RoutingWorkedOut` says what
that does, to desks in handover too; the desks among themselves: log 14). So the points are as they were but for the
silenced field of those whose target has moved, a desk in no handover is as it was, and else only the journal, the
attention flags and the links differ from `u`. -/
def State.RoutedAround (d : Desk) (ends : DeskUnit) (s u t : State) : Prop :=
  (∃ journal nextSeq attention links,
    t = reroute s { u.putUnit d ends with
      owners := t.owners, journal := journal, nextSeq := nextSeq, attention := attention, links := links }) ∧
    t = { u with points := t.points, owners := t.owners, desks := t.desks, journal := t.journal, nextSeq := t.nextSeq
                 attention := t.attention, links := t.links } ∧
    (∀ e, e ≠ d → s.inHandover e = false → t.unit e = s.unit e) ∧
    ∀ x, t.point x = (s.point x).map (fun p =>
      if p.standing.isSome = true ∧ s.target p.area ≠ t.target p.area then { p with silenced := false } else p)

/-- A record that SET_OPERATOR takes (R82): a key number other than 0, days of two bytes in order, a display tag of at
most 12 printable characters. -/
def OperatorRecord.Lawful (r : OperatorRecord) : Prop :=
  r.key ≠ 0 ∧ (∀ v, r.validFrom = some v → v < 65536) ∧ (∀ v, r.validUntil = some v → v < 65536) ∧
    (∀ v w, r.validFrom = some v → r.validUntil = some w → v ≤ w) ∧
    ∀ c, r.displayTag = some c → c.length ≤ 12 ∧ ∀ b ∈ c, 32 ≤ b.toNat ∧ b.toNat ≤ 126

/-- An optional day as a SET_OPERATOR spells it (R206), with any value behind a presence byte of 0: by the model's
reading, log 37, the part looks at none there. -/
def daySpelt (v : Option Nat) (unread : Nat) : List Byte :=
  match v with
  | some n => 1 :: be 2 n
  | none => 0 :: be 2 unread

/-- A display tag as a SET_OPERATOR spells it (R206, R208), with any characters beyond its length, which are padding; and,
by the model's reading, log 37, any twelve where it is absent. -/
def displayTagSpelt (v : Option (List Byte)) (pad : List Byte) : List Byte :=
  match v with
  | some c => byte c.length :: (c ++ pad).take 12
  | none => 255 :: pad.take 12

/-- The 33 bytes of an operator record in a SET_OPERATOR (R206, R208), with any values `x`, `y` and `pad` where the part
looks at none. -/
def OperatorRecord.spelt (r : OperatorRecord) (x y : Nat) (pad : List Byte) : List Byte :=
  let role : Byte :=
    match r.role with
    | .observer => 0
    | .operator => 1
    | .senior => 2
    | .supervisor => 3
  be 3 r.key.toNat ++ [r.issue, role] ++ areaSetBytes r.areas ++ daySpelt r.validFrom x ++ daySpelt r.validUntil y ++
    [yesNo r.locked] ++ displayTagSpelt r.displayTag pad

/-! ### The kinds of journal entry -/

/-- The table of R181: each kind's code, and the attention class an entry of the kind sets by itself. SILENCE has none
here: it sets ALARM when a count is above 0 (R107). -/
def Kind.row (k : Kind) : Nat × Option AttnClass :=
  match k with
  | .restart => (1, none)
  | .badFrame => (2, some .intake) | .intakeGap => (3, some .intake) | .intakeMismatch => (4, some .intake)
  | .intakeHeld => (5, some .intake) | .provisional => (6, some .intake)
  | .state => (7, some .alarm) | .ack => (8, some .alarm) | .ackRefused => (9, some .alarm)
  | .silence => (10, none)
  | .shelve => (11, none) | .unshelve => (12, none) | .shelfExpiry => (13, none)
  | .area => (14, some .session)
  | .keyIn => (15, some .key) | .keyOut => (16, some .key) | .keyFault => (17, some .key)
  | .keyBatteryLow => (18, some .key)
  | .signOn => (19, some .session) | .signRefused => (20, some .session) | .signOff => (21, some .session)
  | .deserted => (22, some .session)
  | .handoverOpen => (23, some .handover) | .incoming => (24, some .handover) | .brief => (25, some .handover)
  | .handoverDone => (26, some .handover) | .handoverForced => (27, some .handover)
  | .handoverAbort => (28, some .handover)
  | .floodOn => (29, some .flood) | .floodOff => (30, some .flood)
  | .shiftStart => (31, some .time)
  | .dueLate => (32, some .session)
  | .timeSet => (33, some .time) | .timeStep => (34, some .time) | .timeFalse => (35, some .time)
  | .pulse => (36, some .time)
  | .linkLost => (37, some .session) | .linkBack => (38, some .session) | .takeCommand => (39, some .session)
  | .storeSaved => (40, some .store) | .storeInvalid => (41, some .store)
  | .operatorChanged => (42, some .session)

/-- A class's flag in a class set: class number `n` at place value 2^n (R184, R206). -/
def classFlag (set : ClassSet) (c : AttnClass) : Bool :=
  set.getLsbD (match c with
    | .alarm => 0 | .key => 1 | .session => 2 | .handover => 3 | .flood => 4 | .intake => 5 | .time => 6 | .store => 7)

/-! ### The ends of a sign-on -/

/-- A journal that retains an entry of a sequence number. -/
def State.records (t : State) (n : Word32) (w : Draft) : Prop :=
  ∃ e ∈ t.journal, e.seq = n ∧ e.what = w

/-- A frame `f` that passes its check is taken from the head of an event link's queue, `rest` staying behind (R27, R30): the
hold line is released, and the received number plus one is expected next; a number that differs from the expected one is
journalled with INTAKE_GAP, none being expected on an UNSYNCHRONISED link. -/
def State.frameTaken (l : EventLink) (f : SixBytes) (rest : List SixBytes) (s : State) : State :=
  let popped := s.putEventLink l { queue := rest, holdLine := false, expected := some (f.b4 + 1) }
  match (s.eventLink l).expected with
  | some e =>
    if e = f.b4 then popped
    else enter { kind := .intakeGap, d1 := some (256 * l.code + e.toNat), d2 := some f.b4.toNat } popped
  | none => popped

/-- The abort of a handover at desk `d` with a reason code (R134): the incoming operator's key becomes COMPANION,
HANDOVER_ABORT names the outgoing operator with the reason and the number of entries carried, and the desk is ATTENDED
with the outgoing key as holder. A desk in no handover is left alone. -/
def State.aborted (d : Desk) (reason : Nat) (s : State) : State :=
  let entry (h : Handover) : Draft :=
    { kind := .handoverAbort, desk := some d, op := some h.outgoing, d1 := some reason, d2 := some h.carried.length }
  match (s.unit d).state with
  | .handoverOpen k h => (enter (entry h) s).putDeskState d (.attended k)
  | .handoverReview k h inc =>
    (enter (entry h) (s.setResult d k.other (.companion inc false))).putDeskState d (.attended k)
  | .outOfService | .vacant | .attended _ => s

/-- What a desertion of desk `d` by the holder `op` in slot `k` leaves (R93, R139, R40, R38). `s` is the state before the
event, `v` that state with the event's own changes of other fields, `first` the event's first entry, `left` what is left
in the slot. After that entry an open handover is aborted with HOLDER_LEFT, then comes DESERTED. Every area of the desk
is released with its AREA entry; a companion of role OPERATOR or higher is promoted with SIGN_ON and claims the unowned
home areas in its permitted set, those just released among them, each with its AREA entry (R41), else the desk is
VACANT. -/
def State.Deserted (d : Desk) (k : SlotId) (op : OpIndex) (cause : Nat) (left : Slot) (first : Draft) (s v t : State) :
    Prop :=
  let u := enter first v
  let emptied := (u.unit d).setSlot k left
  let other := u.slot d k.other
  let promotes (o : OpIndex) (r : OperatorRecord) : Prop :=
    (∃ nq, u.resultAt d k.other = some (.companion o nq)) ∧ u.operator o = some r ∧ r.role.atLeast .operator = true
  let entry (o : Nat) : Draft :=
    { kind := .deserted, desk := some d, op := some op, d1 := some (256 * k.code + cause), d2 := some o }
  let n := if u.inHandover d then u.nextSeq + 1 else u.nextSeq
  State.RoutedAround d (t.unit d) s u t ∧
  (tableWf u.owners = true →
    t.records v.nextSeq first ∧
    (∀ h, (u.unit d).state.handover? = some h →
      t.records u.nextSeq { kind := .handoverAbort, desk := some d, op := some h.outgoing, d1 := some 6
                            d2 := some h.carried.length }) ∧
    (∀ a, u.owner a = some d → ∃ m, t.records m { kind := .area, d1 := some a.val, d2 := some d.code }) ∧
    ((∀ o r, ¬ promotes o r) →
      t.unit d = { emptied with state := .vacant, due := none } ∧ t.holder d = none ∧ t.records n (entry 255) ∧
      ∀ a, t.owner a = if u.owner a = some d then none else u.owner a) ∧
    ∀ o r, promotes o r →
      t.unit d = { emptied.setSlot k.other { other with state := other.state.setResult (.holder o) } with
        state := .attended k.other, due := none } ∧
      t.holder d = some o ∧ t.records n (entry o.val) ∧
      (∃ m, t.records m { kind := .signOn, desk := some d, op := some o, d1 := some (256 * k.other.code)
                          d2 := some 2 }) ∧
      (∀ a, u.owner a = some d ∨ u.owner a = none → t.owner a = some d →
        ∃ m, t.records m { kind := .area, desk := some d, op := some o, d1 := some a.val, d2 := some 255 }) ∧
      ∀ a, t.owner a =
        if (u.owner a = some d ∨ u.owner a = none) then
          (if inSet (u.unit d).home a = true ∧ inSet r.areas a = true then some d else none)
        else u.owner a)

/-- What a forced takeover of desk `d` leaves (R140, R14, R55), the outgoing key in slot `k`. `v` is the state before the
event with the event's own changes of other fields, `first` the event's first entry, `left` what is left in the slot.
After that entry comes HANDOVER_FORCED. The incoming operator is holder and the areas stay; each unbriefed carried point in ACKED is re-alarmed at this desk, its activation time kept, and adds its weight
to the desk's arrival sum. -/
def State.TakenOver (d : Desk) (k : SlotId) (cause : Nat) (left : Slot) (h : Handover) (inc : OpIndex) (first : Draft)
    (v t : State) : Prop :=
  let u := enter first v
  let other := u.slot d k.other
  let ld := u.loadOf (.desk d)
  let noted := h.carried.filter (fun e => !e.briefed && decide (e.standing = .acked))
  let weight (e : Carried) : Nat :=
    match u.point e.tag with
    | some p =>
      match p.state with
      | .acked _ => if p.base = 1 then 4 else if p.base = 2 then 2 else if p.base = 3 then 1 else 0
      | _ => 0
    | none => 0
  t = { u with points := t.points, desks := t.desks, load := t.load, journal := t.journal, nextSeq := t.nextSeq
               attention := t.attention, links := t.links } ∧
  t.holder d = some inc ∧
  t.unit d = { ((u.unit d).setSlot k left).setSlot k.other { other with state := other.state.setResult (.holder inc) } with
    state := .attended k.other, due := none } ∧
  (∀ e, e ≠ d → t.unit e = u.unit e) ∧
  (∀ x, x ≠ .desk d → t.loadOf x = u.loadOf x) ∧
  ((h.carried.map (·.tag)).Nodup → ld.w ≤ 255 →
    t.loadOf (.desk d) = { ld with w := min 255 (ld.w + (noted.map weight).sum) }) ∧
  (h.carried.length ≤ 32 →
    t.records v.nextSeq first ∧
    t.records u.nextSeq { kind := .handoverForced, desk := some d, op := some inc
                          d1 := some (256 * cause + h.outgoing.val), d2 := some noted.length }) ∧
  (tableWf u.points = true →
    (∀ x, (∀ e ∈ noted, e.tag ≠ x) → t.point x = u.point x) ∧
    ∀ e ∈ noted, ∀ p τ, u.point e.tag = some p → p.state = .acked τ → p.base ≤ 3 →
      t.point e.tag = some { p with
        state := .unack τ
        effective := if p.step = 0 then p.base else max 1 (p.base - (u.runSeconds - τ).toNat / 60 / p.step)
        silenced := decide (p.base = 3) && ld.flood } ∧
      (h.carried.length ≤ 32 →
        ∃ n, t.records n { kind := .state, desk := some d, tag := some e.tag, d1 := some 2, d2 := some 1 }))

/-- What a revocation of the record signed on in slot `k` of desk `d` leaves (R85, R76, R92, R124), by the result the key
had: a companion is signed off, an incoming operator leaves the handover, a holder deserts the desk or is taken over
from. The key stays PRESENT and is REFUSED with the reason. `s` is the state before the event, `v` the state with the
operator table changed, `first` the OPERATOR_CHANGED entry that comes before all else. -/
def State.Revoked (d : Desk) (k : SlotId) (i : OpIndex) (reason : KeyRefusal) (first : Draft) (s v t : State) : Prop :=
  let u := enter first v
  let left : Slot := { u.slot d k with state := (u.slot d k).state.setResult (.refused reason) }
  (∀ nq, u.resultAt d k = some (.companion i nq) →
    t = enter { kind := .signOff, desk := some d, op := some i, d1 := some (256 * k.code + 2) }
      (u.setResult d k (.refused reason))) ∧
  (∀ hk h, u.resultAt d k = some (.incoming i) → (u.unit d).state = .handoverReview hk h i →
    t = enter { kind := .incoming, desk := some d, op := some i, d1 := some (256 * k.code + 4)
                d2 := some (h.carried.filter (·.briefed)).length }
      ((u.setResult d k (.refused reason)).putDeskState d
        (.handoverOpen hk { h with carried := h.carried.map (fun e => { e with briefed := false }) }))) ∧
  (u.resultAt d k = some (.holder i) →
    ((u.unit d).state = .attended k ∨ (∃ h, (u.unit d).state = .handoverOpen k h) →
      State.Deserted d k i 2 left first s v t) ∧
    (∀ h inc, (u.unit d).state = .handoverReview k h inc → u.resultAt d k.other = some (.incoming inc) →
      State.TakenOver d k 2 left h inc first v t))

/-! ### Shift starts -/

/-- The mill time of shift start number `m`, the starts being numbered from day 0: start `m % k` of day `m / k` (R166). -/
def startMill (schedule : List Nat) (m : Nat) : MillTime :=
  { day := m / schedule.length % 65536, second := schedule.getD (m % schedule.length) 0 }

/-- The second of shift start number `m`, counted on from second 0 of day 0. -/
def startSecond (schedule : List Nat) (m : Nat) : Nat :=
  m / schedule.length * 86400 + schedule.getD (m % schedule.length) 0

/-- A forward move of `d` seconds goes onto or past start number `m`, which is later than the last fired boundary (R167,
R171). -/
def crossesStart (schedule : List Nat) (c : MillClock) (d m : Nat) : Prop :=
  c.now.position < startSecond schedule m ∧ startSecond schedule m ≤ c.now.position + d ∧
    0 < difference c.lastFired (startMill schedule m)

/-- Of the starts numbered from `a` up to `b` the last four fire, earliest first, and the others are passed over
(R171). -/
def State.startsFire (a b : Nat) (s : State) : State :=
  (List.range' (b - min 4 (b - a)) (min 4 (b - a))).foldl (fun u m => fireBoundary m u) s

/-! ### Reply layouts (R206, R208, R209) -/

/-- A POINT_READ reply (R25, R208). -/
def State.PointReadLaid (s : State) (t : Tag) (body : List Byte) : Prop :=
  body.length = 26 ∧ field body 0 2 = t.val ∧
  (s.point t = none → ∀ i, 2 ≤ i → i < 26 → field body i 1 = if i = 18 ∨ i = 24 ∨ i = 25 then 255 else 0) ∧
  ∀ p, s.point t = some p → p.Lawful →
    field body 2 1 = 1 ∧ field body 3 1 = (match p.origin with | .configured => 0 | .provisional => 1) ∧
    field body 4 1 = p.area.val ∧ field body 5 1 = p.base ∧ field body 6 1 = p.step ∧
    field body 7 1 = p.shelvable.toNat ∧ field body 8 1 = p.state.code ∧ field body 9 1 = p.active.toNat ∧
    field body 10 5 = (match p.state with
      | .unack τ | .acked τ | .rtnUnack τ => 4294967296 + τ.toNat
      | .normal | .shelved _ _ => 0) ∧
    field body 15 1 = p.effective ∧ field body 16 1 = p.silenced.toNat ∧ field body 17 1 = p.repeats ∧
    field body 18 1 = (p.lastAck.map (·.val)).getD 255 ∧
    field body 19 5 = (match p.state with | .shelved τ _ => 4294967296 + τ.toNat | _ => 0) ∧
    field body 24 1 = (match p.state with | .shelved _ op => op.val | _ => 255) ∧
    field body 25 1 = (s.target p.area).code

/-- A LIST_READ reply for the items from a start position (R49, R208). -/
def State.ListReadLaid (s : State) (t : Target) (start count : Nat) (body : List Byte) : Prop :=
  let items := s.attentionList t
  let page := (items.drop start).take count
  let standing (code : Nat) : Nat := (items.filter (fun e => decide (e.2.state.code = code))).length
  let mark (x : Tag) : Nat :=
    match t with
    | .room => 0
    | .desk d =>
      match (s.carried d).find? (fun e => decide (e.tag = x)) with
      | some e => if e.briefed then 2 else 1
      | none => 0
  body.length = 12 + 6 * page.length ∧ field body 0 1 = t.code ∧ field body 1 2 = items.length ∧
  field body 3 2 = standing 1 ∧ field body 5 2 = standing 3 ∧ field body 7 2 = standing 2 ∧
  field body 9 2 = start ∧ field body 11 1 = page.length ∧
  ∀ i x p, page[i]? = some (x, p) → p.Lawful →
    let laid (group : Nat) (τ : Word32) : Prop :=
      field body (12 + 6 * i) 2 =
        x.val + 1024 * (18 * mark x + 9 * p.silenced.toNat + 3 * (p.effective - 1) + group) ∧
      field body (14 + 6 * i) 4 = τ.toNat
    (∀ τ, p.state = .unack τ → laid 0 τ) ∧ (∀ τ, p.state = .rtnUnack τ → laid 1 τ) ∧
    (∀ τ, p.state = .acked τ → laid 2 τ)

/-- A JOURNAL_READ reply of a lawful journal with some of its entries (R182, R208). -/
def State.JournalReadLaid (s : State) (page : List Entry) (body : List Byte) : Prop :=
  body.length = 9 + 23 * page.length ∧
  field body 0 4 = (s.nextSeq - BitVec.ofNat 32 s.journal.length).toNat ∧ field body 4 4 = (s.nextSeq - 1).toNat ∧
  field body 8 1 = page.length ∧
  ∀ i e, page[i]? = some e →
    let part (off len : Nat) : Nat := field body (9 + 23 * i + off) len
    part 0 4 = e.seq.toNat ∧ part 4 4 = e.runSeconds.toNat ∧
    part 8 2 = (match e.mill with | some t => t.day % 65536 | none => 65535) ∧
    part 10 3 = (match e.mill with | some t => t.second % 16777216 | none => 16777215) ∧
    part 13 1 = e.what.kind.row.1 ∧ part 14 1 = (e.what.desk.map Desk.code).getD 255 ∧
    part 15 1 = (e.what.op.map (·.val)).getD 255 ∧ part 16 2 = (e.what.tag.map (·.val)).getD 65535 ∧
    part 18 1 = e.what.d1.isSome.toNat + 2 * e.what.d2.isSome.toNat ∧
    part 19 2 = (e.what.d1.getD 0) % 65536 ∧ part 21 2 = (e.what.d2.getD 0) % 65536

/-- The 26 bytes of a slot in a DESK_READ reply (R64, R206, R209). -/
def State.slotLaid (s : State) (d : Desk) (k : SlotId) : List Byte :=
  let sl := s.slot d k
  let contacts : Byte := byte (sl.contacts.c1.toNat + 2 * sl.contacts.c2.toNat)
  let noKey : List Byte := [0, 0, 0, 255, 255, 255, 255, 255] ++ List.replicate 12 0
  let failure (f : ReadFailure) : Byte :=
    match f with
    | .check => 1
    | .zeroKey => 2
    | .kind => 3
    | .noAnswer => 4
  let battery (b : Battery) : Byte :=
    match b with
    | .low => 1
    | .good => 2
  let result (r : SignOn) : List Byte :=
    match r with
    | .holder op => [0, 255, byte op.val]
    | .companion op false => [1, 255, byte op.val]
    | .companion op true => [1, 6, byte op.val]
    | .incoming op => [2, 255, byte op.val]
    | .refused .unknownKey => [3, 1, 255]
    | .refused .revoked => [3, 2, 255]
    | .refused .locked => [3, 3, 255]
    | .refused .expired => [3, 4, 255]
    | .refused .duplicate => [3, 5, 255]
  let displayed (r : SignOn) : List Byte :=
    match (r.op?.bind s.operator).bind (·.displayTag) with
    | some chars => byte chars.length :: (chars ++ List.replicate 12 0).take 12
    | none => 255 :: List.replicate 12 0
  match sl.state with
  | .empty => [0, contacts, 255, 255, 255, 255] ++ noKey
  | .oneContact => [1, contacts, 255, 255, 255, 255] ++ noKey
  | .unpowered => [2, contacts, 255, 255, 255, 255] ++ noKey
  | .settling => [3, contacts, 255, 255, 255, 255] ++ noKey
  | .reading b n f => [4, contacts, battery b, 255, byte n, (f.map failure).getD 255] ++ noKey
  | .present b key issue r =>
    [5, contacts, battery b, 255, 255, 255] ++ be 3 key.toNat ++ [issue] ++ result r ++ displayed r
  | .faultBattery => [6, contacts, 0, 1, 255, 255] ++ noKey
  | .faultRead f => [6, contacts, 255, 2, 255, failure f] ++ noKey

/-- Part 0 of a DESK_READ reply (R209). -/
def State.DeskReadLaid (s : State) (d : Desk) (body : List Byte) : Prop :=
  let u := s.unit d
  let ld := s.loadOf (.desk d)
  let lamp (p : Pattern) : Byte :=
    match p with
    | .off => 0
    | .steady => 1
    | .flash => 2
    | .altFirst => 3
    | .altSecond => 4
  let record (h : Handover) (incoming : Byte) : List Byte :=
    [byte h.outgoing.val, incoming] ++ be 4 h.openedAt.toNat ++ be 4 h.limitExpiry.toNat ++
      [byte h.carried.length, byte (h.carried.filter (fun e => !e.briefed)).length]
  body.length = 92 ∧ field body 0 1 = d.code ∧ field body 1 1 = 0 ∧
  field body 2 1 = (match u.state with
    | .outOfService => 0
    | .vacant => 1
    | .attended _ => 2
    | .handoverOpen _ _ => 3
    | .handoverReview _ _ _ => 4) ∧
  field body 3 1 = (match u.state with
    | .outOfService | .vacant => 255
    | .attended k | .handoverOpen k _ | .handoverReview k _ _ => k.code) ∧
  field body 4 1 = u.due.isSome.toNat ∧ field body 5 1 = (match u.due with | some m => m.late.toNat | none => 0) ∧
  field body 6 5 = (match u.due with | some m => 4294967296 + m.time.toNat | none => 0) ∧
  (tableWf s.owners = true → ∀ a, inSet (areaSetOf (slice body 11 8)) a = decide (s.owner a = some d)) ∧
  field body 19 1 = ld.w % 256 ∧ field body 20 2 = ld.l % 65536 ∧ field body 22 1 = ld.flood.toNat ∧
  slice body 23 5 = [lamp u.lamps.alarm, lamp u.lamps.ret, lamp u.lamps.hand, lamp u.lamps.key, lamp u.lamps.link] ∧
  slice body 28 26 = s.slotLaid d .a ∧ slice body 54 26 = s.slotLaid d .b ∧
  slice body 80 12 = (match u.state with
    | .handoverOpen _ h => record h 255
    | .handoverReview _ h inc => record h (byte inc.val)
    | .outOfService | .vacant | .attended _ => [255, 255] ++ List.replicate 10 0)

/-- Part 1 of a DESK_READ reply (R209). -/
def State.CarriedReadLaid (s : State) (d : Desk) (body : List Byte) : Prop :=
  let entries := s.carried d
  body.length = 4 + 2 * entries.length ∧ field body 0 1 = d.code ∧ field body 1 1 = 1 ∧
  field body 2 1 = entries.length ∧ field body 3 1 = (entries.filter (fun e => !e.briefed)).length ∧
  ∀ i e, entries[i]? = some e →
    field body (4 + 2 * i) 2 = e.tag.val + 1024 *
      ((match e.standing with | .unack => 0 | .rtnUnack => 1 | .acked => 2) + 3 * e.briefed.toNat)

/-- An OPERATOR_READ reply (R97, R208). -/
def State.OperatorReadLaid (s : State) (i : OpIndex) (body : List Byte) : Prop :=
  body.length = 38 ∧ field body 0 1 = i.val ∧
  (s.operator i = none → field body 1 1 = 0 ∧ slice body 2 33 = List.replicate 33 0 ∧ slice body 35 3 = [255, 255, 255]) ∧
  ∀ r, s.operator i = some r → r.Lawful →
    field body 1 1 = 1 ∧ field body 2 3 = r.key.toNat ∧ field body 5 1 = r.issue.toNat ∧
    field body 6 1 = (match r.role with | .observer => 0 | .operator => 1 | .senior => 2 | .supervisor => 3) ∧
    areaSetOf (slice body 7 8) = r.areas ∧
    field body 15 3 = (match r.validFrom with | some v => 65536 + v | none => 0) ∧
    field body 18 3 = (match r.validUntil with | some v => 65536 + v | none => 0) ∧
    field body 21 1 = r.locked.toNat ∧
    (r.displayTag = none → field body 22 1 = 255 ∧ slice body 23 12 = List.replicate 12 0) ∧
    (∀ c, r.displayTag = some c → field body 22 1 = c.length ∧
      slice body 23 12 = c ++ List.replicate (12 - c.length) 0) ∧
    (s.whereSignedOn i = none → slice body 35 3 = [255, 255, 255]) ∧
    ∀ d k, s.whereSignedOn i = some (d, k) → field body 35 1 = d.code ∧ field body 36 1 = k.code ∧
      field body 37 1 = (match s.resultAt d k with
        | some (.holder _) => 0
        | some (.companion _ _) => 1
        | some (.incoming _) => 2
        | some (.refused _) => 3
        | none => 255)

/-- A STATUS reply (R189, R206, R208). The earliest expiry is earliest as run seconds that wrap are put in order
(log 9). -/
def State.StatusLaid (s : State) (body : List Byte) : Prop :=
  let marked (f : Target → Bool) : Nat :=
    (allDesks.map (fun d => if f (.desk d) then 2 ^ d.code else 0)).sum + (if f .room then 64 else 0)
  let flash (off : Nat) (f : Flash) : Prop :=
    field body off 1 = f.c % 256 ∧ field body (off + 1) 1 = f.df % 256 ∧ field body (off + 2) 1 = f.da % 256 ∧
      field body (off + 3) 1 = f.g % 256
  let rank (x : Word32) : Nat := (x - s.runSeconds + 2147483648).toNat
  body.length = 106 ∧ field body 0 4 = s.runSeconds.toNat ∧
  field body 4 1 = (match s.command with | .unlatched => 255 | .latched l _ | .lost l _ => l.code) ∧
  field body 5 1 = (match s.command with | .latched _ _ => 0 | .unlatched | .lost _ _ => 1) ∧
  field body 6 1 = (match s.store with | .valid => 0 | .invalid => 1 | .writing _ => 2) ∧
  field body 7 1 = s.attention.pending.toNat ∧ field body 8 1 = s.attention.enables.toNat ∧
  field body 9 1 = s.attention.globalEnable.toNat ∧
  field body 10 1 = (match s.attention.clearMode with | .byCommand => 0 | .byStatus => 1) ∧
  (∀ a : Area, field body (11 + a.val) 1 = ((s.owner a).map Desk.code).getD 255) ∧
  field body 75 1 = marked (fun t => (s.loadOf t).flood) ∧
  field body 76 1 = (s.loadOf .room).w % 256 ∧ field body 77 2 = (s.loadOf .room).l % 65536 ∧
  field body 79 2 = s.limits.flood.onAt % 65536 ∧ field body 81 2 = s.limits.flood.offAt % 65536 ∧
  (s.heldFlood = none → slice body 83 5 = List.replicate 5 0) ∧
  (∀ p, s.heldFlood = some p →
    field body 83 1 = 1 ∧ field body 84 2 = p.onAt % 65536 ∧ field body 86 2 = p.offAt % 65536) ∧
  field body 88 1 = (s.points.filter (fun e => decide (e.2.state.code = 4))).length % 256 ∧
  ((∀ e ∈ s.points, ∀ x o, e.2.state ≠ .shelved x o) → field body 89 4 = 0) ∧
  (∀ e ∈ s.points, ∀ x o, e.2.state = .shelved x o →
    rank (BitVec.ofNat 32 (field body 89 4)) ≤ rank x ∧
      ∃ y ∈ s.points, ∃ o, y.2.state = .shelved (BitVec.ofNat 32 (field body 89 4)) o) ∧
  flash 93 s.flash ∧ (s.staged = none → slice body 97 5 = List.replicate 5 0) ∧
  (∀ f, s.staged = some f → field body 97 1 = 1 ∧ flash 98 f) ∧
  field body 102 1 = (match s.horn.owner with | some (.desk d) => d.code | some .room => 6 | none => 255) ∧
  field body 103 1 = s.horn.count % 256 ∧ field body 104 1 = s.horn.output.isSome.toNat ∧
  field body 105 1 = marked s.horn.requests.get

/-- The shelf list (R108): an entry for each point in SHELVED with its shelf fields, in order of expiry, then of tag.
That expiries are put in order as run seconds that wrap is log 9. -/
def State.ShelfListed (s : State) (entries : List (Tag × Word32 × OpIndex)) : Prop :=
  let rank (x : Word32) : Nat := (x - s.runSeconds + 2147483648).toNat
  entries.length = (s.points.filter (fun e => decide (e.2.state.code = 4))).length ∧
  (∀ t x o, (t, x, o) ∈ entries ↔ ∃ p, (t, p) ∈ s.points ∧ p.state = .shelved x o) ∧
  entries.Pairwise (fun e f => rank e.2.1 < rank f.2.1 ∨ (e.2.1 = f.2.1 ∧ e.1 ≤ f.1))

/-- A TIME_READ reply under a lawful schedule (R166, R176, R208). The current shift is that of the latest start at or
before mill time, the last of the day before when today's first is still to come; the next start that will fire is the
first after mill time that is later than the last fired boundary. -/
def State.TimeReadLaid (s : State) (body : List Byte) : Prop :=
  body.length = 36 ∧ field body 0 4 = s.runSeconds.toNat ∧ field body 17 1 = s.schedule.length ∧
  (∀ j x, s.schedule[j]? = some x → field body (18 + 3 * j) 3 = x) ∧
  (∀ j, s.schedule.length ≤ j → j < 4 → field body (18 + 3 * j) 3 = 0) ∧
  field body 30 1 = (match s.markMode with | .strict => 0 | .follow => 1) ∧ field body 31 1 = s.timeHold.toNat ∧
  (s.mill = none →
    field body 4 2 = 65535 ∧ field body 6 3 = 16777215 ∧ field body 9 2 = 65535 ∧ field body 11 1 = 255 ∧
    field body 12 2 = 65535 ∧ field body 14 3 = 16777215 ∧ field body 32 3 = 16777215 ∧ field body 35 1 = 255) ∧
  ∀ c, s.mill = some c → c.now.day < 65536 → c.now.second < 86400 → c.lastFired.day < 65536 →
    c.lastFired.second < 86400 →
    field body 4 2 = c.now.day ∧ field body 6 3 = c.now.second ∧
    field body 12 2 = c.lastFired.day ∧ field body 14 3 = c.lastFired.second ∧
    (∀ j x, s.schedule[j]? = some x → x ≤ c.now.second → (∀ y ∈ s.schedule, y ≤ c.now.second → y ≤ x) →
      field body 9 2 = c.now.day ∧ field body 11 1 = j) ∧
    ((∀ y ∈ s.schedule, c.now.second < y) →
      field body 9 2 = (c.now.day + 65535) % 65536 ∧ field body 11 1 = s.schedule.length - 1) ∧
    ∃ m, c.now.position < startSecond s.schedule m ∧ 0 < difference c.lastFired (startMill s.schedule m) ∧
      (∀ n, n < m → c.now.position < startSecond s.schedule n →
        difference c.lastFired (startMill s.schedule n) ≤ 0) ∧
      field body 32 3 = (startMill s.schedule m).second ∧ field body 35 1 = m % s.schedule.length

end Sys2Proof.Machine
end

