-- ==== Sys2Proof/Certificates/Slice0/Obligations.lean ====
section
/-! DEFINITION. The statements for the provers: what each command does, from the numbered rules of spec/, and the laws
that every command keeps. The words they share (`State.listening`, `State.replies`, `State.Deserted`, the reply layouts
and others) are Safety.lean's. -/

open Sys2Proof Sys2Proof.Machine

/-! ### The machine -/

/-- A step runs the command at the front of the queue with the queue's rest. The second clause is the model's choice,
log 5: on an empty queue the part idles. -/
def Obligations.StepRunsFront : Prop :=
  (∀ (c : Instr) (rest : List Instr) (s : State),
    step { s with pending := c :: rest } = exec c { s with pending := rest }) ∧
  ∀ s : State, s.pending = [] → step s = .next s

/-- What reset leaves of the working state (R34, R35, R54, R79, R145, R155, R157, R165, R180, R185, R191, R195), and
that the state after reset keeps every law below. The flash settings of 100, 50, 50, 0 and the clear mode BY_COMMAND
are the factory defaults; that they stand before the store is loaded is the model's choice, logs 2 and 3. -/
def Obligations.ResetState : Prop :=
  ((∀ l, State.reset.eventLink l = { queue := [], holdLine := false, expected := none }) ∧
   (∀ a, State.reset.owner a = none) ∧
   (∀ t, State.reset.loadOf t = { w := 0, l := 0, flood := false }) ∧
   (∀ d k, (State.reset.slot d k).state = .empty ∧ (State.reset.slot d k).contacts = ⟨false, false⟩) ∧
   State.reset.flash = ⟨100, 50, 50, 0⟩ ∧ State.reset.position = 0 ∧ State.reset.staged = none ∧
   (∀ d, (State.reset.unit d).lamps = ⟨.off, .off, .off, .off, .off⟩) ∧
   State.reset.horn.owner = none ∧ State.reset.horn.count = 0 ∧ State.reset.horn.output = none ∧
   State.reset.mill = none ∧ State.reset.runSeconds = 0 ∧ State.reset.journal = [] ∧ State.reset.nextSeq = 1 ∧
   State.reset.attention = { pending := 0, enables := 0xFF, globalEnable := true, clearMode := .byCommand } ∧
   (∀ l, (State.reset.link l).receiver = .hunting ∧ (State.reset.link l).notice = false) ∧
   State.reset.command = .unlatched ∧ State.reset.isLocal = true) ∧
  (State.reset.TablesLawful ∧ State.reset.JournalLawful ∧ State.reset.LoadLawful ∧ State.reset.IntakeLawful ∧
     State.reset.FlashLawful ∧ State.reset.SettingsLawful ∧ State.reset.HornLawful ∧ State.reset.FloodLawful ∧
     State.reset.CarriedLawful ∧ State.reset.LinksLawful ∧ State.reset.PointsLawful ∧ State.reset.DesksLawful ∧
     State.reset.ResetLawful)

/-! ### Laws that every command keeps -/

/-- The laws of what is stored: the tables' canonical form, the journal's sequence numbers (R178), the ranges of the load
state (R54 to R56), the intake queues and their hold lines (R26, R27), the carried lists (R119). -/
def Obligations.StepKeepsStorage : Prop :=
  ∀ s t : State, s.TablesLawful ∧ s.JournalLawful ∧ s.LoadLawful ∧ s.IntakeLawful ∧ s.CarriedLawful → step s = .next t →
    t.TablesLawful ∧ t.JournalLawful ∧ t.LoadLawful ∧ t.IntakeLawful ∧ t.CarriedLawful

/-- The ranges of the settings (R59, R146, R161, R166, R202, R203), the position in the flash cycle (R145) and the horn
(R157, R160). -/
def Obligations.StepKeepsSettings : Prop :=
  ∀ s t : State, s.FlashLawful ∧ s.SettingsLawful ∧ s.HornLawful → step s = .next t →
    t.FlashLawful ∧ t.SettingsLawful ∧ t.HornLawful

/-- No desk is in handover while its flood flag is set (R137). -/
def Obligations.StepKeepsFloodOutOfHandover : Prop :=
  ∀ s t : State, s.FloodLawful → step s = .next t → t.FloodLawful

/-- At most four taken frames and one BUSY reply wait on a link, and a link that sends nothing has nothing waiting (R193).
And while the reset input is asserted the part stays in reset, whatever comes (R198); that RESET_END stands for its
release too is the model's reading, log 17. -/
def Obligations.StepKeepsLinks : Prop :=
  (∀ s t : State, s.LinksLawful → step s = .next t → t.LinksLawful) ∧
  ∀ s t : State, s.ResetLawful → step s = .next t → t.ResetLawful

/-- The laws of the point records (R2, R6, R16, R21). -/
def Obligations.StepKeepsPoints : Prop :=
  ∀ s t : State, tableWf s.points = true → s.PointsLawful → step s = .next t → t.PointsLawful

/-- Every area has at most one owner, and an owning desk has a holder with that area in the permitted set (R35), with
the laws of sign-on on which this rests (R64, R88, R91, R118, R129). -/
def Obligations.StepKeepsOwnership : Prop :=
  ∀ s t : State, (∀ i ∈ s.images, tableWf i.operators = true) → s.DesksLawful → step s = .next t → t.DesksLawful

/-! ### Points (chapter 01) -/

/-- SET_POINT on an absent slot creates a CONFIGURED record (R18). -/
def Obligations.SetPointCreates : Prop :=
  ∀ (s : State) (l : Link) (tag : Byte) (t : Tag) (a : Area) (base step : Nat) (shelvable : Bool),
    s.commands l → 1 ≤ base → base ≤ 4 → step ≤ 255 → s.point t = none →
    exec (.setPoint l tag (be 2 t.val ++ [byte a.val, byte base, byte step, yesNo shelvable])) s =
      .next (((s.listening l).putPoint t
        { origin := .configured, area := a, base := base, step := min 120 step, shelvable := shelvable
          state := .normal, active := false, effective := base, silenced := false, repeats := 0
          lastAck := none }).replies l 1 tag 0 0 [])

/-- SET_POINT changing the base priority between values of 1 to 3, or the step, of a point of base priority 1 to 3
(R20); a step of 121 to 255 is taken as 120 (R17). -/
def Obligations.SetPointReprioritises : Prop :=
  ∀ (s : State) (l : Link) (tag : Byte) (t : Tag) (p : Point) (base sent : Nat) (shelvable : Bool),
    s.commands l → s.point t = some p → p.Lawful → p.base ≤ 3 → 1 ≤ base → base ≤ 3 → sent ≤ 255 →
    let step := min 120 sent
    (base ≠ p.base ∨ step ≠ p.step) →
    exec (.setPoint l tag (be 2 t.val ++ [byte p.area.val, byte base, byte sent, yesNo shelvable])) s =
      .next (((s.listening l).putPoint t
        { p with
          origin := .configured, base := base, step := step, shelvable := shelvable
          effective := match p.state with
            | .unack τ | .rtnUnack τ => if step = 0 then base else max 1 (base - (s.runSeconds - τ).toNat / 60 / step)
            | .acked _ => max 1 (base - (p.base - p.effective))
            | .normal | .shelved _ _ => base }).replies l 1 tag 0 0 [])

/-- SET_POINT changing the base priority to or from 4, the area being kept (R21); changing a point's area alone: a
standing point whose target changes moves, any other takes only the area (R23); and changing the priority or step and
the area at once: first what the priority and step mean for the alarm that stands, then the placing by the new area
(R19; that the STATE entry names the old area's desk, and that a record-only point in ACKED stands from then on, is the
model's reading, log 20). In each a step of 121 to 255 is taken as 120 (R17). -/
def Obligations.SetPointChanges : Prop :=
  (∀ (s : State) (l : Link) (tag : Byte) (t : Tag) (p : Point) (base sent : Nat) (shelvable : Bool),
     s.commands l → s.point t = some p → p.Lawful → 1 ≤ base → base ≤ 4 → sent ≤ 255 →
     (p.base = 4 ∨ base = 4) →
     let step := min 120 sent
     let q : Point := { p with origin := .configured, base := base, step := step, shelvable := shelvable
                               effective := base }
     let e : Draft := { kind := .state, desk := (s.target p.area).desk?, tag := some t }
     exec (.setPoint l tag (be 2 t.val ++ [byte p.area.val, byte base, byte sent, yesNo shelvable])) s = .next (
       if p.base ≤ 3 then
         match p.state with
         | .unack τ =>
           (tellTarget (s.target p.area) t none (enter { e with d1 := some 1, d2 := some 2 }
             ((s.listening l).putPoint t { q with state := .acked τ, silenced := false }))).replies l 1 tag 0 0 []
         | .rtnUnack _ =>
           (tellTarget (s.target p.area) t none (enter { e with d1 := some 3, d2 := some 0 }
             ((s.listening l).putPoint t { q with state := .normal, silenced := false }))).replies l 1 tag 0 0 []
         | .acked _ =>
           (tellTarget (s.target p.area) t none
             ((s.listening l).putPoint t { q with silenced := false })).replies l 1 tag 0 0 []
         | .normal | .shelved _ _ => ((s.listening l).putPoint t q).replies l 1 tag 0 0 []
       else ((s.listening l).putPoint t q).replies l 1 tag 0 0 [])) ∧
  (∀ (s : State) (l : Link) (tag : Byte) (t : Tag) (p : Point) (a : Area) (sent : Nat) (shelvable : Bool),
     s.commands l → s.point t = some p → p.Lawful → sent ≤ 255 → min 120 sent = p.step →
     let q : Point := { p with origin := .configured, area := a, shelvable := shelvable }
     exec (.setPoint l tag (be 2 t.val ++ [byte a.val, byte p.base, byte sent, yesNo shelvable])) s = .next (
       if p.standing.isSome = true ∧ s.target p.area ≠ s.target a then
         let left := tellTarget (s.target p.area) t none ((s.listening l).putPoint t { q with silenced := false })
         (match s.target a with
           | .desk d => takeIn d (t, { q with silenced := false }) left
           | .room => left).replies l 1 tag 0 0 []
       else ((s.listening l).putPoint t q).replies l 1 tag 0 0 [])) ∧
  (∀ (s : State) (l : Link) (tag : Byte) (t : Tag) (p : Point) (a : Area) (base sent : Nat) (shelvable : Bool),
     s.commands l → s.point t = some p → p.Lawful → 1 ≤ base → base ≤ 4 → sent ≤ 255 →
     let step := min 120 sent
     (base ≠ p.base ∨ step ≠ p.step) →
     let state : PointState :=
       if p.base ≤ 3 ∧ base = 4 then
         match p.state with
         | .unack τ => .acked τ
         | .rtnUnack _ => .normal
         | st => st
       else p.state
     let effective : Nat :=
       if p.base = 4 ∨ base = 4 then base
       else
         match p.state with
         | .unack τ | .rtnUnack τ => if step = 0 then base else max 1 (base - (s.runSeconds - τ).toNat / 60 / step)
         | .acked _ => max 1 (base - (p.base - p.effective))
         | .normal | .shelved _ _ => base
     let q : Point := { p with origin := .configured, base := base, step := step, shelvable := shelvable, state := state
                               effective := effective, silenced := decide (base ≤ 3) && p.silenced }
     let e : Draft := { kind := .state, desk := (s.target p.area).desk?, tag := some t }
     let prioritised : State :=
       let u := (s.listening l).putPoint t q
       if p.base ≤ 3 ∧ base = 4 then
         match p.state with
         | .unack _ => tellTarget (s.target p.area) t none (enter { e with d1 := some 1, d2 := some 2 } u)
         | .rtnUnack _ => tellTarget (s.target p.area) t none (enter { e with d1 := some 3, d2 := some 0 } u)
         | .acked _ => tellTarget (s.target p.area) t none u
         | .normal | .shelved _ _ => u
       else u
     exec (.setPoint l tag (be 2 t.val ++ [byte a.val, byte base, byte sent, yesNo shelvable])) s = .next (
       if q.standing.isSome = true ∧ s.target p.area ≠ s.target a then
         let moved : Point := { q with area := a, silenced := false }
         let left := tellTarget (s.target p.area) t none (prioritised.putPoint t moved)
         (match s.target a with
           | .desk d => takeIn d (t, moved) left
           | .room => left).replies l 1 tag 0 0 []
       else (prioritised.putPoint t { q with area := a }).replies l 1 tag 0 0 []))

/-- CLEAR_POINT: a record in NORMAL is removed, one in any other state refused WRONG_STATE, an absent slot answered OK
(R24). -/
def Obligations.ClearPointRemoves : Prop :=
  ∀ (s : State) (l : Link) (tag : Byte) (t : Tag), s.commands l →
    (∀ p, s.point t = some p → p.state = .normal →
      exec (.clearPoint l tag (be 2 t.val)) s =
        .next ({ s.listening l with points := tableErase s.points t }.replies l 2 tag 0 0 [])) ∧
    (∀ p, s.point t = some p → p.state ≠ .normal →
      exec (.clearPoint l tag (be 2 t.val)) s = .next ((s.listening l).replies l 2 tag 4 4 [])) ∧
    (s.point t = none → exec (.clearPoint l tag (be 2 t.val)) s = .next ((s.listening l).replies l 2 tag 0 0 []))

/-! ### Intake and routing (chapter 02) -/

/-- Intake (R26 to R31, R33). A frame divided off on an event link joins the queue, the eighth asserting the hold line; one
that has not six bytes, or finds eight queued, is discarded. The head of a queue is taken, releasing the hold line: a
failed check discards it with the sequence left as it was; past it the sequence is compared, a gap being journalled,
before a tag, a kind or an unknown tag's area out of range discards it. That a tag out of range gives the reason
whatever the kind is the model's choice, log 33. -/
def Obligations.IntakeFrames : Prop :=
  (∀ (s : State) (l : EventLink) (f : SixBytes) (bytes : List Byte), s.works = true →
     (bytes.length ≠ 6 →
       exec (.intakeFrame l bytes) s = .next (enter { kind := .badFrame, d1 := some (256 * l.code + 6) } s)) ∧
     (8 ≤ (s.eventLink l).queue.length →
       exec (.intakeFrame l (sixList f)) s = .next (enter { kind := .badFrame, d1 := some (256 * l.code + 5) } s)) ∧
     ((s.eventLink l).queue.length < 7 →
       exec (.intakeFrame l (sixList f)) s =
         .next (s.putEventLink l { s.eventLink l with queue := (s.eventLink l).queue ++ [f] })) ∧
     ((s.eventLink l).queue.length = 7 →
       exec (.intakeFrame l (sixList f)) s =
         .next (enter { kind := .intakeHeld, d1 := some (256 * l.code) }
           (s.putEventLink l { s.eventLink l with queue := (s.eventLink l).queue ++ [f], holdLine := true })))) ∧
  (∀ (s : State) (l : EventLink) (f : SixBytes) (rest : List SixBytes), s.works = true →
     (s.eventLink l).queue = f :: rest →
     let popped := s.putEventLink l { s.eventLink l with queue := rest, holdLine := false }
     let compared := compareSequence l f.b4 popped
     let bad (reason : Nat) (tag : Option Tag) : Draft :=
       { kind := .badFrame, tag := tag, d1 := some (256 * l.code + reason), d2 := some f.b4.toNat }
     let t := 256 * f.b1.toNat + f.b2.toNat
     (sumsToZero f = false →
       exec (.intakeTake l) s = .next (enter { kind := .badFrame, d1 := some (256 * l.code + 1) } popped)) ∧
     (sumsToZero f = true → 1023 < t → exec (.intakeTake l) s = .next (enter (bad 2 none) compared)) ∧
     (sumsToZero f = true → t ≤ 1023 → f.b3 ≠ 1 → f.b3 ≠ 2 →
       exec (.intakeTake l) s = .next (enter (bad 3 none) compared)) ∧
     (∀ h : t < 1024, sumsToZero f = true → (f.b3 = 1 ∨ f.b3 = 2) → s.point ⟨t, h⟩ = none → 63 < f.b0.toNat →
       exec (.intakeTake l) s = .next (enter (bad 4 (some ⟨t, h⟩)) compared))) ∧
  (∀ (s : State) (l : EventLink) (received : Byte),
     compareSequence l received s =
       (match (s.eventLink l).expected with
         | some e => if e = received then s
           else enter { kind := .intakeGap, d1 := some (256 * l.code + e.toNat), d2 := some received.toNat } s
         | none => s).putEventLink l { s.eventLink l with expected := some (received + 1) })

/-- A frame for a point of the table, in order, on an UNSYNCHRONISED link or after a gap, which is journalled first
(`State.frameTaken`: R30, R33): ACTIVE (R7, R9, R10, R15, R55), then CLEAR (R8, R10, R15). A header that differs from
a CONFIGURED point's area is journalled next with INTAKE_MISMATCH, and the configured area governs; the header is not
compared with a PROVISIONAL point's area (R32). That the STATE entry comes before the word to the desk, and so before
a HANDOVER_ABORT of CARRY_FULL that the word causes, is the model's reading, log 28. -/
def Obligations.IntakeApplied : Prop :=
  (∀ (s : State) (l : EventLink) (f : SixBytes) (rest : List SixBytes) (t : Tag) (p : Point), s.works = true →
     (s.eventLink l).queue = f :: rest → sumsToZero f = true →
     256 * f.b1.toNat + f.b2.toNat = t.val → f.b3 = 1 → s.point t = some p → p.Lawful →
     let taken := s.frameTaken l f rest
     let u := if p.origin = .configured ∧ f.b0.toNat ≠ p.area.val then
         enter { kind := .intakeMismatch, tag := some t, d1 := some (256 * l.code + f.b0.toNat), d2 := some p.area.val } taken
       else taken
     let tgt := s.target p.area
     let ld := s.loadOf tgt
     let arrived (repeats : Nat) : Point :=
       { p with active := true, state := .unack s.runSeconds, effective := p.base, repeats := repeats
                silenced := decide (p.base = 3) && ld.flood }
     let weighed := u.putLoad tgt { ld with w := min 255 (ld.w + (match p.base with | 1 => 4 | 2 => 2 | _ => 1)) }
     let change (old new : Nat) : Draft :=
       { kind := .state, desk := tgt.desk?, tag := some t, d1 := some old, d2 := some new }
     exec (.intakeTake l) s = .next (
       match p.state with
       | .normal =>
         if p.base ≤ 3 then tellTarget tgt t (some .unack) (enter (change 0 1) (weighed.putPoint t (arrived 0)))
         else tellTarget tgt t none (enter (change 0 2) ((enter { kind := .ack, tag := some t, d1 := some 0 } u).putPoint t
           { p with active := true, state := .acked s.runSeconds, repeats := 0 }))
       | .rtnUnack _ =>
         tellTarget tgt t (some .unack)
           (enter (change 3 1) (weighed.putPoint t (arrived (min 255 (p.repeats + 1)))))
       | .unack _ | .acked _ | .shelved _ _ => u.putPoint t { p with active := true })) ∧
  (∀ (s : State) (l : EventLink) (f : SixBytes) (rest : List SixBytes) (t : Tag) (p : Point), s.works = true →
     (s.eventLink l).queue = f :: rest → sumsToZero f = true →
     256 * f.b1.toNat + f.b2.toNat = t.val → f.b3 = 2 → s.point t = some p → p.Lawful →
     let taken := s.frameTaken l f rest
     let u := if p.origin = .configured ∧ f.b0.toNat ≠ p.area.val then
         enter { kind := .intakeMismatch, tag := some t, d1 := some (256 * l.code + f.b0.toNat), d2 := some p.area.val } taken
       else taken
     let tgt := s.target p.area
     let change (old new : Nat) : Draft :=
       { kind := .state, desk := tgt.desk?, tag := some t, d1 := some old, d2 := some new }
     exec (.intakeTake l) s = .next (
       match p.state with
       | .unack τ =>
         tellTarget tgt t (some .rtnUnack)
           (enter (change 1 3) (u.putPoint t { p with active := false, state := .rtnUnack τ }))
       | .acked _ =>
         tellTarget tgt t none
           (enter (change 2 0) (u.putPoint t
             { p with active := false, state := .normal, effective := p.base, silenced := false }))
       | .normal | .rtnUnack _ | .shelved _ _ => u.putPoint t { p with active := false }))

/-- A frame for an unknown tag, in order, on an UNSYNCHRONISED link or after a gap, which is journalled first
(`State.frameTaken`: R30), creates a provisional point of base priority 1 with PROVISIONAL (R4, R33): an ACTIVE frame
makes it arrive at once, a CLEAR frame leaves it in NORMAL. That the STATE entry comes before the word to the desk,
and so before a HANDOVER_ABORT of CARRY_FULL that the word causes, is the model's reading, log 28. -/
def Obligations.UnknownTagArrives : Prop :=
  ∀ (s : State) (l : EventLink) (f : SixBytes) (rest : List SixBytes) (t : Tag) (a : Area), s.works = true →
    (s.eventLink l).queue = f :: rest → sumsToZero f = true →
    256 * f.b1.toNat + f.b2.toNat = t.val → s.point t = none → f.b0.toNat = a.val →
    let taken := s.frameTaken l f rest
    let u := enter { kind := .provisional, tag := some t, d1 := some (256 * l.code + a.val) } taken
    let tgt := s.target a
    let made : Point :=
      { origin := .provisional, area := a, base := 1, step := 0, shelvable := false, state := .normal, active := false
        effective := 1, silenced := false, repeats := 0, lastAck := none }
    (f.b3 = 1 → exec (.intakeTake l) s = .next (
      tellTarget tgt t (some .unack)
        (enter { kind := .state, desk := tgt.desk?, tag := some t, d1 := some 0, d2 := some 1 }
          ((u.putLoad tgt { s.loadOf tgt with w := min 255 ((s.loadOf tgt).w + 4) }).putPoint t
            { made with state := .unack s.runSeconds, active := true })))) ∧
    (f.b3 = 2 → exec (.intakeTake l) s = .next (u.putPoint t made))

/-- The routing target of an area: its owner; else the supervisor desk if that has a holder; else, in LOCAL, the
lowest-numbered desk with a holder; else the room. Which desks have a holder (R36). -/
def Obligations.RoutingTarget : Prop :=
  (∀ (s : State) (d : Desk), s.hasHolder d = true ↔
    (∃ k, (s.unit d).state = .attended k) ∨ (∃ k h, (s.unit d).state = .handoverOpen k h) ∨
      ∃ k h inc, (s.unit d).state = .handoverReview k h inc) ∧
  ∀ (s : State) (a : Area),
    (∀ d, s.owner a = some d → s.target a = .desk d) ∧
    (s.owner a = none →
      (∀ d, s.supervisor = some d → s.hasHolder d = true → s.target a = .desk d) ∧
      ((∀ d, s.supervisor = some d → s.hasHolder d = false) →
        (∀ d, s.isLocal = true → s.hasHolder d = true → (∀ e : Desk, e.code < d.code → s.hasHolder e = false) →
          s.target a = .desk d) ∧
        (s.isLocal = false ∨ (∀ d, s.hasHolder d = false) → s.target a = .room)))

/-- The working out of routing over the state before an event and the state it leaves (R37): a standing point whose
target has changed has its silenced field cleared and leaves the carried list of its old target; a desk in handover
takes in the points that move to it, in list order, if they stand in UNACK or RTN_UNACK or in ACKED at effective
priority 1 (R121): each gets an entry at the end with its state and the mark no (R126), the entries of other points
standing as they were. A 33rd entry aborts the handover with CARRY_FULL in its place. An entry that a point moving in
already has, which R37 and R127 exclude, is re-marked where it stands (log 24). Nothing else of the points and no
other field changes but the journal, the attention flags and the links, and nothing at all where no target has
changed. -/
def Obligations.RoutingWorkedOut : Prop :=
  ∀ before after : State, tableWf after.points = true →
    (∀ t, (reroute before after).point t = (after.point t).map (fun p =>
      if p.standing.isSome = true ∧ before.target p.area ≠ after.target p.area then { p with silenced := false }
      else p)) ∧
    (reroute before after).load = after.load ∧ (reroute before after).owners = after.owners ∧
    (∀ d, after.inHandover d = false → (reroute before after).unit d = after.unit d) ∧
    (∀ d t p, after.point t = some p → p.standing.isSome = true → before.target p.area = .desk d →
      after.target p.area ≠ .desk d → ∀ e ∈ (reroute before after).carried d, e.tag ≠ t) ∧
    (∀ d t p st, after.point t = some p → p.standing = some st → before.target p.area ≠ .desk d →
      after.target p.area = .desk d → (st ≠ .acked ∨ p.effective = 1) →
      (reroute before after).inHandover d = true → ∃ e ∈ (reroute before after).carried d, e.tag = t) ∧
    (let r := reroute before after
     r = { after with points := r.points, desks := r.desks, journal := r.journal, nextSeq := r.nextSeq
                      attention := r.attention, links := r.links }) ∧
    (∀ d h, (after.unit d).state.handover? = some h →
      let kept := h.carried.filter (fun e =>
        !after.points.any (fun x => decide (x.1 = e.tag) && x.2.standing.isSome &&
          decide (before.target x.2.area = .desk d) && decide (after.target x.2.area ≠ .desk d)))
      let coming : List Carried := (after.attentionList (.desk d)).filterMap (fun x =>
        match x.2.standing with
        | some st => if before.target x.2.area ≠ .desk d ∧ (st ≠ .acked ∨ x.2.effective = 1) then
            some { tag := x.1, standing := st, briefed := false } else none
        | none => none)
      let marked := kept.map (fun e => (coming.find? (fun c => decide (c.tag = e.tag))).getD e)
      let new := coming.filter (fun c => !kept.any (fun e => decide (e.tag = c.tag)))
      ((new = [] ∨ kept.length + new.length ≤ 32) →
        (reroute before after).unit d = { after.unit d with
          state := (after.unit d).state.mapHandover (fun x => { x with carried := marked ++ new }) }) ∧
      (new ≠ [] → 32 < kept.length + new.length →
        (reroute before after).unit d = (after.aborted d 4).unit d ∧
        ∃ n, (reroute before after).records n { kind := .handoverAbort, desk := some d, op := some h.outgoing
                                                d1 := some 4, d2 := some (max 32 kept.length) })) ∧
    ((∀ a, before.target a = after.target a) → reroute before after = after)

/-- ASSIGN_AREA (R39, R41): the tests in order, the change of owner with its AREA entry, and nothing where the owner is
already the one named. -/
def Obligations.AssignArea : Prop :=
  ∀ (s : State) (l : Link) (tag : Byte) (a : Area), s.commands l →
    (∀ d, s.owner a = some d → s.inHandover d = true →
      ∀ x : Option Desk, exec (.assignArea l tag [byte a.val, optDesk x]) s =
        .next ((s.listening l).replies l 3 tag 4 9 [])) ∧
    (∀ d, s.inHandover d = true →
      exec (.assignArea l tag [byte a.val, byte d.code]) s = .next ((s.listening l).replies l 3 tag 4 9 [])) ∧
    ((∀ e, s.owner a = some e → s.inHandover e = false) →
      (s.owner a = none → exec (.assignArea l tag [byte a.val, 255]) s = .next ((s.listening l).replies l 3 tag 0 0 [])) ∧
      (∀ e, s.owner a = some e →
        exec (.assignArea l tag [byte a.val, 255]) s =
          .next ((reroute s (enter { kind := .area, d1 := some a.val, d2 := some e.code }
            ((s.listening l).setOwner a none))).replies l 3 tag 0 0 [])) ∧
      (∀ d, s.inHandover d = false →
        (s.holderRecord d = none →
          exec (.assignArea l tag [byte a.val, byte d.code]) s = .next ((s.listening l).replies l 3 tag 4 3 [])) ∧
        (∀ op r, s.holderRecord d = some (op, r) →
          (inSet r.areas a = false →
            exec (.assignArea l tag [byte a.val, byte d.code]) s = .next ((s.listening l).replies l 3 tag 4 1 [])) ∧
          (inSet r.areas a = true → s.owner a = some d →
            exec (.assignArea l tag [byte a.val, byte d.code]) s = .next ((s.listening l).replies l 3 tag 0 0 [])) ∧
          (inSet r.areas a = true → s.owner a ≠ some d →
            exec (.assignArea l tag [byte a.val, byte d.code]) s =
              .next ((reroute s (enter { kind := .area, desk := some d, op := some op, d1 := some a.val
                                         d2 := some (((s.owner a).map Desk.code).getD 255) }
                ((s.listening l).setOwner a (some d)))).replies l 3 tag 0 0 [])))))

/-! ### Lists, escalation and load (chapter 03) -/

/-- An attention list holds the standing points of its target and is in the order of R45: group, effective priority,
activation time, tag. That activation times are compared modulo 2^32 is the model's reading, log 9. -/
def Obligations.AttentionListOrdered : Prop :=
  ∀ (s : State) (t : Target),
    (s.attentionList t).Perm (s.points.filter (fun e => e.2.standing.isSome && decide (s.target e.2.area = t))) ∧
    (s.attentionList t).Pairwise (fun x y =>
      x.2.group < y.2.group ∨ (x.2.group = y.2.group ∧
        (x.2.effective < y.2.effective ∨ (x.2.effective = y.2.effective ∧
          (y.2.age s.runSeconds < x.2.age s.runSeconds ∨
            (x.2.age s.runSeconds = y.2.age s.runSeconds ∧ x.1 ≤ y.1))))))

/-- The alarm engine's work at a minute tick (R51, R52); that a tick is worked once is the model's mark, log 6. -/
def Obligations.EscalationTick : Prop :=
  ∀ s : State, s.works = true →
    (s.tick.escalation = true →
      exec .escalation s = .next { s with
        tick := { s.tick with escalation := false }
        points := tableMap (fun _ p =>
          if p.base ≤ 3 then
            match p.state with
            | .unack τ | .rtnUnack τ =>
              { p with effective := if p.step = 0 then p.base
                                    else max 1 (p.base - (s.runSeconds - τ).toNat / 60 / p.step) }
            | .normal | .acked _ | .shelved _ _ => p
          else p) s.points }) ∧
    (s.tick.escalation = false → exec .escalation s = .next s)

/-- The load monitor's work at a minute tick (R56, R58, R59, R61): every target's figure and flag against the thresholds in
force, a held pair coming into force first; FLOOD_ON or FLOOD_OFF for each target whose flag changes, with the new
figure and the threshold crossed; a desk whose flag is set leaving handover with HANDOVER_ABORT of reason 3 right after
its FLOOD_ON (R134, R137); no other entry. And the same of the update of one target. That a tick is worked once is the
model's mark, log 6. -/
def Obligations.LoadTick : Prop :=
  (∀ s : State, s.works = true → s.tick.load = true → ∃ t, exec .loadUpdate s = .next t ∧
     (∀ u, t.loadOf u =
       let l := min 4095 ((s.loadOf u).l - (s.loadOf u).l / 8 + 2 * (s.loadOf u).w)
       let pair := s.heldFlood.getD s.limits.flood
       { w := 0, l := l
         flood := if (s.loadOf u).flood then decide (pair.offAt < l) else decide (pair.onAt ≤ l) }) ∧
     t.limits = { s.limits with flood := s.heldFlood.getD s.limits.flood } ∧ t.heldFlood = none ∧
     t.tick = { s.tick with load := false } ∧
     t = { s with load := t.load, limits := t.limits, heldFlood := none, tick := t.tick, desks := t.desks
                  journal := t.journal, nextSeq := t.nextSeq, attention := t.attention, links := t.links } ∧
     (∀ d, t.unit d = if (s.loadOf (.desk d)).flood = false ∧ (t.loadOf (.desk d)).flood = true then
         (match (s.unit d).state with
           | .handoverOpen k _ => { s.unit d with state := .attended k }
           | .handoverReview k _ inc =>
             { (s.unit d).setSlot k.other { s.slot d k.other with
                 state := (s.slot d k.other).state.setResult (.companion inc false) } with state := .attended k }
           | _ => s.unit d)
       else s.unit d) ∧
     (∀ u, (s.loadOf u).flood = true → (t.loadOf u).flood = false →
       ∃ n, t.records n { kind := .floodOff, desk := u.desk?, d1 := some (t.loadOf u).l
                          d2 := some (s.heldFlood.getD s.limits.flood).offAt }) ∧
     (∀ u, (s.loadOf u).flood = false → (t.loadOf u).flood = true →
       ∃ n, t.records n { kind := .floodOn, desk := u.desk?, d1 := some (t.loadOf u).l
                          d2 := some (s.heldFlood.getD s.limits.flood).onAt } ∧
         ∀ d h, u = .desk d → (s.unit d).state.handover? = some h →
           t.records (n + 1) { kind := .handoverAbort, desk := some d, op := some h.outgoing, d1 := some 3
                               d2 := some h.carried.length }) ∧
     t.nextSeq = s.nextSeq + BitVec.ofNat 32
       ((allTargets.filter (fun u => (s.loadOf u).flood != (t.loadOf u).flood)).length +
        (allDesks.filter (fun d => s.inHandover d && !(s.loadOf (.desk d)).flood && (t.loadOf (.desk d)).flood)).length)) ∧
  (∀ (s : State) (t : Target),
     let ld := s.loadOf t
     let l := min 4095 (ld.l - ld.l / 8 + 2 * ld.w)
     (ld.flood = false → l < s.limits.flood.onAt → updateLoad t s = s.putLoad t { w := 0, l := l, flood := false }) ∧
     (ld.flood = true → s.limits.flood.offAt < l → updateLoad t s = s.putLoad t { w := 0, l := l, flood := true }) ∧
     (ld.flood = true → l ≤ s.limits.flood.offAt →
       updateLoad t s = enter { kind := .floodOff, desk := t.desk?, d1 := some l, d2 := some s.limits.flood.offAt }
         (s.putLoad t { w := 0, l := l, flood := false })) ∧
     (ld.flood = false → s.limits.flood.onAt ≤ l →
       let set := enter { kind := .floodOn, desk := t.desk?, d1 := some l, d2 := some s.limits.flood.onAt }
         (s.putLoad t { w := 0, l := l, flood := true })
       updateLoad t s = (match t with
         | .desk d => set.aborted d 3
         | .room => set)))

/-! ### Key slots and sign-on (chapters 04 and 05) -/

/-- A contact closes (R65, R66): the first takes the slot to PARTIAL, the second to SETTLING, or to UNPOWERED at a desk out
of service; the pin moves whatever the part is doing, and it alone where the part does not work or the contact is
already sensed there (log 4). A contact opens at a slot whose key is not the holder's
nor the incoming operator's (R65 to R68, R72, R75, R77, R92): PARTIAL becomes EMPTY, any other seated state PARTIAL,
with KEY_OUT from READING, PRESENT and FAULT, and SIGN_OFF for a companion. -/
def Obligations.ContactsMove : Prop :=
  (∀ (s : State) (d : Desk) (k : SlotId) (c : Contact),
     let sl := s.slot d k
     (s.works = true → sl.contacts.get c = false →
       exec (.contactClose d k c) s = .next (s.putSlot d k {
         pins := sl.pins.set c true
         contacts := sl.contacts.set c true
         state := match sl.state with
           | .empty => .oneContact
           | .oneContact => if (s.unit d).state = .outOfService then .unpowered else .settling
           | st => st })) ∧
     (s.works = false ∨ sl.contacts.get c = true →
       exec (.contactClose d k c) s = .next (s.putSlot d k { sl with pins := sl.pins.set c true })) ∧
     (s.works = false ∨ sl.contacts.get c = false →
       exec (.contactOpen d k c) s = .next (s.putSlot d k { sl with pins := sl.pins.set c false }))) ∧
  (∀ (s : State) (d : Desk) (k : SlotId) (c : Contact), s.works = true → (s.slot d k).contacts.get c = true →
     (∀ op, s.resultAt d k ≠ some (.holder op)) → (∀ op, s.resultAt d k ≠ some (.incoming op)) →
     let sl := s.slot d k
     let moved (st : SlotState) : State :=
       s.putSlot d k { pins := sl.pins.set c false, contacts := sl.contacts.set c false, state := st }
     let out (n : Nat) (op : Option OpIndex) (result : Option Nat) : Draft :=
       { kind := .keyOut, desk := some d, op := op, d1 := some (256 * k.code + n), d2 := result }
     exec (.contactOpen d k c) s = .next (
       match sl.state with
       | .empty | .oneContact => moved .empty
       | .unpowered | .settling => moved .oneContact
       | .reading _ _ _ => enter (out 1 none none) (moved .oneContact)
       | .faultBattery | .faultRead _ => enter (out 3 none none) (moved .oneContact)
       | .present _ _ _ (.companion op _) =>
         enter { kind := .signOff, desk := some d, op := some op, d1 := some (256 * k.code + 1) }
           (enter (out 2 (some op) (some 1)) (moved .oneContact))
       | .present _ _ _ _ => enter (out 2 none (some 3)) (moved .oneContact)))

/-- The holder's key is drawn in ATTENDED, and the outgoing key in HANDOVER_OPEN (R93, R139, R40, R38): KEY_OUT, the
abort of an open handover with HOLDER_LEFT, DESERTED with cause 1, and every area released; a companion of role OPERATOR
or higher is promoted and claims its home areas, each with its AREA entry (R41), else the desk is VACANT
(`State.Deserted`). Routing is worked out once at the end (`State.RoutedAround`; the desks among themselves: log 14). -/
def Obligations.DesertionByRemoval : Prop :=
  ∀ (s : State) (d : Desk) (k : SlotId) (c : Contact) (op : OpIndex), s.works = true →
    (s.slot d k).contacts.get c = true → s.resultAt d k = some (.holder op) →
    ((s.unit d).state = .attended k ∨ ∃ h, (s.unit d).state = .handoverOpen k h) →
    let sl := s.slot d k
    let left : Slot := { pins := sl.pins.set c false, contacts := sl.contacts.set c false, state := .oneContact }
    ∃ t, exec (.contactOpen d k c) s = .next t ∧ State.Deserted d k op 1 left
      { kind := .keyOut, desk := some d, op := some op, d1 := some (256 * k.code + 2), d2 := some 0 } s s t

/-- A key is drawn in HANDOVER_REVIEW. The outgoing key: KEY_OUT and a forced takeover with cause 1 (R140, R14, R55), the incoming
operator being holder, the areas staying, every unbriefed carried point in ACKED being re-alarmed at this desk with its
activation time kept (`State.TakenOver`). The incoming key (R124): the desk goes back to HANDOVER_OPEN with every mark
cleared. -/
def Obligations.HandoverKeysDrawn : Prop :=
  (∀ (s : State) (d : Desk) (k : SlotId) (c : Contact) (op inc : OpIndex) (h : Handover), s.works = true →
     (s.slot d k).contacts.get c = true → s.resultAt d k = some (.holder op) →
     (s.unit d).state = .handoverReview k h inc → s.resultAt d k.other = some (.incoming inc) →
     let sl := s.slot d k
     let left : Slot := { pins := sl.pins.set c false, contacts := sl.contacts.set c false, state := .oneContact }
     ∃ t, exec (.contactOpen d k c) s = .next t ∧ State.TakenOver d k 1 left h inc
       { kind := .keyOut, desk := some d, op := some op, d1 := some (256 * k.code + 2), d2 := some 0 } s t) ∧
  (∀ (s : State) (d : Desk) (k : SlotId) (c : Contact) (inc : OpIndex) (h : Handover), s.works = true →
     (s.slot d k.other).contacts.get c = true → s.resultAt d k.other = some (.incoming inc) →
     (s.unit d).state = .handoverReview k h inc →
     let sl := s.slot d k.other
     exec (.contactOpen d k.other c) s = .next (
       enter { kind := .incoming, desk := some d, op := some inc, d1 := some (256 * k.other.code + 3)
               d2 := some (h.carried.filter (·.briefed)).length }
         ((enter { kind := .keyOut, desk := some d, op := some inc, d1 := some (256 * k.other.code + 2), d2 := some 2 }
           (s.putSlot d k.other { pins := sl.pins.set c false, contacts := sl.contacts.set c false
                                  state := .oneContact })).putDeskState d
             (.handoverOpen k { h with carried := h.carried.map (fun e => { e with briefed := false }) }))))

/-- The settle timer runs out and the battery is sampled: DEAD, LOW or GOOD (R69, R77). A read attempt that fails (R70 to
R72): the cause is the first test the record fails, or NO_ANSWER; a first or second attempt is followed by the next, the
third leaves FAULT(READ); with no attempt in flight nothing changes. The sum of a record's six bytes, its key number and
what a valid record is (R71, R205). -/
def Obligations.KeyRead : Prop :=
  (∀ (s : State) (d : Desk) (k : SlotId) (sense2 : Bool), s.works = true → (s.slot d k).state = .settling →
     exec (.settleEnd d k false sense2) s =
       .next (enter { kind := .keyFault, desk := some d, d1 := some (256 * k.code + 1) }
         (s.putSlotState d k .faultBattery)) ∧
     exec (.settleEnd d k true false) s =
       .next (enter { kind := .keyBatteryLow, desk := some d, d1 := some (256 * k.code) }
         (s.putSlotState d k (.reading .low 1 none))) ∧
     exec (.settleEnd d k true true) s = .next (s.putSlotState d k (.reading .good 1 none))) ∧
  (∀ (s : State) (d : Desk) (k : SlotId) (record : SixBytes), s.works = true →
     let failed (bat : Battery) (n : Nat) (cause : ReadFailure) (code : Nat) : State :=
       if n < 3 then s.putSlotState d k (.reading bat (n + 1) (some cause))
       else enter { kind := .keyFault, desk := some d, d1 := some (256 * k.code + 2), d2 := some code }
         (s.putSlotState d k (.faultRead cause))
     let keyZero := record.b0 = 0 ∧ record.b1 = 0 ∧ record.b2 = 0
     (∀ bat n last, (s.slot d k).state = .reading bat n last →
       (sumsToZero record = false → exec (.readComplete d k record) s = .next (failed bat n .check 1)) ∧
       (sumsToZero record = true → keyZero → exec (.readComplete d k record) s = .next (failed bat n .zeroKey 2)) ∧
       (sumsToZero record = true → ¬ keyZero → record.b4 ≠ 1 →
         exec (.readComplete d k record) s = .next (failed bat n .kind 3)) ∧
       exec (.readTimeout d k) s = .next (failed bat n .noAnswer 4)) ∧
     ((∀ bat n last, (s.slot d k).state ≠ .reading bat n last) →
       exec (.readComplete d k record) s = .next s ∧ exec (.readTimeout d k) s = .next s)) ∧
  ∀ record : SixBytes,
    (sumsToZero record = true ↔ (record.b0.toNat + record.b1.toNat + record.b2.toNat + record.b3.toNat +
      record.b4.toNat + record.b5.toNat) % 256 = 0) ∧
    (recordKey record).toNat = 65536 * record.b0.toNat + 256 * record.b1.toNat + record.b2.toNat ∧
    (judgeRecord record = none ↔ sumsToZero record = true ∧
      ¬ (record.b0 = 0 ∧ record.b1 = 0 ∧ record.b2 = 0) ∧ record.b4 = 1)

/-- The sign-on check of a valid record (R71, R73, R88): refused with the first reason that applies, the slot PRESENT and
REFUSED; or accepted beside a holder (R89, R123): a companion at an ATTENDED desk, or as OBSERVER at a VACANT one; at a
desk in HANDOVER_OPEN the incoming operator if it qualifies, else a companion NOT_QUALIFIED. And what the tests are: the
validity window in plain day numbers, passed while mill time is UNSET (R88, R175); the incoming qualification (R90); the
roles in order (R80); the record of a key number; who is signed on where, and who is holder (R88, R91). -/
def Obligations.SignOnDecided : Prop :=
  (∀ (s : State) (d : Desk) (k : SlotId) (record : SixBytes) (bat : Battery) (n : Nat) (last : Option ReadFailure),
     s.works = true → (s.slot d k).state = .reading bat n last → judgeRecord record = none →
     let key := recordKey record
     let refused (op : Option OpIndex) (reason : KeyRefusal) (code : Nat) : State :=
       enter { kind := .signRefused, desk := some d, op := op, d1 := some (256 * k.code + code) }
         ((enter { kind := .keyIn, desk := some d, d1 := some (256 * k.code + key.toNat / 65536)
                   d2 := some (key.toNat % 65536) } s).putSlotState d k (.present bat key record.b3 (.refused reason)))
     (s.keyRecord key = none → exec (.readComplete d k record) s = .next (refused none .unknownKey 1)) ∧
     (∀ op r, s.keyRecord key = some (op, r) →
       (r.issue ≠ record.b3 → exec (.readComplete d k record) s = .next (refused (some op) .revoked 2)) ∧
       (r.issue = record.b3 → r.locked = true →
         exec (.readComplete d k record) s = .next (refused (some op) .locked 3)) ∧
       (r.issue = record.b3 → r.locked = false → s.windowPassed r = false →
         exec (.readComplete d k record) s = .next (refused (some op) .expired 4)) ∧
       (r.issue = record.b3 → r.locked = false → s.windowPassed r = true → (s.whereSignedOn op).isSome = true →
         exec (.readComplete d k record) s = .next (refused (some op) .duplicate 5)))) ∧
  (∀ (s : State) (d : Desk) (k : SlotId) (record : SixBytes) (bat : Battery) (n : Nat) (last : Option ReadFailure)
     (op : OpIndex) (r : OperatorRecord),
     s.works = true → (s.slot d k).state = .reading bat n last → judgeRecord record = none →
     s.keyRecord (recordKey record) = some (op, r) → r.issue = record.b3 → r.locked = false →
     s.windowPassed r = true → s.whereSignedOn op = none →
     let key := recordKey record
     let seated (result : SignOn) : State :=
       (enter { kind := .keyIn, desk := some d, d1 := some (256 * k.code + key.toNat / 65536)
                d2 := some (key.toNat % 65536) } s).putSlotState d k (.present bat key record.b3 result)
     let entry (result d2 : Nat) : Draft :=
       { kind := .signOn, desk := some d, op := some op, d1 := some (256 * k.code + result), d2 := some d2 }
     ((∃ hk, (s.unit d).state = .attended hk) ∨ ((s.unit d).state = .vacant ∧ r.role = .observer) →
       exec (.readComplete d k record) s = .next (enter (entry 1 0) (seated (.companion op false)))) ∧
     (∀ hk h, (s.unit d).state = .handoverOpen hk h → s.qualifies d r = false →
       exec (.readComplete d k record) s = .next (enter (entry 1 1) (seated (.companion op true)))) ∧
     (∀ hk h, (s.unit d).state = .handoverOpen hk h → s.qualifies d r = true →
       exec (.readComplete d k record) s =
         .next (enter { kind := .incoming, desk := some d, op := some op, d1 := some (256 * k.code + 1)
                        d2 := some h.carried.length }
           (enter (entry 2 0) ((seated (.incoming op)).putDeskState d (.handoverReview hk h op)))))) ∧
  (∀ (s : State) (r : OperatorRecord),
     let window := ∀ c, s.mill = some c →
       (∀ v, r.validFrom = some v → v ≤ c.now.day) ∧ ∀ v, r.validUntil = some v → c.now.day ≤ v
     (s.windowPassed r = true ↔ window) ∧
     (r.role.atLeast .operator = true ↔ r.role = .operator ∨ r.role = .senior ∨ r.role = .supervisor) ∧
     (r.role.atLeast .senior = true ↔ r.role = .senior ∨ r.role = .supervisor) ∧
     (tableWf s.owners = true → ∀ d, (s.qualifies d r = true ↔
       r.role ≠ .observer ∧ (∀ a, s.owner a = some d → inSet r.areas a = true) ∧ window))) ∧
  (∀ (s : State), tableWf s.operators = true → ∀ key,
     (∀ op r, s.keyRecord key = some (op, r) → s.operator op = some r ∧ r.key = key) ∧
     (s.keyRecord key = none ↔ ∀ op r, s.operator op = some r → r.key ≠ key)) ∧
  ∀ (s : State) (op : OpIndex),
    (∀ d k, s.signedOn d k = some op ↔ s.resultAt d k = some (.holder op) ∨
      s.resultAt d k = some (.companion op false) ∨ s.resultAt d k = some (.companion op true) ∨
      s.resultAt d k = some (.incoming op)) ∧
    (∀ d k, s.whereSignedOn op = some (d, k) → s.signedOn d k = some op) ∧
    (s.whereSignedOn op = none ↔ ∀ d k, s.signedOn d k ≠ some op) ∧
    (∀ d, s.holder d = some op ↔ ∃ k, s.resultAt d k = some (.holder op) ∧
      ((s.unit d).state = .attended k ∨ (∃ h, (s.unit d).state = .handoverOpen k h) ∨
        ∃ h inc, (s.unit d).state = .handoverReview k h inc)) ∧
    ∀ d r, s.holderRecord d = some (op, r) ↔ s.holder d = some op ∧ s.operator op = some r

/-- An accepted key of role OPERATOR or higher at a VACANT desk (R73, R89, R38): KEY_IN and SIGN_ON, the desk is ATTENDED
with that holder, DUE is cleared, and the unowned home areas in the permitted set are claimed, each with its AREA entry,
every other owner being kept. Routing is worked out once at the end (`State.RoutedAround`; the desks among themselves:
log 14). -/
def Obligations.SignOnGainsHolder : Prop :=
  ∀ (s : State) (d : Desk) (k : SlotId) (record : SixBytes) (bat : Battery) (n : Nat) (last : Option ReadFailure)
    (op : OpIndex) (r : OperatorRecord),
    s.works = true → (s.slot d k).state = .reading bat n last → judgeRecord record = none →
    s.keyRecord (recordKey record) = some (op, r) → r.issue = record.b3 → r.locked = false →
    s.windowPassed r = true → s.whereSignedOn op = none → (s.unit d).state = .vacant →
    r.role.atLeast .operator = true → tableWf s.owners = true →
    ∃ t, exec (.readComplete d k record) s = .next t ∧ State.RoutedAround d (t.unit d) s s t ∧
      t.unit d = { (s.unit d).setSlot k { s.slot d k with
        state := .present bat (recordKey record) record.b3 (.holder op) } with state := .attended k, due := none } ∧
      t.holder d = some op ∧
      t.records s.nextSeq { kind := .keyIn, desk := some d
                            d1 := some (256 * k.code + (recordKey record).toNat / 65536)
                            d2 := some ((recordKey record).toNat % 65536) } ∧
      t.records (s.nextSeq + 1) { kind := .signOn, desk := some d, op := some op, d1 := some (256 * k.code)
                                  d2 := some 0 } ∧
      (∀ a, s.owner a = none → t.owner a = some d →
        ∃ m, t.records m { kind := .area, desk := some d, op := some op, d1 := some a.val, d2 := some 255 }) ∧
      ∀ a, t.owner a =
        if s.owner a = none ∧ inSet (s.unit d).home a = true ∧ inSet r.areas a = true then some d else s.owner a

/-! ### The operator table (chapter 05) -/

/-- SET_OPERATOR of a record that is signed on nowhere (R82, R83): a key number another record holds is refused
DUPLICATE_KEY, else the record is written and OPERATOR_CHANGED journalled. CLEAR_OPERATOR (R84, R85): an absent position
is answered OK; a record is removed with OPERATOR_CHANGED, and a key signed on by it, companion, incoming or holder, is
revoked (`State.Revoked`). That CLEAR_OPERATOR's entry names the record and the desk where it was signed on, and comes
first, as R83 says of SET_OPERATOR's, is the model's reading, log 35. The characters beyond the display tag's length are
ignored (R206; `OperatorRecord.spelt`); that an absent display tag's twelve characters and an absent day's bytes are
ignored too is the model's reading, log 37. A desertion's routing is worked out as `State.RoutedAround` says (the desks
among themselves: log 14). -/
def Obligations.OperatorTable : Prop :=
  (∀ (s : State) (l : Link) (tag : Byte) (i : OpIndex) (r : OperatorRecord) (x y : Nat) (pad : List Byte),
     s.commands l → r.Lawful → tableWf s.operators = true → pad.length = 12 →
     let sent := Instr.setOperator l tag (byte i.val :: r.spelt x y pad)
     ((∃ j q, j ≠ i ∧ s.operator j = some q ∧ q.key = r.key) →
       exec sent s = .next ((s.listening l).replies l 4 tag 4 11 [])) ∧
     ((∀ j q, j ≠ i → s.operator j = some q → q.key ≠ r.key) → s.whereSignedOn i = none →
       exec sent s =
         .next ((enter { kind := .operatorChanged, op := some i
                         d1 := some (if s.operator i = none then 1 else 2), d2 := some 0 }
           { s.listening l with operators := tablePut s.operators i r }).replies l 4 tag 0 0 []))) ∧
  (∀ (s : State) (l : Link) (tag : Byte) (i : OpIndex), s.commands l →
     (s.operator i = none →
       exec (.clearOperator l tag [byte i.val]) s = .next ((s.listening l).replies l 5 tag 0 0 [])) ∧
     (∀ old, s.operator i = some old →
       (s.whereSignedOn i = none →
         exec (.clearOperator l tag [byte i.val]) s =
           .next ((enter { kind := .operatorChanged, op := some i, d1 := some 3, d2 := some 0 }
             { s.listening l with operators := tableErase s.operators i }).replies l 5 tag 0 0 [])) ∧
       (∀ d k, s.whereSignedOn i = some (d, k) →
         ∃ t, exec (.clearOperator l tag [byte i.val]) s = .next (t.replies l 5 tag 0 0 []) ∧
           State.Revoked d k i .revoked
             { kind := .operatorChanged, desk := some d, op := some i, d1 := some 3, d2 := some 1 } s
             { s.listening l with operators := tableErase s.operators i } t)))

/-- SET_OPERATOR of a record that is signed on (R83, R85 to R87): a change of key or issue revokes and a new lock locks
out, whatever result the key had (`State.Revoked`); a companion otherwise stays, and so do an incoming operator whose
role, areas and days are unchanged, whatever the window, or who still qualifies (R87, R90, as `SignOnDecided` says), and
a holder who may still have every area the desk owns; an incoming operator who no longer qualifies after such a change
leaves the handover; a holder's narrowed permitted set releases the areas outside it, each with its AREA entry, and
routing is worked out once at the end, in handover as in ATTENDED (`State.RoutedAround`; the desks among themselves: log
14). OPERATOR_CHANGED comes first and says which. The bytes the part ignores are any (R206; `OperatorRecord.spelt`);
that those of absent items are ignored is the model's reading, log 37. -/
def Obligations.SetOperatorConsequences : Prop :=
  ∀ (s : State) (l : Link) (tag : Byte) (i : OpIndex) (old r : OperatorRecord) (x y : Nat)
    (pad : List Byte) (d : Desk) (k : SlotId),
    s.commands l → r.Lawful → pad.length = 12 → tableWf s.operators = true → tableWf s.owners = true →
    (∀ j q, j ≠ i → s.operator j = some q → q.key ≠ r.key) → s.operator i = some old →
    s.whereSignedOn i = some (d, k) →
    let sent := Instr.setOperator l tag (byte i.val :: r.spelt x y pad)
    let replaced : State := { s.listening l with operators := tablePut s.operators i r }
    let entry (n : Nat) : Draft :=
      { kind := .operatorChanged, desk := some d, op := some i, d1 := some 2, d2 := some n }
    let same := old.key = r.key ∧ old.issue = r.issue
    let kept := same ∧ (r.locked = true → old.locked = true)
    let requalified := old.role ≠ r.role ∨ old.areas ≠ r.areas ∨ old.validFrom ≠ r.validFrom ∨
      old.validUntil ≠ r.validUntil
    let unchanged := exec sent s = .next ((enter (entry 0) replaced).replies l 4 tag 0 0 [])
    (¬ same → ∃ t, exec sent s = .next (t.replies l 4 tag 0 0 []) ∧
      State.Revoked d k i .revoked (entry 1) s replaced t) ∧
    (same → r.locked = true → old.locked = false →
      ∃ t, exec sent s = .next (t.replies l 4 tag 0 0 []) ∧
        State.Revoked d k i .locked (entry 1) s replaced t) ∧
    (∀ nq, s.resultAt d k = some (.companion i nq) → kept → unchanged) ∧
    (s.resultAt d k = some (.incoming i) → kept → ¬ requalified ∨ s.qualifies d r = true → unchanged) ∧
    (s.resultAt d k = some (.holder i) → kept → (∀ a, s.owner a = some d → inSet r.areas a = true) → unchanged) ∧
    (∀ hk h, s.resultAt d k = some (.incoming i) → (s.unit d).state = .handoverReview hk h i → kept →
      requalified → s.qualifies d r = false →
      exec sent s =
        .next ((enter { kind := .incoming, desk := some d, op := some i, d1 := some (256 * k.code + 5)
                        d2 := some (h.carried.filter (·.briefed)).length }
          (((enter (entry 3) replaced).setResult d k (.companion i true)).putDeskState d
            (.handoverOpen hk { h with carried := h.carried.map (fun e => { e with briefed := false }) }))).replies
              l 4 tag 0 0 [])) ∧
    (s.resultAt d k = some (.holder i) → kept →
      (∃ a, s.owner a = some d ∧ inSet old.areas a = true ∧ inSet r.areas a = false) →
      ∃ t, exec sent s = .next (t.replies l 4 tag 0 0 []) ∧
        State.RoutedAround d (s.unit d) s replaced t ∧ t.records s.nextSeq (entry 2) ∧
        (∀ a, s.owner a = some d → inSet r.areas a = false →
          ∃ m, t.records m { kind := .area, d1 := some a.val, d2 := some d.code }) ∧
        (s.inHandover d = false → t.unit d = s.unit d) ∧
        ∀ a, t.owner a = if s.owner a = some d ∧ inSet r.areas a = false then none else s.owner a)

/-! ### Acknowledgement, silencing and shelving (chapter 06) -/

/-- An acknowledgement by message and by press (R98, R100, R102, R104, R11): the ACK entry, the point in ACKED or, from a
return, in NORMAL, its STATE entry and the word to a desk in handover; or refused, ACK_REFUSED with the reason, 1 for a
press and 2 for a message. A press takes the first item in UNACK or RTN_UNACK (R47); with none it does nothing. -/
def Obligations.AckTaken : Prop :=
  (∀ (s : State) (d : Desk) (op : OpIndex) (r : OperatorRecord) (t : Tag) (p : Point),
     s.holderRecord d = some (op, r) → r.role.atLeast .operator = true → s.point t = some p → p.base ≤ 3 →
     inSet r.areas p.area = true → p.Lawful →
     let tgt := s.target p.area
     let acked (u : State) : State :=
       let entered (code : Nat) := enter { kind := .ack, desk := some d, op := some op, tag := some t, d1 := some code
                                           d2 := some tgt.code } u
       let change (old new : Nat) : Draft :=
         { kind := .state, desk := tgt.desk?, tag := some t, d1 := some old, d2 := some new }
       match p.state with
       | .unack τ => tellTarget tgt t (some .acked) (enter (change 1 2) ((entered 1).putPoint t
           { p with state := .acked τ, lastAck := some op }))
       | _ => tellTarget tgt t none (enter (change 3 0) ((entered 3).putPoint t
           { p with state := .normal, effective := p.base, silenced := false, lastAck := some op }))
     (∀ l tag, s.commands l → p.unacknowledged = true → (tgt = .desk d ∨ r.role = .supervisor) →
       exec (.ack l tag (byte d.code :: be 2 t.val)) s =
         .next ((acked (s.listening l)).replies l 6 tag 0 0 (be 2 t.val ++
           (match p.state with
             | .unack _ => [2, byte p.effective]
             | _ => [0, byte p.base])))) ∧
     (s.works = true → ackHead (s.attentionList (.desk d)) = some (t, p) →
       exec (.ackPress d) s = .next (acked s))) ∧
  (∀ (s : State) (d : Desk),
     let refused (t : Option Tag) (reason how : Nat) (u : State) : State :=
       enter { kind := .ackRefused, desk := some d, op := s.holder d, tag := t, d1 := some reason, d2 := some how } u
     (∀ l tag (t : Tag), s.commands l →
       let answered (reason : Nat) : State := (refused (some t) reason 2 (s.listening l)).replies l 6 tag 4 (byte reason) []
       (s.holderRecord d = none → exec (.ack l tag (byte d.code :: be 2 t.val)) s = .next (answered 2)) ∧
       (∀ op r, s.holderRecord d = some (op, r) →
         (r.role = .observer → exec (.ack l tag (byte d.code :: be 2 t.val)) s = .next (answered 1)) ∧
         (r.role ≠ .observer → s.point t = none →
           exec (.ack l tag (byte d.code :: be 2 t.val)) s = .next (answered 4)) ∧
         (∀ p, r.role ≠ .observer → s.point t = some p →
           (inSet r.areas p.area = false ∨ (s.target p.area ≠ .desk d ∧ r.role ≠ .supervisor) →
             exec (.ack l tag (byte d.code :: be 2 t.val)) s = .next (answered 1)) ∧
           (inSet r.areas p.area = true → (s.target p.area = .desk d ∨ r.role = .supervisor) →
             (3 < p.base ∨ p.unacknowledged = false) →
             exec (.ack l tag (byte d.code :: be 2 t.val)) s = .next (answered 4))))) ∧
     (s.works = true →
       (s.holderRecord d = none → exec (.ackPress d) s = .next (refused none 2 1 s)) ∧
       (∀ op r, s.holderRecord d = some (op, r) →
         (ackHead (s.attentionList (.desk d)) = none → exec (.ackPress d) s = .next s) ∧
         (∀ t p, ackHead (s.attentionList (.desk d)) = some (t, p) →
           (r.role = .observer ∨ inSet r.areas p.area = false) →
           exec (.ackPress d) s = .next (refused (some t) 1 1 s))))) ∧
  ∀ items : List Item, ackHead items = (items.filter (fun e => match e.2.state with
    | .unack _ | .rtnUnack _ => true
    | .normal | .acked _ | .shelved _ _ => false)).head?

/-- A SILENCE at a desk, by message and by press (R105 to R107): every point in UNACK in the desk's list, and in the room
list at the supervisor desk, is silenced; the SILENCE entry gives the counts and sets ALARM when one is above 0. With no
key signed on it is refused. -/
def Obligations.SilenceSilences : Prop :=
  ∀ (s : State) (d : Desk),
    let calls (t : Target) (p : Point) : Bool :=
      decide (p.base ≤ 3) && p.isUnack && !p.silenced && decide (s.target p.area = t)
    let n := (s.points.filter (fun e => calls (.desk d) e.2)).length
    let room := (s.points.filter (fun e => calls .room e.2)).length
    let sup := decide (s.supervisor = some d)
    let done (op : OpIndex) (u : State) : State :=
      let v := enter { kind := .silence, desk := some d, op := some op, d1 := some n
                       d2 := if sup then some room else none }
        { u with points := tableMap (fun _ p =>
            if calls (.desk d) p || (sup && calls .room p) then { p with silenced := true } else p) s.points }
      if 0 < n ∨ (sup = true ∧ 0 < room) then setPending .alarm v else v
    (∀ op, ((s.holder d).orElse fun _ => (s.signedOn d .a).orElse fun _ => s.signedOn d .b) = some op →
      (∀ l tag, s.commands l → exec (.silence l tag [byte d.code]) s =
        .next ((done op (s.listening l)).replies l 7 tag 0 0 (be 2 n ++ be 2 (if sup then room else 65535)))) ∧
      (s.works = true → exec (.silencePress d) s = .next (done op s))) ∧
    (s.holder d = none → s.signedOn d .a = none → s.signedOn d .b = none →
      (∀ l tag, s.commands l →
        exec (.silence l tag [byte d.code]) s = .next ((s.listening l).replies l 7 tag 4 2 [])) ∧
      (s.works = true → exec (.silencePress d) s = .next s))

/-- SHELVE (R109, R110): the tests in order, then the SHELVE entry, the point in SHELVED until 60 times the minutes have
passed, and its STATE entry. -/
def Obligations.ShelveShelves : Prop :=
  ∀ (s : State) (l : Link) (tag : Byte) (d : Desk) (t : Tag) (m : Nat), s.commands l → m < 65536 →
    let minutes := max 1 (min 480 m)
    let body := byte d.code :: (be 2 t.val ++ be 2 m)
    let refused (reason : Byte) : State := (s.listening l).replies l 8 tag 4 reason []
    let onShelf := (s.points.filter (fun e => match e.2.state with | .shelved _ _ => true | _ => false)).length
    (s.holderRecord d = none → exec (.shelve l tag body) s = .next (refused 2)) ∧
    (∀ op r, s.holderRecord d = some (op, r) →
      (r.role.atLeast .senior = false → exec (.shelve l tag body) s = .next (refused 1)) ∧
      (r.role.atLeast .senior = true → s.point t = none → exec (.shelve l tag body) s = .next (refused 4)) ∧
      (∀ p, r.role.atLeast .senior = true → s.point t = some p →
        (inSet r.areas p.area = false → exec (.shelve l tag body) s = .next (refused 1)) ∧
        (inSet r.areas p.area = true → p.shelvable = false → exec (.shelve l tag body) s = .next (refused 8)) ∧
        (inSet r.areas p.area = true → p.shelvable = true → (∃ x o, p.state = .shelved x o) →
          exec (.shelve l tag body) s = .next (refused 4)) ∧
        (inSet r.areas p.area = true → p.shelvable = true → (∀ x o, p.state ≠ .shelved x o) →
          (64 ≤ onShelf → exec (.shelve l tag body) s = .next (refused 7)) ∧
          (onShelf < 64 →
            exec (.shelve l tag body) s =
              .next ((tellTarget (s.target p.area) t none
                (enter { kind := .state, desk := (s.target p.area).desk?, tag := some t, d1 := some p.state.code
                         d2 := some 4 }
                  ((enter { kind := .shelve, desk := some d, op := some op, tag := some t, d1 := some minutes
                            d2 := some p.state.code } (s.listening l)).putPoint t
                    { p with state := .shelved (s.runSeconds + BitVec.ofNat 32 (60 * minutes)) op
                             effective := p.base, silenced := false }))).replies l 8 tag 0 0
                (be 2 minutes ++ be 4 (s.runSeconds + BitVec.ofNat 32 (60 * minutes)).toNat))))))

/-- A point leaves SHELVED, by UNSHELVE and at its expiry (R111 to R113, R115, R16): to UNACK as an arrival, to ACKED if
record-only, or to NORMAL, as its active field says. UNSHELVE's tests in order (R111): no holder, a role below SENIOR, no
point, an area not permitted, a point not in SHELVED; refused, it changes nothing. That UNSHELVE's second detail is 0
where the expiry event is late is the model's reading, log 32; that the STATE entry comes before the word to the desk, and
so before a HANDOVER_ABORT of CARRY_FULL that a return as an arrival causes, is its reading, log 28. -/
def Obligations.ShelvingEnds : Prop :=
  (∀ (s : State) (t : Tag) (p : Point) (expiry : Word32) (by_ : OpIndex),
    s.point t = some p → p.state = .shelved expiry by_ → p.Lawful →
    let tgt := s.target p.area
    let ld := s.loadOf tgt
    let goal := if p.active then (if p.base ≤ 3 then 1 else 2) else 0
    let change : Draft := { kind := .state, desk := tgt.desk?, tag := some t, d1 := some 4, d2 := some goal }
    let returned (u : State) : State :=
      if p.active = true then
        if p.base ≤ 3 then
          tellTarget tgt t (some .unack) (enter change
            ((u.putLoad tgt { ld with w := min 255 (ld.w + (match p.base with | 1 => 4 | 2 => 2 | _ => 1)) }).putPoint t
              { p with state := .unack s.runSeconds, silenced := decide (p.base = 3) && ld.flood }))
        else tellTarget tgt t none (enter change
          ((enter { kind := .ack, tag := some t, d1 := some 4 } u).putPoint t { p with state := .acked s.runSeconds }))
      else tellTarget tgt t none (enter change (u.putPoint t { p with state := .normal }))
    (∀ l tag d op r, s.commands l → s.holderRecord d = some (op, r) → r.role.atLeast .senior = true →
      inSet r.areas p.area = true →
      exec (.unshelve l tag (byte d.code :: be 2 t.val)) s =
        .next ((returned (enter { kind := .unshelve, desk := some d, op := some op, tag := some t, d1 := some goal
                                  d2 := some (min 65535 (if (expiry - s.runSeconds).toNat < 2147483648 then
                                    (expiry - s.runSeconds).toNat else 0)) } (s.listening l))).replies
          l 9 tag 0 0 [byte goal])) ∧
    (s.works = true → s.runSeconds = expiry →
      exec (.shelfExpiry t) s =
        .next (returned (enter { kind := .shelfExpiry, desk := tgt.desk?, op := some by_, tag := some t
                                 d1 := some goal } s)))) ∧
  ∀ (s : State) (l : Link) (tag : Byte) (d : Desk) (t : Tag), s.commands l →
    let refusedFor (reason : Byte) : Prop :=
      exec (.unshelve l tag (byte d.code :: be 2 t.val)) s = .next ((s.listening l).replies l 9 tag 4 reason [])
    (s.holderRecord d = none → refusedFor 2) ∧
    ∀ op r, s.holderRecord d = some (op, r) →
      (r.role.atLeast .senior = false → refusedFor 1) ∧
      (r.role.atLeast .senior = true → s.point t = none → refusedFor 4) ∧
      ∀ p, r.role.atLeast .senior = true → s.point t = some p →
        (inSet r.areas p.area = false → refusedFor 1) ∧
        (inSet r.areas p.area = true → (∀ x o, p.state ≠ .shelved x o) → refusedFor 4)

/-! ### Shift handover (chapter 07) -/

/-- A handover is opened by message and by a press in ATTENDED (R120 to R122): the record with what the list carries,
its items in UNACK and RTN_UNACK and those in ACKED at effective priority 1, in list order (`AttentionListOrdered`, log
9), each with the mark no; HANDOVER_OPEN journalled; a companion in the other slot that qualifies (R90, as
`SignOnDecided` says) takes the desk on to HANDOVER_REVIEW. An opening refused: the first of the tests that fails gives
the reason, and nothing else changes. A press refused in ATTENDED has no effect (R120), nor has a press in VACANT or
OUT_OF_SERVICE (R96). -/
def Obligations.HandoverOpening : Prop :=
  let carries (s : State) (d : Desk) : List Carried := (s.attentionList (.desk d)).filterMap (fun x =>
    match x.2.standing with
    | some st => if st ≠ .acked ∨ x.2.effective = 1 then some { tag := x.1, standing := st, briefed := false } else none
    | none => none)
  (∀ (s : State) (d : Desk) (k : SlotId) (op : OpIndex) (r : OperatorRecord),
     s.holderRecord d = some (op, r) → r.role.atLeast .operator = true → (s.unit d).state = .attended k →
     (s.loadOf (.desk d)).flood = false → (carries s d).length ≤ 32 →
     let h : Handover :=
       { outgoing := op, openedAt := s.runSeconds
         limitExpiry := s.runSeconds + BitVec.ofNat 32 (60 * s.limits.handoverLimit), carried := carries s d }
     let opened (u : State) : State :=
       enter { kind := .handoverOpen, desk := some d, op := some op, d1 := some h.carried.length
               d2 := some s.limits.handoverLimit } (u.putDeskState d (.handoverOpen k h))
     let body := byte h.carried.length :: be 4 h.limitExpiry.toNat
     let reviewed (o : OpIndex) (u : State) : State :=
       enter { kind := .incoming, desk := some d, op := some o, d1 := some (256 * k.other.code + 2)
               d2 := some h.carried.length }
         (((opened u).setResult d k.other (.incoming o)).putDeskState d (.handoverReview k h o))
     ((∀ o nq q, s.resultAt d k.other = some (.companion o nq) → s.operator o = some q → s.qualifies d q = false) →
       (∀ l tag, s.commands l →
         exec (.handoverOpen l tag [byte d.code]) s = .next ((opened (s.listening l)).replies l 10 tag 0 0 body)) ∧
       (s.works = true → exec (.handPress d) s = .next (opened s))) ∧
     (∀ o nq q, s.resultAt d k.other = some (.companion o nq) → s.operator o = some q → s.qualifies d q = true →
       (∀ l tag, s.commands l →
         exec (.handoverOpen l tag [byte d.code]) s =
           .next ((reviewed o (s.listening l)).replies l 10 tag 0 0 body)) ∧
       (s.works = true → exec (.handPress d) s = .next (reviewed o s))) ∧
     (∀ e : Carried, e ∈ carries s d ↔ e.briefed = false ∧ ∃ p, (e.tag, p) ∈ s.points ∧ s.target p.area = .desk d ∧
       p.standing = some e.standing ∧ (e.standing ≠ .acked ∨ p.effective = 1))) ∧
  (∀ (s : State) (l : Link) (tag : Byte) (d : Desk), s.commands l →
     let refused (reason : Byte) : Host.Outcome State Fault Refusal :=
       .next ((s.listening l).replies l 10 tag 4 reason [])
     (s.holderRecord d = none → exec (.handoverOpen l tag [byte d.code]) s = refused 2) ∧
     (∀ op r, s.holderRecord d = some (op, r) →
       (r.role = .observer → exec (.handoverOpen l tag [byte d.code]) s = refused 1) ∧
       (r.role ≠ .observer →
         ((∀ k, (s.unit d).state ≠ .attended k) → exec (.handoverOpen l tag [byte d.code]) s = refused 4) ∧
         (∀ k, (s.unit d).state = .attended k →
           ((s.loadOf (.desk d)).flood = true → exec (.handoverOpen l tag [byte d.code]) s = refused 5) ∧
           ((s.loadOf (.desk d)).flood = false → 32 < (carries s d).length →
             exec (.handoverOpen l tag [byte d.code]) s = refused 6))))) ∧
  (∀ (s : State) (d : Desk), s.works = true →
     ((s.unit d).state = .vacant ∨ (s.unit d).state = .outOfService → exec (.handPress d) s = .next s) ∧
     ∀ k, (s.unit d).state = .attended k →
       (s.holderRecord d = none → exec (.handPress d) s = .next s) ∧
       ∀ op r, s.holderRecord d = some (op, r) →
         (r.role = .observer ∨ (s.loadOf (.desk d)).flood = true ∨ 32 < (carries s d).length) →
         exec (.handPress d) s = .next s)

/-- A handover is aborted by message, by a press in HANDOVER_OPEN and by its limit expiry (R134 to R136): an incoming
operator becomes a companion, HANDOVER_ABORT gives the reason and the number of entries, and the desk is ATTENDED with
the outgoing key as holder. HANDOVER_CANCEL is refused NOT_SIGNED_ON with no holder, NOT_PERMITTED with a holder below
OPERATOR, WRONG_STATE outside handover, and changes nothing; a press refused in HANDOVER_OPEN has no effect. -/
def Obligations.HandoverAborted : Prop :=
  (∀ (s : State) (d : Desk) (k : SlotId) (h : Handover),
    let entry (reason : Nat) : Draft :=
      { kind := .handoverAbort, desk := some d, op := some h.outgoing, d1 := some reason
        d2 := some h.carried.length }
    (∀ op r, s.holderRecord d = some (op, r) → r.role.atLeast .operator = true →
      (∀ l tag, s.commands l →
        ((s.unit d).state = .handoverOpen k h →
          exec (.handoverCancel l tag [byte d.code]) s =
            .next (((enter (entry 1) (s.listening l)).putDeskState d (.attended k)).replies l 11 tag 0 0 [])) ∧
        (∀ inc, (s.unit d).state = .handoverReview k h inc →
          exec (.handoverCancel l tag [byte d.code]) s =
            .next (((enter (entry 1) ((s.listening l).setResult d k.other (.companion inc false))).putDeskState d
              (.attended k)).replies l 11 tag 0 0 [])) ∧
        (s.inHandover d = false →
          exec (.handoverCancel l tag [byte d.code]) s = .next ((s.listening l).replies l 11 tag 4 4 []))) ∧
      (s.works = true → (s.unit d).state = .handoverOpen k h →
        exec (.handPress d) s = .next ((enter (entry 1) s).putDeskState d (.attended k)))) ∧
    (s.works = true →
      ((s.unit d).state = .handoverOpen k h → s.runSeconds = h.limitExpiry →
        exec (.handoverTimeout d) s = .next ((enter (entry 2) s).putDeskState d (.attended k))) ∧
      (∀ inc, (s.unit d).state = .handoverReview k h inc → s.runSeconds = h.limitExpiry →
        exec (.handoverTimeout d) s =
          .next ((enter (entry 2) (s.setResult d k.other (.companion inc false))).putDeskState d (.attended k))) ∧
      (s.inHandover d = false → exec (.handoverTimeout d) s = .next s))) ∧
  ∀ (s : State) (d : Desk),
    (∀ l tag, s.commands l →
      let refused (reason : Byte) : Host.Outcome State Fault Refusal :=
        .next ((s.listening l).replies l 11 tag 4 reason [])
      (s.holderRecord d = none → exec (.handoverCancel l tag [byte d.code]) s = refused 2) ∧
      ∀ op r, s.holderRecord d = some (op, r) → r.role = .observer →
        exec (.handoverCancel l tag [byte d.code]) s = refused 1) ∧
    (s.works = true → ∀ k h, (s.unit d).state = .handoverOpen k h →
      (s.holderRecord d = none → exec (.handPress d) s = .next s) ∧
      ∀ op r, s.holderRecord d = some (op, r) → r.role = .observer → exec (.handPress d) s = .next s)

/-- A commit, by message and by a press in a fully briefed HANDOVER_REVIEW (R131, R132): the incoming operator is holder,
the outgoing a companion, DUE is cleared, HANDOVER_DONE journalled, and the desk ATTENDED. HANDOVER_COMMIT is refused
NOT_SIGNED_ON with no holder, NOT_PERMITTED with a holder below OPERATOR, WRONG_STATE at a desk not in HANDOVER_REVIEW or
not fully briefed, and changes nothing; a press refused in a fully briefed review has no effect. -/
def Obligations.HandoverCommitted : Prop :=
  (∀ (s : State) (d : Desk) (k : SlotId) (h : Handover) (inc op : OpIndex) (r : OperatorRecord),
    (s.unit d).state = .handoverReview k h inc → s.holderRecord d = some (op, r) →
    r.role.atLeast .operator = true →
    let done (u : State) : State :=
      (enter { kind := .handoverDone, desk := some d, op := some inc, d1 := some h.outgoing.val
               d2 := some h.carried.length }
        (clearDue d ((u.setResult d k.other (.holder inc)).setResult d k
          (.companion h.outgoing false)))).putDeskState d (.attended k.other)
    ((∀ e ∈ h.carried, e.briefed = true) →
      (∀ l tag, s.commands l →
        exec (.handoverCommit l tag [byte d.code]) s =
          .next ((done (s.listening l)).replies l 12 tag 0 0 [byte h.carried.length])) ∧
      (s.works = true → exec (.handPress d) s = .next (done s))) ∧
    ((∃ e ∈ h.carried, e.briefed = false) → ∀ l tag, s.commands l →
      exec (.handoverCommit l tag [byte d.code]) s = .next ((s.listening l).replies l 12 tag 4 4 []))) ∧
  ∀ (s : State) (d : Desk),
    (∀ l tag, s.commands l →
      let refused (reason : Byte) : Host.Outcome State Fault Refusal :=
        .next ((s.listening l).replies l 12 tag 4 reason [])
      (s.holderRecord d = none → exec (.handoverCommit l tag [byte d.code]) s = refused 2) ∧
      ∀ op r, s.holderRecord d = some (op, r) →
        (r.role = .observer → exec (.handoverCommit l tag [byte d.code]) s = refused 1) ∧
        (r.role ≠ .observer → (∀ k h inc, (s.unit d).state ≠ .handoverReview k h inc) →
          exec (.handoverCommit l tag [byte d.code]) s = refused 4)) ∧
    (s.works = true → ∀ k h inc, (s.unit d).state = .handoverReview k h inc → (∀ e ∈ h.carried, e.briefed = true) →
      (s.holderRecord d = none → exec (.handPress d) s = .next s) ∧
      ∀ op r, s.holderRecord d = some (op, r) → r.role = .observer → exec (.handPress d) s = .next s)

/-- BRIEF, and a press in a HANDOVER_REVIEW that is not fully briefed (R130, R131): an unbriefed entry is marked and BRIEF
journalled with the number left; an entry already briefed is answered alone; a desk not in HANDOVER_REVIEW, or with no
entry for the tag, refuses. -/
def Obligations.Briefing : Prop :=
  (∀ (s : State) (d : Desk) (k : SlotId) (h : Handover) (inc : OpIndex) (t : Tag) (e : Carried),
     (s.unit d).state = .handoverReview k h inc → h.carried.find? (fun e => decide (e.tag = t)) = some e →
     let marked := h.carried.map (fun e => if e.tag = t then { e with briefed := true } else e)
     let left (entries : List Carried) := (entries.filter (fun e => !e.briefed)).length
     let briefed (how : Nat) (u : State) : State :=
       enter { kind := .brief, desk := some d, op := some inc, tag := some t, d1 := some (left marked)
               d2 := some how } (u.putDeskState d (.handoverReview k { h with carried := marked } inc))
     (∀ l tag, s.commands l →
       (e.briefed = false → exec (.brief l tag (byte d.code :: be 2 t.val)) s =
         .next ((briefed 2 (s.listening l)).replies l 13 tag 0 0 (be 2 t.val ++ [byte (left marked)]))) ∧
       (e.briefed = true → exec (.brief l tag (byte d.code :: be 2 t.val)) s =
         .next ((s.listening l).replies l 13 tag 0 0 (be 2 t.val ++ [byte (left h.carried)])))) ∧
     (s.works = true → (h.carried.filter (fun e => !e.briefed)).head? = some e →
       exec (.handPress d) s = .next (briefed 1 s))) ∧
  (∀ (s : State) (l : Link) (tag : Byte) (d : Desk) (t : Tag), s.commands l →
     ((∀ k h inc, (s.unit d).state ≠ .handoverReview k h inc) ∨ (∀ e ∈ s.carried d, e.tag ≠ t)) →
     exec (.brief l tag (byte d.code :: be 2 t.val)) s = .next ((s.listening l).replies l 13 tag 4 4 []))

/-- What a desk in handover does with the word of a point's change (R125, R127, R128): entering UNACK re-marks or adds
its entry, a 33rd aborting with CARRY_FULL, reason 4 (`State.aborted`, R134); leaving the list removes it; any other
change keeps the mark. A desk in no handover does nothing, and the room has no desk to tell. A point that moves in
(R126): an entry at the end with its state and the mark no, none for ACKED at effective priority 2 or 3, and the same
abort. That a point moving in which already has an entry has it re-marked where it stands is the model's choice, log 24:
R126 adds at the end, and R37 and R127 exclude the case. -/
def Obligations.CarriedListFollows : Prop :=
  ∀ (s : State) (d : Desk) (t : Tag) (h : Handover),
    (s.inHandover d = false → ∀ st, tellDesk d t st s = s) ∧
    ((s.unit d).state.handover? = some h →
      let put (entries : List Carried) : State :=
        s.putDeskState d ((s.unit d).state.mapHandover (fun x => { x with carried := entries }))
      tellDesk d t none s = put (h.carried.filter (fun e => decide (e.tag ≠ t))) ∧
      (∀ st, st ≠ .unack → tellDesk d t (some st) s =
        put (h.carried.map (fun e => if e.tag = t then { e with standing := st } else e))) ∧
      ((∃ e ∈ h.carried, e.tag = t) → tellDesk d t (some .unack) s =
        put (h.carried.map (fun e =>
          if e.tag = t then { tag := t, standing := .unack, briefed := false } else e))) ∧
      ((∀ e ∈ h.carried, e.tag ≠ t) →
        (h.carried.length < 32 → tellDesk d t (some .unack) s =
          put (h.carried ++ [{ tag := t, standing := .unack, briefed := false }])) ∧
        (32 ≤ h.carried.length → tellDesk d t (some .unack) s = s.aborted d 4)) ∧
      ∀ p st, p.standing = some st → (st ≠ .acked ∨ p.effective = 1) →
        ((∃ e ∈ h.carried, e.tag = t) → takeIn d (t, p) s =
          put (h.carried.map (fun e => if e.tag = t then { tag := t, standing := st, briefed := false } else e))) ∧
        ((∀ e ∈ h.carried, e.tag ≠ t) →
          (h.carried.length < 32 →
            takeIn d (t, p) s = put (h.carried ++ [{ tag := t, standing := st, briefed := false }])) ∧
          (32 ≤ h.carried.length → takeIn d (t, p) s = s.aborted d 4))) ∧
    (∀ p, s.inHandover d = false ∨ p.standing = none ∨ (p.standing = some .acked ∧ p.effective ≠ 1) →
      takeIn d (t, p) s = s) ∧
    ∀ st, tellTarget (.desk d) t st s = tellDesk d t st s ∧ tellTarget .room t st s = s

/-! ### Annunciation (chapter 08) -/

/-- A flash tick, and the cycle start at the tick after the last position (R145 to R147): the position advances, or the
staged settings come into force, the position is 0, and lamps and horn are chosen; nothing else changes; CYCLE_START
falls at that tick alone (log 6). The positions at which each pattern lights its lamp are those of R148's table, and a
desk's five outputs are lit by their patterns at the position as it stands. With flash settings in their ranges ALT_FIRST
is lit in the first half alone and ALT_SECOND in the second, never both together, each for at most half the cycle
(R149). -/
def Obligations.FlashCycle : Prop :=
  (∀ s : State, s.works = true →
     (s.position + 1 < s.flash.c →
       exec .flashTick s = .next { s with position := s.position + 1 } ∧ exec .cycleStart s = .next s) ∧
     (s.flash.c ≤ s.position + 1 → exec .flashTick s = exec .cycleStart s ∧
       ∃ desks horn, exec .cycleStart s =
         .next { s with flash := s.staged.getD s.flash, staged := none, position := 0, desks := desks, horn := horn } ∧
         ∀ d, desks.get d = { s.unit d with lamps := (desks.get d).lamps })) ∧
  (let table (f : Flash) (pos : Nat) (p : Pattern) : Bool :=
     match p with
     | .off => false
     | .steady => decide (pos < f.c)
     | .flash => decide (pos < f.df)
     | .altFirst => decide (f.g ≤ pos ∧ pos < f.da)
     | .altSecond => decide (f.c / 2 + f.g ≤ pos ∧ pos < f.c / 2 + f.da)
   (∀ f pos p, Pattern.lit f pos p = table f pos p) ∧
   ∀ (s : State) (d : Desk), s.lampsLit d =
     let l := (s.unit d).lamps
     [table s.flash s.position l.alarm, table s.flash s.position l.ret, table s.flash s.position l.hand,
      table s.flash s.position l.key, table s.flash s.position l.link]) ∧
  (∀ (f : Flash) (pos : Nat), f.Lawful →
     (Pattern.lit f pos .altFirst = true → pos < f.c / 2) ∧
     (Pattern.lit f pos .altSecond = true → f.c / 2 ≤ pos ∧ pos < f.c) ∧
     ((List.range f.c).filter (fun q => Pattern.lit f q .altFirst)).length ≤ f.c / 2 ∧
     ((List.range f.c).filter (fun q => Pattern.lit f q .altSecond)).length ≤ f.c / 2 ∧
     ¬ (Pattern.lit f pos .altFirst = true ∧ Pattern.lit f pos .altSecond = true) ∧
     (Pattern.lit f pos .altFirst = Pattern.lit f (pos + f.c / 2) .altSecond) ∧
     (f.g < f.da ↔ ∃ q, q < f.c ∧ Pattern.lit f q .altFirst = true))

/-- The lamps of a desk after a cycle start (R150 to R154). -/
def Obligations.LampsChosen : Prop :=
  ∀ (s t : State) (d : Desk), s.works = true → s.flash.c ≤ s.position + 1 → exec .cycleStart s = .next t →
    let u := s.unit d
    let holds (f : Point → Bool) : Bool :=
      s.points.any (fun e => decide (e.2.base ≤ 3) && decide (s.target e.2.area = .desk d) && f e.2)
    let unack := holds (fun p => match p.state with | .unack _ => true | _ => false)
    let return_ := holds (fun p => match p.state with | .rtnUnack _ => true | _ => false)
    let acked := holds (fun p => match p.state with | .acked _ => true | _ => false)
    let bad (k : SlotId) : Bool :=
      match (u.slot k).state with
      | .faultBattery | .faultRead _ | .present _ _ _ (.refused _) => true
      | _ => false
    (u.state = .outOfService → (t.unit d).lamps = ⟨.off, .off, .off, .off, .off⟩) ∧
    (u.state ≠ .outOfService → (t.unit d).lamps = {
      alarm := if (s.loadOf (.desk d)).flood then .altFirst else if unack then .flash
               else if return_ || acked then .steady else .off
      ret := if (s.loadOf (.desk d)).flood then .altSecond else if return_ then .flash else .off
      hand := match u.state with
        | .handoverOpen _ _ => .flash
        | .handoverReview _ _ _ => if u.due.isSome then .flash else .steady
        | _ => if u.due.isSome then .flash else .off
      key := if bad .a || bad .b then .flash else if s.hasHolder d then .steady else .off
      link := if s.isLocal then .flash else .steady })

/-- The horn at a cycle start (R156 to R160): the requests are registered from the lists, the count is raised for an
owner that sounded, an owner keeps the horn while no other requests it or while its own request stands and its hold is
not used up, and the owner's tone sounds exactly while its request stands. -/
def Obligations.HornDecided : Prop :=
  ∀ s t : State, s.works = true → s.flash.c ≤ s.position + 1 → exec .cycleStart s = .next t →
    (∀ x, t.horn.requests.get x = s.points.any (fun e =>
      decide (e.2.base ≤ 3) && e.2.isUnack && !e.2.silenced && decide (s.target e.2.area = x))) ∧
    (∀ x, s.horn.owner = some x →
      let count := if s.horn.requests.get x then min 15 (s.horn.count + 1) else s.horn.count
      let hold := match x with | .desk d => (s.unit d).hornHold | .room => 2
      ((∀ y, y ≠ x → t.horn.requests.get y = false) → t.horn.owner = some x ∧ t.horn.count = count) ∧
      (t.horn.requests.get x = true → count < hold → t.horn.owner = some x ∧ t.horn.count = count) ∧
      (∀ y, y ≠ x → t.horn.requests.get y = true → (t.horn.requests.get x = false ∨ hold ≤ count) →
        t.horn.owner ≠ some x ∧ t.horn.count = 0 ∧ ∃ z, t.horn.owner = some z ∧ t.horn.requests.get z = true ∧
          ∀ w, t.horn.requests.get w = true → w ≠ x → (z.code + 7 - x.code) % 7 ≤ (w.code + 7 - x.code) % 7)) ∧
    (s.horn.owner = none →
      (∀ z, t.horn.owner = some z ↔ t.horn.requests.get z = true ∧
        ∀ w, t.horn.requests.get w = true → z.code ≤ w.code) ∧
      ((∀ z, t.horn.requests.get z = false) → t.horn.owner = none)) ∧
    (∀ x, t.horn.output = some x ↔ ∃ z, t.horn.owner = some z ∧ t.horn.requests.get z = true ∧
      x = (match z with | .desk d => (s.unit d).tone | .room => 7))

/-! ### Time (chapter 09) -/

/-- A second passes (R163 to R165): the count rises, mill time runs on if it is SET, across midnight and from day 65535 to
day 0, and at a whole minute the tick's work is handed on; here no start is fired, none being reached or the one
reached being no later than the last fired boundary. The minute pulse (R173): nothing while UNSET or with HOLD; less
than 30 seconds past a minute mill time goes back to it with PULSE, from 30 seconds on forward, where the starts it
crosses fire after PULSE. That a start is judged against the boundary last fired before the event is the model's
reading, log 22. -/
def Obligations.TimeRunsOn : Prop :=
  (∀ s : State, s.works = true →
     let now := s.runSeconds + 1
     let tick := if now ≠ 0 ∧ now.toNat % 60 = 0 then ⟨true, true, true⟩ else s.tick
     (s.mill = none → exec .secondEvent s = .next { s with runSeconds := now, tick := tick }) ∧
     (∀ c, s.mill = some c → c.now.second + 1 < 86400 → (∀ x ∈ s.schedule, x ≠ c.now.second + 1) →
       c.now.day < 65536 →
       exec .secondEvent s = .next { s with
         runSeconds := now, tick := tick
         mill := some { c with now := { c.now with second := c.now.second + 1 } } }) ∧
     (∀ c, s.mill = some c → scheduleOk s.schedule = true → c.now.day < 65536 → c.now.second < 86400 →
       let next : MillTime := if c.now.second + 1 < 86400 then { c.now with second := c.now.second + 1 }
         else { day := (c.now.day + 1) % 65536, second := 0 }
       ((∀ x ∈ s.schedule, x ≠ next.second) ∨ difference c.lastFired next ≤ 0) →
       exec .secondEvent s = .next { s with runSeconds := now, tick := tick, mill := some { c with now := next } })) ∧
  (∀ s : State, s.works = true →
     (s.mill = none ∨ s.timeHold = true → exec .minutePulse s = .next s) ∧
     (∀ c, s.mill = some c → s.timeHold = false →
       let x := c.now.second % 60
       (x = 0 → exec .minutePulse s = .next s) ∧
       (0 < x → x < 30 →
         exec .minutePulse s = .next (enter { kind := .pulse, d1 := some x, d2 := some 2 }
           { s with mill := some { c with now := { c.now with second := c.now.second - x } } })) ∧
       (30 ≤ x → c.now.day < 65536 → c.now.second + (60 - x) < 86400 →
         (∀ y ∈ s.schedule, y ≤ c.now.second ∨ c.now.second + (60 - x) < y) →
         exec .minutePulse s = .next (enter { kind := .pulse, d1 := some (60 - x), d2 := some 1 }
           { s with mill := some { c with now := { c.now with second := c.now.second + (60 - x) } } })) ∧
       (30 ≤ x → scheduleOk s.schedule = true → c.now.day < 65536 → c.now.second < 86400 →
         let next : MillTime := if c.now.second + (60 - x) < 86400 then { c.now with second := c.now.second + (60 - x) }
           else { day := (c.now.day + 1) % 65536, second := 0 }
         ∃ a b, a ≤ b ∧ (∀ m, (a ≤ m ∧ m < b) ↔ crossesStart s.schedule c (60 - x) m) ∧
           exec .minutePulse s = .next (State.startsFire a b (enter { kind := .pulse, d1 := some (60 - x), d2 := some 1 }
             { s with mill := some { c with now := next } })))))

/-- A second brings mill time to a shift start later than the last fired boundary, at any second of day, midnight and the
wrap of day 65535 to 0 included (R165, R167, R143): SHIFT_START gives the shift index and the number of desks with a
holder, each of which is DUE from that run second. And what firing start number `m` does, by whatever moves mill
time. -/
def Obligations.BoundaryFires : Prop :=
  (∀ (s : State) (c : MillClock) (j : Nat), s.works = true → s.mill = some c → scheduleOk s.schedule = true →
    c.now.day < 65536 → c.now.second < 86400 →
    let start : MillTime := if c.now.second + 1 < 86400 then { day := c.now.day, second := c.now.second + 1 }
      else { day := (c.now.day + 1) % 65536, second := 0 }
    s.schedule[j]? = some start.second → 0 < difference c.lastFired start →
    let now := s.runSeconds + 1
    ∃ t, exec .secondEvent s = .next t ∧
      t = { s with
        runSeconds := now, tick := if now ≠ 0 ∧ now.toNat % 60 = 0 then ⟨true, true, true⟩ else s.tick
        mill := some { now := start, lastFired := start }, desks := t.desks, journal := t.journal
        nextSeq := s.nextSeq + 1, attention := t.attention, links := t.links } ∧
      (∃ e ∈ t.journal, e.seq = s.nextSeq ∧ e.mill = some start ∧ e.what =
        { kind := .shiftStart, d1 := some j, d2 := some (allDesks.filter (fun d => s.hasHolder d)).length }) ∧
      (∀ d, t.unit d = if s.hasHolder d then
          { s.unit d with due := some { time := s.runSeconds + 1, late := ((s.unit d).due.map (·.late)).getD false } }
        else s.unit d)) ∧
  ∀ (s : State) (m : Nat),
    let t := fireBoundary m s
    t = { s with
      mill := s.mill.map (fun c => { c with lastFired := startMill s.schedule m }), desks := t.desks
      journal := t.journal, nextSeq := s.nextSeq + 1, attention := t.attention, links := t.links } ∧
    t.records s.nextSeq { kind := .shiftStart, d1 := some (m % s.schedule.length)
                          d2 := some (allDesks.filter (fun d => s.hasHolder d)).length } ∧
    ∀ d, t.unit d = if s.hasHolder d then
        { s.unit d with due := some { time := s.runSeconds, late := ((s.unit d).due.map (·.late)).getD false } }
      else s.unit d

/-- A time mark (R168 to R172): SET, a mark held by HOLD while UNSET, FALSE in STRICT, a mark held while SET, and a TRIM
and a STEP, backward and forward. A forward one, and one with a D of 0, fires the last four of the starts it crosses,
after its entry if it has one, and its reply gives how many fired and how many were passed over. That the reply of class
SET carries no direction and a size of 0 is the model's reading, log 21; so is that a start is judged against the
boundary last fired before the event, log 22. And what the difference of two mill times is, the shorter way round the
cycle, half of it counting as negative (R165), and which start a first mark takes as last fired, the current shift's
(R166, R167, R169). -/
def Obligations.TimeMarks : Prop :=
  (∀ t u : MillTime,
    let apart : Int := ((u.day * 86400 + u.second : Nat) : Int) - ((t.day * 86400 + t.second : Nat) : Int)
    (difference t u - apart) % 5662310400 = 0 ∧ -2831155200 ≤ difference t u ∧ difference t u < 2831155200) ∧
  (∀ (schedule : List Nat) (m : MillTime), scheduleOk schedule = true → m.day < 65536 → m.second < 86400 →
    (∀ x, x ∈ schedule → x ≤ m.second → (∀ y ∈ schedule, y ≤ m.second → y ≤ x) →
      startTime schedule (currentStart schedule m) = { day := m.day, second := x }) ∧
    (∀ x, x ∈ schedule → (∀ y ∈ schedule, y ≤ x) → (∀ y ∈ schedule, m.second < y) →
      startTime schedule (currentStart schedule m) = { day := (m.day + 65535) % 65536, second := x })) ∧
  ∀ (s : State) (l : Link) (tag : Byte) (day second : Nat), s.commands l → day < 65536 → second < 86400 →
    let m : MillTime := { day := day, second := second }
    let sent := Instr.timeMark l tag (be 2 day ++ be 3 second)
    let answered (u : State) (body : List Byte) : Host.Outcome State Fault Refusal :=
      .next (u.replies l 14 tag 0 0 (body ++ [0, 0, 0]))
    (s.mill = none → s.timeHold = false →
      exec sent s = answered (enter { kind := .timeSet, d1 := some 1 } { s.listening l with
        mill := some { now := m, lastFired := startTime s.schedule (currentStart s.schedule m) } })
        ([1, 1, 255] ++ be 4 0)) ∧
    (s.mill = none → s.timeHold = true →
      exec sent s = answered (enter { kind := .timeSet, d1 := some 257 } (s.listening l)) ([1, 0, 255] ++ be 4 0)) ∧
    (∀ c, s.mill = some c →
      let x := difference c.now m
      let sign : Nat := if x < 0 then 1 else 0
      let entry (kind : Kind) (cls held : Nat) : Draft :=
        { kind := kind, d1 := some (512 * sign + 256 * held + cls), d2 := some (min 65535 x.natAbs) }
      let forward (cls : Byte) (moved : State) : Prop :=
        ∃ a b, a ≤ b ∧ (∀ n, (a ≤ n ∧ n < b) ↔ crossesStart s.schedule c x.natAbs n) ∧
          exec sent s = .next ((State.startsFire a b moved).replies l 14 tag 0 0 ([cls, 1, 0] ++ be 4 x.natAbs ++
            [byte (min 4 (b - a))] ++ be 2 (min 65535 (b - a - min 4 (b - a)))))
      (s.timeHold = true → x.natAbs ≤ 2 →
        exec sent s = answered (enter (entry .timeStep 2 1) (s.listening l)) ([2, 0, byte sign] ++ be 4 x.natAbs)) ∧
      (s.timeHold = true → 2 < x.natAbs → s.markMode = .follow →
        exec sent s = answered (enter (entry .timeStep 3 1) (s.listening l)) ([3, 0, byte sign] ++ be 4 x.natAbs)) ∧
      (2 < x.natAbs → s.markMode = .strict →
        exec sent s = answered (enter (entry .timeFalse 4 (if s.timeHold then 1 else 0)) (s.listening l))
          ([4, 0, byte sign] ++ be 4 x.natAbs)) ∧
      (s.timeHold = false → x < 0 → x.natAbs ≤ 2 →
        exec sent s = answered { s.listening l with mill := some { c with now := m } } ([2, 1, 1] ++ be 4 x.natAbs)) ∧
      (s.timeHold = false → x < 0 → 2 < x.natAbs → s.markMode = .follow →
        exec sent s = answered (enter (entry .timeStep 3 0) { s.listening l with mill := some { c with now := m } })
          ([3, 1, 1] ++ be 4 x.natAbs)) ∧
      (s.timeHold = false → 0 ≤ x → x.natAbs ≤ 2 → scheduleOk s.schedule = true →
        forward 2 { s.listening l with mill := some { c with now := m } }) ∧
      (s.timeHold = false → 0 ≤ x → 2 < x.natAbs → s.markMode = .follow → scheduleOk s.schedule = true →
        forward 3 (enter (entry .timeStep 3 0) { s.listening l with mill := some { c with now := m } })))

/-- The desk units' work at a minute tick (R144): every desk whose due time is the due grace or more ago is DUE_LATE, with
its entry when it was not so before; no other field of a desk changes. That the work is done on a mark of the tick and
clears it, so that a tick is worked once, is the model's choice, log 6. -/
def Obligations.DueLateTick : Prop :=
  ∀ s : State, s.works = true → s.tick.late = true → ∃ t, exec .dueLate s = .next t ∧
    t = { s with tick := { s.tick with late := false }, desks := t.desks, journal := t.journal, nextSeq := t.nextSeq
                 attention := t.attention, links := t.links } ∧
    t.nextSeq = s.nextSeq + BitVec.ofNat 32 (allDesks.filter (fun d => match (s.unit d).due with
      | some m => !m.late && decide (60 * s.limits.dueGrace ≤ (s.runSeconds - m.time).toNat)
      | none => false)).length ∧
    (∀ d m, (s.unit d).due = some m → m.late = false → 60 * s.limits.dueGrace ≤ (s.runSeconds - m.time).toNat →
      ∃ n, t.records n { kind := .dueLate, desk := some d, op := s.holder d, d1 := some s.limits.dueGrace }) ∧
    ∀ d, t.unit d = { s.unit d with
      due := (s.unit d).due.map (fun m =>
        { m with late := m.late || decide (60 * s.limits.dueGrace ≤ (s.runSeconds - m.time).toNat) }) }

/-! ### Attention and the journal (chapter 10) -/

/-- An entry joins the journal's end with the next sequence number and the stamps, the oldest going from a full ring
(R177, R178); the class that R181's table gives its kind (`Kind.row`), going from clear to pending while enabled, raises
a notice on both links (R184, R186; class numbers: `classFlag`). The state is otherwise as it was. A class set
pending by itself, as by SILENCE, does the same, and a notice raised marks both links and changes nothing else (R187).
And the codes of the 42 kinds are the table's. That no class counts as enabled while the global enable is off is the model's
reading, log 23. -/
def Obligations.EntryMade : Prop :=
  (∀ k : Kind, k.code = k.row.1) ∧
  ∀ (s : State) (w : Draft), s.JournalLawful →
    let t := enter w s
    (t.journal = (s.journal ++ [(⟨s.nextSeq, s.runSeconds, s.millNow, w⟩ : Entry)]).drop
      (s.journal.length + 1 - 2048)) ∧
    t.nextSeq = s.nextSeq + 1 ∧
    t = { s with journal := t.journal, nextSeq := t.nextSeq, attention := t.attention, links := t.links } ∧
    t.attention = { s.attention with pending := t.attention.pending } ∧
    (∀ l, t.link l = { s.link l with notice := (t.link l).notice }) ∧
    (∀ c : AttnClass, classFlag t.attention.pending c =
      (classFlag s.attention.pending c || decide (w.kind.row.2 = some c))) ∧
    (∀ l, (t.link l).notice = ((s.link l).notice ||
      (match w.kind.row.2 with
        | some c => !classFlag s.attention.pending c && s.attention.globalEnable && classFlag s.attention.enables c
        | none => false))) ∧
    (∀ c : AttnClass, let v := setPending c s
      v = { s with attention := { s.attention with pending := v.attention.pending }, links := v.links } ∧
      (∀ x : AttnClass, classFlag v.attention.pending x = (classFlag s.attention.pending x || decide (x = c))) ∧
      ∀ l, v.link l = { s.link l with notice := (s.link l).notice ||
        (!classFlag s.attention.pending c && s.attention.globalEnable && classFlag s.attention.enables c) }) ∧
    raiseNotice s = { s with links := (raiseNotice s).links } ∧
    ∀ l, (raiseNotice s).link l = { s.link l with notice := true }

/-- ATTN_CONTROL replaces the enables and the clear mode, keeps the pending flags, and raises a notice when it turns on the
notices of a pending class; ATTN_CLEAR clears the named flags (R185, R186, R188). STATUS reports and, in BY_STATUS mode
on the command link, clears the pending flags it reports (R189); its 106 bytes are R208's (`State.StatusLaid`), and the
shelf list behind its shelf count and earliest expiry is R108's (`State.ShelfListed`; expiries in order modulo 2^32 by the
model's reading, log 9). -/
def Obligations.AttentionFlags : Prop :=
  (∀ (s : State) (l : Link) (tag : Byte) (x : ClassSet) (g : Bool) (m : ClearMode), s.commands l →
     let a : Attention := { pending := s.attention.pending, enables := x, globalEnable := g, clearMode := m }
     let u := { s.listening l with attention := a }
     let code : Byte := match m with | .byCommand => 0 | .byStatus => 1
     let body := [x, yesNo g, code]
     ((g = true ∧ ∃ c : AttnClass, classFlag a.pending c = true ∧ classFlag x c = true ∧
         (s.attention.globalEnable = false ∨ classFlag s.attention.enables c = false)) →
       exec (.attnControl l tag body) s = .next ((raiseNotice u).replies l 19 tag 0 0 (a.pending :: body))) ∧
     ((g = false ∨ ∀ c : AttnClass, classFlag a.pending c = true → classFlag x c = true →
         s.attention.globalEnable = true ∧ classFlag s.attention.enables c = true) →
       exec (.attnControl l tag body) s = .next (u.replies l 19 tag 0 0 (a.pending :: body))) ∧
     exec (.attnClear l tag [x]) s =
       .next ({ s.listening l with attention :=
         { s.attention with pending := s.attention.pending &&& ~~~x } }.replies l 20 tag 0 0
           [s.attention.pending &&& ~~~x])) ∧
  (∀ (s : State) (l : Link) (tag : Byte), s.answers l →
     (s.attention.clearMode = .byStatus → s.commandLink = some l →
       exec (.status l tag []) s =
         .next ({ s.listening l with attention := { s.attention with pending := 0 } }.replies l 32 tag 0 0
           (statusBody (s.listening l)))) ∧
     (s.attention.clearMode = .byCommand ∨ s.commandLink ≠ some l →
       exec (.status l tag []) s = .next ((s.listening l).replies l 32 tag 0 0 (statusBody (s.listening l)))) ∧
     s.StatusLaid (statusBody s) ∧ s.ShelfListed s.shelfList)

/-- A link with a notice waiting that sends nothing sends ATTENTION with the classes pending and enabled, or drops the notice
when there are none (R187). When the last byte of a frame has gone the link sends the waiting notice first, then the
frame that has waited longest (R187, R193; notices first: log 11; that no class counts as enabled while the global
enable is off is the model's reading, log 23). The same is the opportunity to send that a link with nothing to send takes
before a frame is served on it, and a link that sends has none. The bytes on the wire are the frame's, the two sums of its length, type,
tag and body last (R192, R205). -/
def Obligations.LinkSends : Prop :=
  (∀ (s : State) (l : Link), s.works = true →
     ((s.link l).notice = true → (s.link l).sending = none →
       (s.noticeClasses ≠ 0 → exec (.attention l) s = .next (s.putLink l { s.link l with
         notice := false
         sending := some { role := .attention, type := 241, tag := 0, body := [s.noticeClasses] } })) ∧
       (s.noticeClasses = 0 → (s.link l).waiting = [] →
         exec (.attention l) s = .next (s.putLink l { s.link l with notice := false }))) ∧
     ((s.link l).notice = false ∨ (s.link l).sending ≠ none → exec (.attention l) s = .next s)) ∧
  (∀ (s : State) (l : Link) (f : OutFrame), s.works = true → (s.link l).sending = some f → f.role ≠ .resetReply →
     ((s.link l).notice = true → s.noticeClasses ≠ 0 →
       exec (.frameSendComplete l) s = .next (s.putLink l { s.link l with
         notice := false
         sending := some { role := .attention, type := 241, tag := 0, body := [s.noticeClasses] } })) ∧
     ((s.link l).notice = false ∨ s.noticeClasses = 0 →
       exec (.frameSendComplete l) s = .next (s.putLink l { s.link l with
         notice := false, sending := (s.link l).waiting.head?, waiting := (s.link l).waiting.tail }))) ∧
  (∀ (s : State) (l : Link),
     (∀ f, (s.link l).sending = some f →
       let checked : List Byte := byte f.body.length :: f.type :: f.tag :: f.body
       let sums := checked.foldl (fun (x : Nat × Nat) b =>
         ((x.1 + b.toNat) % 255, (x.2 + (x.1 + b.toNat) % 255) % 255)) (0, 0)
       s.onWire l = 0xA5 :: (checked ++ [byte sums.1, byte sums.2])) ∧
     ((s.link l).sending = none → s.onWire l = []) ∧
     s.noticeClasses = (if s.attention.globalEnable then s.attention.pending &&& s.attention.enables else 0) ∧
     (∀ f, (s.link l).sending = some f → takeOpportunity l s = s) ∧
     ((s.link l).sending = none →
       ((s.link l).notice = true → s.noticeClasses ≠ 0 →
         takeOpportunity l s = s.putLink l { s.link l with
           notice := false
           sending := some { role := .attention, type := 241, tag := 0, body := [s.noticeClasses] } }) ∧
       ((s.link l).notice = false ∨ s.noticeClasses = 0 →
         takeOpportunity l s = s.putLink l { s.link l with
           notice := false, sending := (s.link l).waiting.head?, waiting := (s.link l).waiting.tail })))

/-- The queries are served on either link without a change but for the link's own (R25, R49, R97, R176, R182, R209). The
entries a JOURNAL_READ returns of a lawful journal, by where its from-sequence lies (R182), and the bytes of every reply
to these queries (R206, R208, R209; Safety.lean's layouts). That the oldest number of a journal with no entry retained
is the next number is the model's reading, log 32; so are what is shown for absent items, logs 21 and 27, and the next start
while mill time lies behind the last fired boundary, log 31. -/
def Obligations.QueriesAnswered : Prop :=
  (∀ (s : State) (l : Link) (tag : Byte), s.answers l →
     (∀ t : Tag, exec (.pointRead l tag (be 2 t.val)) s =
       .next ((s.listening l).replies l 33 tag 0 0 (pointReadBody s t))) ∧
     (∀ (t : Target) (start count : Nat), start < 65536 → count < 256 →
       exec (.listRead l tag (byte t.code :: (be 2 start ++ [byte count]))) s =
         .next ((s.listening l).replies l 34 tag 0 0 (listReadBody s t start (max 1 (min 16 count))))) ∧
     (∀ (from_ : Word32) (count : Nat), count < 256 →
       exec (.journalRead l tag (be 4 from_.toNat ++ [byte count])) s =
         .next ((s.listening l).replies l 35 tag 0 0 (journalReadBody s from_ (max 1 (min 4 count))))) ∧
     (∀ d : Desk, exec (.deskRead l tag [byte d.code, 0]) s =
         .next ((s.listening l).replies l 36 tag 0 0 (deskPart0 s d)) ∧
       exec (.deskRead l tag [byte d.code, 1]) s = .next ((s.listening l).replies l 36 tag 0 0 (deskPart1 s d))) ∧
     (∀ i : OpIndex, exec (.operatorRead l tag [byte i.val]) s =
       .next ((s.listening l).replies l 37 tag 0 0 (operatorReadBody s i))) ∧
     exec (.timeRead l tag []) s = .next ((s.listening l).replies l 38 tag 0 0 (timeReadBody s))) ∧
  (∀ s : State,
     (s.JournalLawful → s.journal ≠ [] → ∀ n, n < s.journal.length →
       journalFrom s (s.nextSeq - BitVec.ofNat 32 (s.journal.length - n)) = s.journal.drop n) ∧
     (s.JournalLawful → ∀ n, n < 2147483647 → journalFrom s (s.nextSeq + BitVec.ofNat 32 n) = []) ∧
     (s.JournalLawful → ∀ from_ : Word32,
       s.journal.length ≤ (from_ - (s.nextSeq - BitVec.ofNat 32 s.journal.length)).toNat →
       2147483648 ≤ (from_ - (s.nextSeq - 1)).toNat → journalFrom s from_ = s.journal) ∧
     (∀ t, s.PointReadLaid t (pointReadBody s t)) ∧
     (∀ t start count, start < 65536 → count ≤ 16 → (s.attentionList t).length ≤ 1024 →
       s.ListReadLaid t start count (listReadBody s t start count)) ∧
     (s.JournalLawful → ∀ (from_ : Word32) (count : Nat), count ≤ 4 →
       s.JournalReadLaid ((journalFrom s from_).take count) (journalReadBody s from_ count)) ∧
     (∀ d, s.DeskReadLaid d (deskPart0 s d) ∧
       ((s.carried d).length ≤ 32 → s.CarriedReadLaid d (deskPart1 s d))) ∧
     (∀ i, s.OperatorReadLaid i (operatorReadBody s i)) ∧
     (scheduleOk s.schedule = true → s.TimeReadLaid (timeReadBody s)))

/-! ### Settings and the store (chapter 11) -/

/-- SET_SCHEDULE replaces the schedule, mark mode and HOLD and keeps the last fired boundary (R174, R204), whatever
bytes stand for the starts beyond the number given (R204, R206); a schedule is one to four seconds of day, rising
(R166). SET_FLASH stages and SET_LIMITS puts in force, the flood pair held, their values clamped, each against the
values already clamped; a flood-off value not below the clamped flood-on value refuses the whole SET_LIMITS with
BAD_FIELD (R59, R146, R203). -/
def Obligations.SettingsReplaced : Prop :=
  ∀ (s : State) (l : Link) (tag : Byte), s.commands l →
    (∀ starts : List Nat, scheduleOk starts = true ↔
      1 ≤ starts.length ∧ starts.length ≤ 4 ∧ (∀ x ∈ starts, x < 86400) ∧ starts.Pairwise (· < ·)) ∧
    (∀ (starts : List Nat) (m : MarkMode) (hold : Bool) (pad : List Byte), scheduleOk starts = true →
      pad.length = 3 * (4 - starts.length) →
      exec (.setSchedule l tag ([byte starts.length] ++ starts.flatMap (be 3) ++ pad ++
          [(match m with | .strict => 0 | .follow => 1), yesNo hold])) s =
        .next ({ s.listening l with schedule := starts, markMode := m, timeHold := hold }.replies l 15 tag 0 0 [])) ∧
    (∀ c df da g : Nat, c < 256 → df < 256 → da < 256 → g < 256 →
      let c' := max 20 (min 200 c)
      let f : Flash := { c := c', df := max 1 (min c' df), da := max 1 (min (c' / 2) da), g := min 15 g }
      exec (.setFlash l tag [byte c, byte df, byte da, byte g]) s =
        .next ({ s.listening l with staged := some f }.replies l 18 tag 0 0
          [byte f.c, byte f.df, byte f.da, byte f.g]) ∧ f.Lawful) ∧
    (∀ up down a b c : Nat, up < 65536 → down < 65536 → a < 256 → b < 256 → c < 256 →
      let body := be 2 up ++ be 2 down ++ [byte a, byte b, byte c]
      let up' := max 16 (min 4095 up)
      let x : Limits := { flood := s.limits.flood, handoverLimit := max 1 (min 30 a), dueGrace := min 120 b
                          silenceTime := max 2 (min 60 c) }
      (up' ≤ down → exec (.setLimits l tag body) s = .next ((s.listening l).replies l 17 tag 2 0 [])) ∧
      (down < up' → exec (.setLimits l tag body) s =
        .next ({ s.listening l with limits := x, heldFlood := some ⟨up', down⟩ }.replies l 17 tag 0 0
          (be 2 up' ++ be 2 down ++ [byte x.handoverLimit, byte x.dueGrace, byte x.silenceTime]))))

/-- SET_DESK (R42, R161, R202): the configuration is replaced, the supervisor setting follows and routing is worked
out; a second supervisor desk is refused, whatever the service setting. Taking a desk out of service (R94, R40, R67,
R138): an open handover is aborted with HANDOVER_ABORT of reason 5, then its keys are signed off with SIGN_OFF of
cause 3, slot A first (an operator in HANDOVER_REVIEW being INCOMING in its slot, as `StepKeepsOwnership` says), and
unpowered, its areas released with their AREA entries, its handover and DUE gone; returned, it is VACANT and a seated
key settles afresh. Routing is worked out once at the end (the desks among themselves: log 14). -/
def Obligations.DeskConfigured : Prop :=
  (∀ (s : State) (l : Link) (tag : Byte) (d : Desk) (sup : Bool) (home : AreaSet) (tone hold : Nat),
     s.commands l → tone ≤ 7 → hold < 256 →
     let hold' := max 1 (min 15 hold)
     let sent (serve : Bool) : Instr :=
       .setDesk l tag ([byte d.code, yesNo serve, yesNo sup] ++ areaSetBytes home ++ [byte tone, byte hold])
     ((∃ e, s.supervisor = some e ∧ e ≠ d) → sup = true → ∀ serve : Bool,
       exec (sent serve) s = .next ((s.listening l).replies l 16 tag 4 12 [])) ∧
     ((∀ e, s.supervisor = some e → e = d) ∨ sup = false → ∀ serve : Bool,
       (serve = true ↔ (s.unit d).state ≠ .outOfService) →
       exec (sent serve) s = .next ((reroute s ({ s.listening l with
         supervisor := if sup then some d else if s.supervisor = some d then none else s.supervisor }.putUnit d
           { s.unit d with home := home, tone := tone, hornHold := hold' })).replies l 16 tag 0 0 [byte hold']))) ∧
  (∀ (s : State) (l : Link) (tag : Byte) (d : Desk) (sup : Bool) (home : AreaSet) (tone hold : Nat),
     s.commands l → tone ≤ 7 → hold < 256 → tableWf s.owners = true →
     ((∀ e, s.supervisor = some e → e = d) ∨ sup = false) →
     let body (serve : Byte) := [byte d.code, serve, yesNo sup] ++ areaSetBytes home ++ [byte tone, byte hold]
     let hold' := max 1 (min 15 hold)
     let u := { s.listening l with
       supervisor := if sup then some d else if s.supervisor = some d then none else s.supervisor }
     let configured (st : DeskState) (a b : SlotState) : DeskUnit :=
       { s.unit d with
         state := st, slotA := { s.slot d .a with state := a }, slotB := { s.slot d .b with state := b }, home := home
         tone := tone, hornHold := hold' }
     let unpowered (st : SlotState) : SlotState := match st with
       | .empty => .empty
       | .oneContact => .oneContact
       | _ => .unpowered
     let powered (st : SlotState) : SlotState := match st with
       | .unpowered => .settling
       | st => st
     let aborted : Word32 := if s.inHandover d then 1 else 0
     let signedOff (k : SlotId) (op : OpIndex) : Draft :=
       { kind := .signOff, desk := some d, op := some op, d1 := some (256 * k.code + 3) }
     ((s.unit d).state ≠ .outOfService → ∃ t,
       exec (.setDesk l tag (body 0)) s = .next (t.replies l 16 tag 0 0 [byte hold']) ∧
       State.RoutedAround d (t.unit d) s u t ∧
       t.unit d = { configured .outOfService (unpowered (s.slot d .a).state) (unpowered (s.slot d .b).state) with
         due := none } ∧
       (∀ a, t.owner a = if s.owner a = some d then none else s.owner a) ∧
       (∀ h, (s.unit d).state.handover? = some h →
         t.records s.nextSeq { kind := .handoverAbort, desk := some d, op := some h.outgoing, d1 := some 5
                               d2 := some h.carried.length }) ∧
       ((∀ k h inc, (s.unit d).state = .handoverReview k h inc → s.resultAt d k.other = some (.incoming inc)) →
         (∀ op, s.signedOn d .a = some op → t.records (s.nextSeq + aborted) (signedOff .a op)) ∧
         ∀ op, s.signedOn d .b = some op →
           t.records (s.nextSeq + aborted + (if (s.signedOn d .a).isSome then 1 else 0)) (signedOff .b op)) ∧
       ∀ a, s.owner a = some d → ∃ m, t.records m { kind := .area, d1 := some a.val, d2 := some d.code }) ∧
     ((s.unit d).state = .outOfService → ∃ t,
       exec (.setDesk l tag (body 1)) s = .next (t.replies l 16 tag 0 0 [byte hold']) ∧
       State.RoutedAround d (t.unit d) s u t ∧
       t.unit d = configured .vacant (powered (s.slot d .a).state) (powered (s.slot d .b).state) ∧
       t.owners = s.owners ∧ t.journal = s.journal))

/-- STORE_SAVE takes a snapshot of every setting and starts the write, and is answered BUSY while one is in flight; the
write's end makes the store VALID with the snapshot, or INVALID (R201). -/
def Obligations.StoreSaves : Prop :=
  ∀ (s : State) (l : Link) (tag : Byte),
    let records : Table 1024 StoredPoint := s.points.filterMap (fun e =>
      match e.2.origin with
      | .configured => some (e.1, { area := e.2.area, base := e.2.base, step := e.2.step, shelvable := e.2.shelvable })
      | .provisional => none)
    let image : Image :=
      { points := records, operators := s.operators
        desks := PerDesk.of (fun d =>
          { inService := decide ((s.unit d).state ≠ .outOfService), home := (s.unit d).home, tone := (s.unit d).tone
            hornHold := (s.unit d).hornHold })
        supervisor := s.supervisor, flash := s.staged.getD s.flash, schedule := s.schedule, markMode := s.markMode
        timeHold := s.timeHold, limits := { s.limits with flood := s.heldFlood.getD s.limits.flood }
        clearMode := s.attention.clearMode }
    (s.commands l →
      (s.store = .valid ∨ s.store = .invalid →
        exec (.storeSave l tag []) s =
          .next ({ s.listening l with store := .writing image }.replies l 21 tag 0 0
            (be 2 records.length ++ [byte s.operators.length]))) ∧
      (∀ i, s.store = .writing i →
        exec (.storeSave l tag []) s = .next ((s.listening l).replies l 21 tag 5 0 []))) ∧
    (s.works = true → ∀ i, s.store = .writing i →
      exec (.storeWriteComplete true) s =
        .next (enter { kind := .storeSaved, d1 := some 1, d2 := some i.points.length }
          { s with store := .valid, image := some i }) ∧
      exec (.storeWriteComplete false) s =
        .next (enter { kind := .storeSaved, d1 := some 2, d2 := some i.points.length }
          { s with store := .invalid, image := none }))

/-! ### Supervisory links (chapters 11 and 12) -/

/-- The bytes of a frame, arriving one by one on a hunting receiver, are the command its type names (R191, R192, R193,
R205, R208). And the field conventions (R206): the numbers of a body have their most significant byte first; byte `j` of
an area set covers areas 8j to 8j + 7, area `a` at bit a mod 8. -/
def Obligations.FrameReceived : Prop :=
  ((∀ (len n : Nat), (be len n).length = len ∧ num (be len n) = n % 256 ^ len) ∧ num [] = 0 ∧
   (∀ (body : List Byte) (x : Byte), num (body ++ [x]) = 256 * num body + x.toNat) ∧
   (∀ set : AreaSet, (areaSetBytes set).length = 8 ∧ areaSetOf (areaSetBytes set) = set) ∧
   ∀ (bytes : List Byte) (a : Area), bytes.length = 8 →
     inSet (areaSetOf bytes) a = (bytes.getD (a.val / 8) 0).getLsbD (a.val % 8)) ∧
  ∀ (s : State) (l : Link) (type tag : Byte) (body : List Byte), body.length ≤ 120 →
    s.phase = .running → (s.link l).receiver = .hunting →
    receiveAll l (frameBytes type tag body) s = exec (frameCommand l type tag body) s

/-- A frame whose check bytes are wrong, or whose length byte exceeds 120, leaves the receiver hunting and nothing changed;
bytes that are no start byte are skipped; a rejected frame and a gap of more than 20 ms leave the receiver hunting (R191,
R192). That FRAME_CHECK_FAILED does so whatever bytes have been collected is the model's choice, log 25. -/
def Obligations.DamagedFrameDropped : Prop :=
  (∀ (s : State) (l : Link), s.works = true → (s.link l).receiver = .hunting →
     (∀ (type tag x y : Byte) (body : List Byte), body.length ≤ 120 →
       [x, y] ≠ checkBytes (byte body.length :: type :: tag :: body) →
       receiveAll l (0xA5 :: byte body.length :: type :: tag :: (body ++ [x, y])) s = .next s) ∧
     (∀ n : Byte, 120 < n.toNat → receiveAll l [0xA5, n] s = .next s) ∧
     (∀ b : Byte, b ≠ 0xA5 → exec (.receiverTakesByte l b) s = .next s) ∧
     exec (.receiverTakesByte l 0xA5) s = .next (s.putLink l { s.link l with receiver := .inside [] })) ∧
  (∀ (s : State) (l : Link), s.works = true →
     exec (.frameCheckFailed l) s = .next (s.putLink l { s.link l with receiver := .hunting }) ∧
     exec (.frameByteGapTimeout l) s = .next (s.putLink l { s.link l with receiver := .hunting }))

/-- A request whose body has not its type's length is answered BAD_FIELD, and so is one with a value outside the range or
the codes that its type's rule gives (`outOfRange`); a frame of an unaccepted type is answered BAD_TYPE, a command on the
link that is not the command link NOT_COMMAND_LINK; none changes anything but the link and the silence timer (R17, R39,
R49, R82, R168, R185, R193, R195, R202, R204, R206, R208, R209). That NOT_COMMAND_LINK comes before the
test of the body is the model's reading, log 30, and that UNACCEPTED_TYPE_FRAME is answered BAD_TYPE whatever its type
operand its choice, log 25. -/
def Obligations.BadRequestsAnswered : Prop :=
  (∀ (s : State) (l : Link) (type tag : Byte) (body : List Byte),
     (s.commands l → (commandType type = true ∨ type = 22) → body.length ≠ requestLength type →
       exec (frameCommand l type tag body) s = .next ((s.listening l).replies l type tag 2 0 [])) ∧
     (s.answers l → queryType type = true → body.length ≠ requestLength type →
       exec (frameCommand l type tag body) s = .next ((s.listening l).replies l type tag 2 0 [])) ∧
     (s.answers l →
       exec (.unacceptedTypeFrame l type tag body) s = .next ((s.listening l).replies l type tag 1 0 [])) ∧
     (acceptedType type = false → frameCommand l type tag body = .unacceptedTypeFrame l type tag body)) ∧
  (∀ (s : State) (l c : Link) (type tag : Byte) (body : List Byte), s.canTake l → s.commandLink = some c → c ≠ l →
     commandType type = true →
     exec (frameCommand l type tag body) s = .next ((s.listening l).replies l type tag 3 0 [])) ∧
  (∀ (s : State) (l : Link) (type tag : Byte) (body : List Byte), body.length = requestLength type →
     outOfRange type body →
     (s.commands l → commandType type = true →
       exec (frameCommand l type tag body) s = .next ((s.listening l).replies l type tag 2 0 [])) ∧
     (s.answers l → queryType type = true →
       exec (frameCommand l type tag body) s = .next ((s.listening l).replies l type tag 2 0 [])))

/-- While four taken frames wait on a link a fifth is answered BUSY and not taken, whatever its type; on the command
link in LOCAL it leaves LOCAL with LINK_BACK and the seconds spent there, and routing is worked out (R197; the desks
among themselves: log 14); a further one before that reply has gone is discarded (R193). No frame is taken in reset, in
the start-up hold or after an accepted RESET (R198, R199). That the fifth frame restarts the silence timer, leaves LOCAL
and latches nothing, and that the discarded one does none of these, is the model's reading, log 12; that a frame after
an accepted RESET is not heard at all is log 26. -/
def Obligations.FifthFrame : Prop :=
  ∀ (s : State) (l : Link) (type tag : Byte) (body : List Byte),
    (s.phase = .running → 4 ≤ (s.link l).taken →
      ((s.link l).busyCount = 0 →
        let u := s.listening l
        let busy : OutFrame := { role := .busyReply, type := 128 + type % 128, tag := tag, body := [5, 0] }
        ((∀ lostAt, s.command ≠ .lost l lostAt) → exec (frameCommand l type tag body) s = .next (u.sends l busy)) ∧
        ∀ lostAt, s.command = .lost l lostAt →
          exec (frameCommand l type tag body) s = .next ((reroute u (enter
            { kind := .linkBack, d1 := some l.code, d2 := some (min 65535 (s.runSeconds - lostAt).toNat) }
            { u with command := .latched l (s.runSeconds + BitVec.ofNat 32 s.limits.silenceTime) })).sends l busy)) ∧
      (0 < (s.link l).busyCount →
        exec (frameCommand l type tag body) s = .next (s.putLink l { s.link l with receiver := .hunting }))) ∧
    (s.phase ≠ .running → exec (frameCommand l type tag body) s = .next s)

/-- The command-link latch (R195 to R197): TAKE_COMMAND latches a first link, moves the latch in LOCAL, is accepted on the
command link, where in LOCAL it leaves LOCAL with LINK_BACK, and refused NOT_LOCAL elsewhere; the latch starts the silence
timer, and routing is worked out as LOCAL is left. The first command of any type latches its link with TAKE_COMMAND of
detail 1, and the next frame of any type on the command link leaves LOCAL with LINK_BACK; the frame is then carried out and
answered as on a link already latched (R195, R197), where the other statements say what it does. That a command which may
itself change routing (types 3, 4, 5 and 16) has routing worked out once, at the end of the event, over the targets before
it, is the model's reading, log 13; that a move leaves the frames already taken on the former command link, and their
unsent replies, as they are is its choice, log 34. -/
def Obligations.CommandLinkTaken : Prop :=
  (∀ (s : State) (l : Link) (tag : Byte), s.canTake l →
     let u := s.listening l
     let taken (how : Nat) : State := reroute u (enter { kind := .takeCommand, d1 := some l.code, d2 := some how }
       { u with command := .latched l (s.runSeconds + BitVec.ofNat 32 s.limits.silenceTime) })
     (s.command = .unlatched → exec (.takeCommand l tag []) s = .next ((taken 1).replies l 22 tag 0 0 [])) ∧
     (∀ c t, s.command = .lost c t → c ≠ l →
       exec (.takeCommand l tag []) s = .next ((taken 2).replies l 22 tag 0 0 [])) ∧
     (∀ t, s.command = .latched l t → exec (.takeCommand l tag []) s = .next (u.replies l 22 tag 0 0 [])) ∧
     (∀ lostAt, s.command = .lost l lostAt →
       exec (.takeCommand l tag []) s = .next ((reroute u (enter
         { kind := .linkBack, d1 := some l.code, d2 := some (min 65535 (s.runSeconds - lostAt).toNat) }
         { u with command := .latched l (s.runSeconds + BitVec.ofNat 32 s.limits.silenceTime) })).replies
           l 22 tag 0 0 [])) ∧
     (∀ c t, s.command = .latched c t → c ≠ l →
       exec (.takeCommand l tag []) s = .next (u.replies l 22 tag 4 13 []))) ∧
  (∀ (s : State) (l : Link) (type tag : Byte) (body : List Byte), s.canTake l → s.command = .unlatched →
     (commandType type = true ∨ type = 22) →
     ∃ t, exec (frameCommand l type tag body) s = .next t ∧
       t.command = .latched l (s.runSeconds + BitVec.ofNat 32 s.limits.silenceTime) ∧ t.isLocal = false) ∧
  (∀ (s : State) (l : Link) (type tag : Byte) (body : List Byte) (first : Draft), s.canTake l →
     (s.command = .unlatched ∧ (commandType type = true ∨ type = 22) ∧
         first = { kind := .takeCommand, d1 := some l.code, d2 := some 1 } ∨
       ∃ lostAt, s.command = .lost l lostAt ∧
         first = { kind := .linkBack, d1 := some l.code, d2 := some (min 65535 (s.runSeconds - lostAt).toNat) }) →
     let sent := frameCommand l type tag body
     let u := s.listening l
     let latched := enter first { u with command := .latched l (s.runSeconds + BitVec.ofNat 32 s.limits.silenceTime) }
     let aside (v : State) : State := v.putLink l { v.link l with notice := false }
     let restored (v t : State) : State :=
       t.putLink l { t.link l with notice := (v.link l).notice || (t.link l).notice }
     latched.records s.nextSeq first ∧ (aside latched).commands l ∧ (aside (reroute u latched)).commands l ∧
     (type ∉ ([3, 4, 5, 16] : List Byte) → ∃ t, exec sent (aside (reroute u latched)) = .next t ∧
       exec sent s = .next (restored (reroute u latched) t)) ∧
     (type ∈ ([3, 4, 5, 16] : List Byte) → ∃ x status reason reply,
       exec sent (aside latched) = .next ((reroute latched x).replies l type tag status reason reply) ∧
       exec sent s = .next ((reroute u (restored latched x)).replies l type tag status reason reply) ∧
       (tableWf s.owners = true → s.CarriedLawful → (reroute u (restored latched x)).records s.nextSeq first)))

/-- The silence timer's expiry enters LOCAL with LINK_LOST (R197), and the next well-formed frame on that link, here a
TIME_READ, leaves it with LINK_BACK and the seconds spent in LOCAL. That LINK_LOST's second detail is the silence time in
force at the event is the model's reading, log 32. -/
def Obligations.LinkLostAndBack : Prop :=
  ∀ (s : State) (l : Link),
    (s.works = true → ∀ expiry, s.command = .latched l expiry → s.runSeconds = expiry →
      exec .linkLost s = .next (reroute s (enter { kind := .linkLost, d1 := some l.code
                                                   d2 := some s.limits.silenceTime }
        { s with command := .lost l s.runSeconds }))) ∧
    (∀ lostAt tag, s.canTake l → s.command = .lost l lostAt →
      let u := s.listening l
      let v := reroute u (enter { kind := .linkBack, d1 := some l.code
                                  d2 := some (min 65535 (s.runSeconds - lostAt).toNat) }
        { u with command := .latched l (s.runSeconds + BitVec.ofNat 32 s.limits.silenceTime) })
      exec (.timeRead l tag []) s = .next (v.replies l 38 tag 0 0 (timeReadBody v)))

/-! ### Resets and start-up (chapter 11) -/

/-- RESET is answered, the part takes no further frame, and resets when the reply has gone (R198). POWER_ON, SUPPLY_LOW,
RESET_PIN and RESET_END (R198 to R201): a reset leaves everything, desk units, lamps and configuration included, at its
value after reset but the contact pins, the level of the reset input, the store image, which a write in flight spoils,
and the waiting commands. RESET_PIN asserts the reset input, and a POWER_ON while it is asserted leaves the part in
reset with the new cause (R198). That any other POWER_ON, and RESET, start the hold at once, and that RESET_END releases
the reset input, is the model's reading, log 17; that a reset keeps the pins is its choice, log 4, that it keeps the
level of the reset input log 36, that it keeps the waiting commands logs 5 and 29, and that RESET_END outside a reset
changes nothing log 6. -/
def Obligations.Resets : Prop :=
  ∀ s : State,
    let afterReset (ph : Phase) : State := { State.reset with
      phase := ph
      resetInput := s.resetInput
      desks := PerDesk.of (fun d => { State.reset.unit d with
        slotA := { Slot.atReset with pins := (s.slot d .a).pins }
        slotB := { Slot.atReset with pins := (s.slot d .b).pins } })
      image := (match s.store with
        | .writing _ => none
        | .valid | .invalid => s.image)
      pending := s.pending }
    (∀ (l : Link) (tag : Byte), s.commands l → exec (.reset l tag []) s =
      .next ({ s.listening l with phase := .closing }.sends l
        { role := .resetReply, type := 151, tag := tag, body := [0, 0] })) ∧
    (∀ (l : Link) (f : OutFrame), s.works = true → (s.link l).sending = some f → f.role = .resetReply →
      exec (.frameSendComplete l) s = .next (afterReset (.hold .resetCommand))) ∧
    (s.resetInput = false → exec .powerOn s = .next (afterReset (.hold .powerOn))) ∧
    (s.resetInput = true → exec .powerOn s = .next (afterReset (.inReset .powerOn))) ∧
    exec .resetPin s = .next { afterReset (.inReset .resetPin) with resetInput := true } ∧
    (s.works = true → exec .supplyLow s = .next (afterReset (.inReset .supplyLow))) ∧
    (∀ c, s.phase = .hold c → exec .supplyLow s = .next { s with phase := .hold .supplyLow }) ∧
    (∀ c, s.phase = .inReset c → exec .supplyLow s = .next { s with phase := .inReset .supplyLow }) ∧
    (∀ c, s.phase = .inReset c → exec .resetEnd s = .next { s with phase := .hold c, resetInput := false }) ∧
    ((∀ c, s.phase ≠ .inReset c) → exec .resetEnd s = .next s)

/-- The end of the start-up hold (R79, R147, R180, R199, R200, R5): the part runs from second 0 with every setting of
the store, or the factory defaults under an image that fails its check, and the rest of its state as after reset; the
slots take their contacts as they stand, the first cycle start chooses the lamps and leaves the horn silent; RESTART is
the first entry and sets no class, STORE_INVALID the second if the image was invalid, setting STORE and leaving the
notice of both links waiting, so that ATTENTION follows HELLO (R187), while with a valid image none waits; both links
send HELLO. That the waiting commands (logs 5 and 29), the level of the reset input (log 36) and the contact pins (log
4) are as they were, and that no work of a minute tick is left (log 6), is the model's choice. -/
def Obligations.StartUp : Prop :=
  ∀ (s : State) (cause : ResetCause), s.phase = .hold cause → ∃ t, exec .startupHoldEnd s = .next t ∧
    t.phase = .running ∧ t.runSeconds = 0 ∧ t.mill = none ∧ t.command = .unlatched ∧ t.owners = [] ∧
    t.pending = s.pending ∧ t.resetInput = s.resetInput ∧ t.tick = ⟨false, false, false⟩ ∧ t.heldFlood = none ∧ t.staged = none ∧ t.position = 0 ∧
    t.attention.enables = 0xFF ∧ t.attention.globalEnable = true ∧ (∀ d, (t.unit d).due = none) ∧
    (∀ x, t.loadOf x = ⟨0, 0, false⟩) ∧ (∀ l, t.eventLink l = ⟨[], false, none⟩) ∧
    t.horn = State.reset.horn ∧
    (∀ d, (t.unit d).lamps = if (t.unit d).state = .outOfService then ⟨.off, .off, .off, .off, .off⟩
      else ⟨.off, .off, .off, .off, .flash⟩) ∧
    (∀ d k, (t.slot d k).pins = (s.slot d k).pins ∧ (t.slot d k).contacts = (s.slot d k).pins ∧
      (t.slot d k).state = match (s.slot d k).pins with
        | ⟨false, false⟩ => .empty
        | ⟨true, true⟩ => if (t.unit d).state = .outOfService then .unpowered else .settling
        | _ => .oneContact) ∧
    (∀ l, (t.link l).receiver = .hunting ∧ (t.link l).waiting = []) ∧
    (∀ l, (t.link l).sending = some
      { role := .hello, type := 240, tag := 0
        body := [byte cause.code, yesNo (decide (t.store = .valid)), 12, 88, 1] }) ∧
    (∃ e ∈ t.journal, e.seq = 1 ∧ e.what = { kind := .restart, d1 := some cause.code }) ∧
    (∀ image, s.image = some image → (∀ i, s.store ≠ .writing i) →
      t.store = .valid ∧ t.nextSeq = 2 ∧ t.attention.pending = 0 ∧ (∀ l, (t.link l).notice = false) ∧
      t.operators = image.operators ∧ t.supervisor = image.supervisor ∧
      t.flash = image.flash ∧ t.schedule = image.schedule ∧ t.limits = image.limits ∧ t.markMode = image.markMode ∧
      t.timeHold = image.timeHold ∧ t.attention.clearMode = image.clearMode ∧
      (∀ d, (t.unit d).state = (if (image.desks.get d).inService then .vacant else .outOfService) ∧
        (t.unit d).home = (image.desks.get d).home ∧ (t.unit d).tone = (image.desks.get d).tone ∧
        (t.unit d).hornHold = (image.desks.get d).hornHold) ∧
      ∀ x, t.point x = (tableGet image.points x).map (fun c =>
        { origin := .configured, area := c.area, base := c.base, step := c.step, shelvable := c.shelvable
          state := .normal, active := false, effective := c.base, silenced := false, repeats := 0, lastAck := none })) ∧
    (s.image = none ∨ (∃ i, s.store = .writing i) →
      t.store = .invalid ∧ t.nextSeq = 3 ∧ t.records 2 { kind := .storeInvalid } ∧ t.attention.pending = 0x80 ∧
      (∀ l, (t.link l).notice = true) ∧
      t.points = [] ∧ t.operators = [] ∧ t.supervisor = none ∧
      t.flash = ⟨100, 50, 50, 0⟩ ∧ t.schedule = [21600, 50400, 79200] ∧ t.markMode = .strict ∧ t.timeHold = false ∧
      t.limits = { flood := ⟨160, 96⟩, handoverLimit := 10, dueGrace := 30, silenceTime := 10 } ∧
      t.attention.clearMode = .byCommand ∧
      ∀ d, (t.unit d).state = .vacant ∧ (t.unit d).tone = d.code ∧ (t.unit d).hornHold = 2 ∧ (t.unit d).home = 0)
end

