-- ==== Sys2Proof/Laws/Bodies.lean ====
section
/-! SUPPORT. Reading the bodies of requests (R206, R208): what each layout reads from the bytes that spell its fields. -/

namespace Sys2Proof.Machine

@[simp] theorem byte_toNat (n : Nat) : (byte n).toNat = n % 256 := by simp [byte]

theorem be_two (n : Nat) : be 2 n = [byte (n / 256), byte n] := by simp [be, byte]

theorem be_three (n : Nat) : be 3 n = [byte (n / 65536), byte (n / 256), byte n] := by
  simp [be, byte, Nat.div_div_eq_div_mul]

theorem be_four (n : Nat) : be 4 n = [byte (n / 16777216), byte (n / 65536), byte (n / 256), byte n] := by
  simp [be, byte, Nat.div_div_eq_div_mul]

@[simp] theorem be_length (len n : Nat) : (be len n).length = len := by
  induction len generalizing n with
  | zero => rfl
  | succ k ih => simp [be, ih]

theorem num_append (xs ys : List Byte) : num (xs ++ ys) = num xs * 256 ^ ys.length + num ys := by
  induction ys using List.reverseRecOn with
  | nil => simp [num]
  | append_singleton ys y ih =>
    simp only [num, ← List.append_assoc, List.foldl_append, List.foldl_cons, List.foldl_nil] at ih ⊢
    rw [ih]
    simp only [List.length_append, List.length_singleton, pow_succ]
    ring

/-- Bytes that spell a number spell it modulo their span (R206). -/
theorem num_be (len n : Nat) : num (be len n) = n % 256 ^ len := by
  induction len generalizing n with
  | zero => simp [be, num, Nat.mod_one]
  | succ k ih =>
    rw [be, num_append, ih]
    simp only [List.length_singleton, pow_one, num, List.foldl_cons, List.foldl_nil, BitVec.toNat_ofNat, Nat.zero_mul,
      Nat.zero_add]
    have h : 256 ^ (k + 1) = 256 * 256 ^ k := pow_succ' 256 k
    rw [h, Nat.mod_mul, show (2 : Nat) ^ 8 = 256 from rfl, Nat.mul_comm, Nat.add_comm]

@[simp] theorem yesNo_toNat (b : Bool) : (yesNo b).toNat = if b then 1 else 0 := by cases b <;> rfl

theorem yesNoOf_yesNo (b : Bool) : yesNoOf (if b then 1 else 0) = some b := by cases b <;> rfl

theorem deskCode_lt (d : Desk) : d.code < 6 := by cases d <;> decide

@[simp] theorem ofCode_code (d : Desk) : Desk.ofCode (d.code % 256) = some d := by cases d <;> rfl

@[simp] theorem target_ofCode_code (t : Target) : Target.ofCode (t.code % 256) = some t := by
  cases t with
  | desk d => cases d <;> rfl
  | room => rfl

theorem tagOf_val (t : Tag) : tagOf t.val = some t := by simp [tagOf, t.isLt]

theorem areaOf_val (a : Area) : areaOf a.val = some a := by simp [areaOf, a.isLt]

theorem opOf_val (i : OpIndex) : opOf i.val = some i := by simp [opOf, i.isLt]

/-! ### The layouts -/

theorem two_bytes {n : Nat} (h : n < 65536) : n / 256 % 256 * 256 + n % 256 = n := by
  rw [Nat.mod_eq_of_lt (Nat.div_lt_of_lt_mul h)]
  exact Nat.div_add_mod' n 256

theorem three_bytes {n : Nat} (h : n < 16777216) :
    (n / 65536 % 256 * 256 + n / 256 % 256) * 256 + n % 256 = n := by
  have e : n / 65536 = n / 256 / 256 := by rw [Nat.div_div_eq_div_mul]
  rw [e, two_bytes (Nat.div_lt_of_lt_mul h)]
  exact Nat.div_add_mod' n 256

theorem four_bytes {n : Nat} (h : n < 4294967296) :
    ((n / 16777216 % 256 * 256 + n / 65536 % 256) * 256 + n / 256 % 256) * 256 + n % 256 = n := by
  have e : n / 16777216 = n / 256 / 65536 := by rw [Nat.div_div_eq_div_mul]
  have e' : n / 65536 = n / 256 / 256 := by rw [Nat.div_div_eq_div_mul]
  rw [e, e', three_bytes (Nat.div_lt_of_lt_mul h)]
  exact Nat.div_add_mod' n 256

theorem readTag_be (t : Tag) : readTag (be 2 t.val) = some t := by
  have h := t.isLt
  have : t.val / 256 % 256 * 256 + t.val % 256 = t.val := two_bytes (by omega)
  simp [readTag, field, slice, be_two, num, this, tagOf_val]

theorem readDesk_byte (d : Desk) : readDesk [byte d.code] = some d := by
  simp [readDesk, field, slice, num]

theorem readIndex_byte (i : OpIndex) : readIndex [byte i.val] = some i := by
  have h := i.isLt
  have : i.val % 256 = i.val := by omega
  simp [readIndex, field, slice, num, this, opOf_val]

theorem readDeskTag_be (d : Desk) (t : Tag) : readDeskTag (byte d.code :: be 2 t.val) = some (d, t) := by
  have h := t.isLt
  have : t.val / 256 % 256 * 256 + t.val % 256 = t.val := two_bytes (by omega)
  simp [readDeskTag, field, slice, be_two, num, this, tagOf_val]

theorem readShelve_be (d : Desk) (t : Tag) {m : Nat} (hm : m < 65536) :
    readShelve (byte d.code :: (be 2 t.val ++ be 2 m)) = some (d, t, max 1 (min 480 m)) := by
  have h := t.isLt
  have h1 : t.val / 256 % 256 * 256 + t.val % 256 = t.val := two_bytes (by omega)
  have h2 : m / 256 % 256 * 256 + m % 256 = m := two_bytes hm
  simp [readShelve, field, slice, be_two, num, h1, h2, tagOf_val, clamp]

theorem readSetPoint_be (t : Tag) (a : Area) {base step : Nat} (sh : Bool) (h1 : 1 ≤ base) (h2 : base ≤ 4)
    (h3 : step ≤ 255) :
    readSetPoint (be 2 t.val ++ [byte a.val, byte base, byte step, yesNo sh]) =
      some (t, { area := a, base := base, step := min 120 step, shelvable := sh }) := by
  have ht := t.isLt
  have ha := a.isLt
  have e1 : t.val / 256 % 256 * 256 + t.val % 256 = t.val := two_bytes (by omega)
  have e2 : a.val % 256 = a.val := by omega
  have e3 : base % 256 = base := by omega
  have e4 : step % 256 = step := by omega
  simp [readSetPoint, field, slice, be_two, num, e1, e2, e3, e4, tagOf_val, areaOf_val, yesNoOf_yesNo, h1, h2]

theorem readAssignArea_none (a : Area) : readAssignArea [byte a.val, 255] = some (a, none) := by
  have ha := a.isLt
  have e2 : a.val % 256 = a.val := by omega
  simp [readAssignArea, field, slice, num, e2, areaOf_val, deskOrNone]

theorem readAssignArea_some (a : Area) (d : Desk) : readAssignArea [byte a.val, byte d.code] = some (a, some d) := by
  have ha := a.isLt
  have e2 : a.val % 256 = a.val := by omega
  have hd := deskCode_lt d
  have e3 : d.code % 256 ≠ 255 := by omega
  simp [readAssignArea, field, slice, num, e2, areaOf_val, deskOrNone, e3]

theorem readTimeMark_be {day second : Nat} (h1 : day < 65536) (h2 : second < 86400) :
    readTimeMark (be 2 day ++ be 3 second) = some { day := day, second := second } := by
  have e1 : day / 256 % 256 * 256 + day % 256 = day := two_bytes h1
  have e2 : (second / 65536 % 256 * 256 + second / 256 % 256) * 256 + second % 256 = second :=
    three_bytes (by omega)
  simp [readTimeMark, field, slice, be_two, be_three, num, e1, e2, h2]

theorem readFlash_be {c df da g : Nat} (h1 : c < 256) (h2 : df < 256) (h3 : da < 256) (h4 : g < 256) :
    readFlash [byte c, byte df, byte da, byte g] = some (clampFlash c df da g) := by
  simp [readFlash, field, slice, num, Nat.mod_eq_of_lt h1, Nat.mod_eq_of_lt h2, Nat.mod_eq_of_lt h3, Nat.mod_eq_of_lt h4]

theorem readLimits_be {up down a b c : Nat} (h1 : up < 65536) (h2 : down < 65536) (h3 : a < 256) (h4 : b < 256)
    (h5 : c < 256) :
    readLimits (be 2 up ++ be 2 down ++ [byte a, byte b, byte c]) =
      if down < max 16 (min 4095 up) then
        some { flood := { onAt := max 16 (min 4095 up), offAt := down }, handoverLimit := max 1 (min 30 a)
               dueGrace := min 120 b, silenceTime := max 2 (min 60 c) }
      else none := by
  have e1 : up / 256 % 256 * 256 + up % 256 = up := two_bytes h1
  have e2 : down / 256 % 256 * 256 + down % 256 = down := two_bytes h2
  simp [readLimits, field, slice, be_two, num, e1, e2, clamp, Nat.mod_eq_of_lt h3, Nat.mod_eq_of_lt h4,
    Nat.mod_eq_of_lt h5]

theorem readListRead_be (t : Target) {start count : Nat} (h1 : start < 65536) (h2 : count < 256) :
    readListRead (byte t.code :: (be 2 start ++ [byte count])) = some (t, start, max 1 (min 16 count)) := by
  have e1 : start / 256 % 256 * 256 + start % 256 = start := two_bytes h1
  simp [readListRead, field, slice, be_two, num, e1, clamp, Nat.mod_eq_of_lt h2]

theorem readJournalRead_be (n : Word32) {count : Nat} (h : count < 256) :
    readJournalRead (be 4 n.toNat ++ [byte count]) = some (n, max 1 (min 4 count)) := by
  have hn := n.isLt
  have e : ((n.toNat / 16777216 % 256 * 256 + n.toNat / 65536 % 256) * 256 + n.toNat / 256 % 256) * 256 +
      n.toNat % 256 = n.toNat := four_bytes hn
  simp [readJournalRead, field, slice, be_four, num, e, clamp, Nat.mod_eq_of_lt h]

theorem readDeskRead_byte (d : Desk) :
    readDeskRead [byte d.code, 0] = some (d, false) ∧ readDeskRead [byte d.code, 1] = some (d, true) := by
  constructor <;> simp [readDeskRead, field, slice, num, yesNoOf]

/-- Eight bytes of an area set read back as the set (R206). -/
theorem areaSetOf_bytes (set : AreaSet) : areaSetOf (areaSetBytes set) = set := by
  apply BitVec.eq_of_toNat_eq
  have h := set.isLt
  simp only [areaSetOf, areaSetBytes, List.foldr_cons, List.foldr_nil, BitVec.extractLsb'_toNat, BitVec.toNat_ofNat,
    Nat.shiftRight_eq_div_pow]
  omega

/-- The two sums of the check are a fold over the bytes (R192). -/
theorem checkSums_eq_foldl (bytes : List Byte) (a b : Nat) :
    checkSums bytes a b = bytes.foldl (fun (x : Nat × Nat) c =>
      ((x.1 + c.toNat) % 255, (x.2 + (x.1 + c.toNat) % 255) % 255)) (a, b) := by
  induction bytes generalizing a b with
  | nil => rfl
  | cons c rest ih => simp only [checkSums, List.foldl_cons, ih]

/-! ### Bytes the part does not look at (R204, R206; log 37) -/

/-- A record spelt with zeros where the part looks at none is the record as OPERATOR_READ gives it (R97, R208). -/
theorem spelt_zeros (r : OperatorRecord) : r.spelt 0 0 (List.replicate 12 0) = r.bytes := by
  obtain ⟨key, issue, role, areas, vf, vu, lk, dt⟩ := r
  cases role <;> cases vf <;> cases vu <;> cases dt <;> rfl

theorem readDisplayTag_some {c : List Byte} (h : c.length ≤ 12) (hp : ∀ b ∈ c, 32 ≤ b.toNat ∧ b.toNat ≤ 126)
    (rest : List Byte) : readDisplayTag c.length (c ++ rest) = some (some c) := by
  have h1 : c.length ≠ 255 := by omega
  have h2 : c.all printable = true := by simpa [printable] using hp
  simp [readDisplayTag, h1, h, h2]

/-- The 33 bytes that spell a record read back as the record, whatever the bytes nothing looks at (R206, R208). -/
theorem readRecord_spelt {r : OperatorRecord} (hr : r.Lawful) (x y : Nat) {pad : List Byte} (hpad : pad.length = 12) :
    (r.spelt x y pad).length = 33 ∧ readRecord (r.spelt x y pad) = some r := by
  obtain ⟨hk, hf, hu, hw, hd⟩ := hr
  obtain ⟨key, issue, role, areas, vf, vu, lk, dt⟩ := r
  have ek : (key.toNat / 65536 % 256 * 256 + key.toNat / 256 % 256) * 256 + key.toNat % 256 = key.toNat :=
    three_bytes key.isLt
  have hk0 : key.toNat ≠ 0 := fun h => hk (BitVec.eq_of_toNat_eq (by simpa using h))
  have ea := areaSetOf_bytes areas
  simp only [areaSetBytes] at ea
  obtain ⟨len, chars, e, hc, ht⟩ : ∃ len chars, displayTagSpelt dt pad = len :: chars ∧ chars.length = 12 ∧
      readDisplayTag len.toNat chars = some dt := by
    cases dt with
    | none => exact ⟨255, pad.take 12, rfl, by simp [hpad], by simp [readDisplayTag]⟩
    | some c =>
      obtain ⟨h1, h2⟩ := hd c rfl
      have h1' : c.length ≤ 12 := h1
      refine ⟨_, _, rfl, by simp [hpad], ?_⟩
      have e : (byte c.length).toNat = c.length := by simp; omega
      rw [e, List.take_append, List.take_of_length_le h1]
      exact readDisplayTag_some h1 h2 _
  have hslice : chars.take 12 = chars := List.take_of_length_le (by omega)
  have hlk := yesNoOf_yesNo lk
  have h1 : OperatorRecord.spelt ⟨key, issue, role, areas, vf, vu, lk, dt⟩ x y pad =
      be 3 key.toNat ++ [issue, byte role.code] ++ areaSetBytes areas ++ daySpelt vf x ++ daySpelt vu y ++ [yesNo lk] ++
        len :: chars := by
    cases role <;> simp [OperatorRecord.spelt, e, byte, Role.code]
  rw [h1]
  have hrole : Role.ofCode (role.code % 256) = some role := by cases role <;> rfl
  constructor
  · cases vf <;> cases vu <;> simp [areaSetBytes, hc, daySpelt]
  · have ef : ∀ v, vf = some v → v / 256 % 256 * 256 + v % 256 = v := fun v h => two_bytes (hf v h)
    have eu : ∀ v, vu = some v → v / 256 % 256 * 256 + v % 256 = v := fun v h => two_bytes (hu v h)
    have hw' : ∀ v w, vf = some v → vu = some w → v ≤ w := hw
    cases vf <;> cases vu <;>
      simp [readRecord, field, slice, be_two, be_three, num, areaSetBytes, optField, yesNoOf_yesNo, daySpelt, hslice, ht,
        hrole, ek, hk0, ea, show yesNoOf 0 = some false from rfl, show yesNoOf 1 = some true from rfl] <;>
      simp_all

theorem readSetOperator_spelt (i : OpIndex) {r : OperatorRecord} (hr : r.Lawful) (x y : Nat) {pad : List Byte}
    (hpad : pad.length = 12) : readSetOperator (byte i.val :: r.spelt x y pad) = some (i, r) := by
  obtain ⟨h1, h2⟩ := readRecord_spelt hr x y hpad
  have e : i.val % 256 = i.val := by have := i.isLt; omega
  simp [readSetOperator, h1, h2, field, slice, num, e, opOf_val]

/-- A schedule reads back from its bytes, whatever stands for the starts not given (R204, R206). -/
theorem readSchedule_spelt {starts : List Nat} (h : scheduleOk starts = true) (m : MarkMode) (hold : Bool)
    {pad : List Byte} (hpad : pad.length = 3 * (4 - starts.length)) :
    readSchedule ([byte starts.length] ++ starts.flatMap (be 3) ++ pad ++
      [(match m with | .strict => 0 | .follow => 1), yesNo hold]) = some (starts, m, hold) := by
  have hok := h
  simp only [scheduleOk, Bool.and_eq_true, decide_eq_true_eq, List.all_eq_true] at hok
  obtain ⟨⟨⟨h1, h4⟩, hlt⟩, -⟩ := hok
  have e : ∀ n ∈ starts, (n / 65536 % 256 * 256 + n / 256 % 256) * 256 + n % 256 = n :=
    fun n hn => three_bytes (by have := hlt n hn; omega)
  have hm : MarkMode.ofCode (match m with | .strict => (0 : Byte) | .follow => 1).toNat = some m := by cases m <;> rfl
  match starts with
  | [a] =>
    match pad with
    | [_, _, _, _, _, _, _, _, _] => simp_all [readSchedule, field, slice, be_three, num, yesNoOf_yesNo]
  | [a, b] =>
    match pad with
    | [_, _, _, _, _, _] => simp_all [readSchedule, field, slice, be_three, num, yesNoOf_yesNo]
  | [a, b, c] =>
    match pad with
    | [_, _, _] => simp_all [readSchedule, field, slice, be_three, num, yesNoOf_yesNo]
  | [a, b, c, d] =>
    match pad with
    | [] => simp_all [readSchedule, field, slice, be_three, num, yesNoOf_yesNo]

end Sys2Proof.Machine
end

