-- ==== Sys2Proof/Laws/State.lean ====
section
/-! SUPPORT. One lemma for each field of each update of the state, and reading back what was put. -/

namespace Sys2Proof.Machine

/-! ### State.putUnit: only `desks` changes -/

@[simp] theorem State.putUnit_phase (s : State) (d : Desk) (u : DeskUnit) : (s.putUnit d u).phase = s.phase := rfl
@[simp] theorem State.putUnit_resetInput (s : State) (d : Desk) (u : DeskUnit) : (s.putUnit d u).resetInput = s.resetInput := rfl
@[simp] theorem State.putUnit_runSeconds (s : State) (d : Desk) (u : DeskUnit) : (s.putUnit d u).runSeconds = s.runSeconds := rfl
@[simp] theorem State.putUnit_tick (s : State) (d : Desk) (u : DeskUnit) : (s.putUnit d u).tick = s.tick := rfl
@[simp] theorem State.putUnit_mill (s : State) (d : Desk) (u : DeskUnit) : (s.putUnit d u).mill = s.mill := rfl
@[simp] theorem State.putUnit_schedule (s : State) (d : Desk) (u : DeskUnit) : (s.putUnit d u).schedule = s.schedule := rfl
@[simp] theorem State.putUnit_markMode (s : State) (d : Desk) (u : DeskUnit) : (s.putUnit d u).markMode = s.markMode := rfl
@[simp] theorem State.putUnit_timeHold (s : State) (d : Desk) (u : DeskUnit) : (s.putUnit d u).timeHold = s.timeHold := rfl
@[simp] theorem State.putUnit_limits (s : State) (d : Desk) (u : DeskUnit) : (s.putUnit d u).limits = s.limits := rfl
@[simp] theorem State.putUnit_heldFlood (s : State) (d : Desk) (u : DeskUnit) : (s.putUnit d u).heldFlood = s.heldFlood := rfl
@[simp] theorem State.putUnit_points (s : State) (d : Desk) (u : DeskUnit) : (s.putUnit d u).points = s.points := rfl
@[simp] theorem State.putUnit_operators (s : State) (d : Desk) (u : DeskUnit) : (s.putUnit d u).operators = s.operators := rfl
@[simp] theorem State.putUnit_owners (s : State) (d : Desk) (u : DeskUnit) : (s.putUnit d u).owners = s.owners := rfl
@[simp] theorem State.putUnit_supervisor (s : State) (d : Desk) (u : DeskUnit) : (s.putUnit d u).supervisor = s.supervisor := rfl
@[simp] theorem State.putUnit_load (s : State) (d : Desk) (u : DeskUnit) : (s.putUnit d u).load = s.load := rfl
@[simp] theorem State.putUnit_intake (s : State) (d : Desk) (u : DeskUnit) : (s.putUnit d u).intake = s.intake := rfl
@[simp] theorem State.putUnit_flash (s : State) (d : Desk) (u : DeskUnit) : (s.putUnit d u).flash = s.flash := rfl
@[simp] theorem State.putUnit_staged (s : State) (d : Desk) (u : DeskUnit) : (s.putUnit d u).staged = s.staged := rfl
@[simp] theorem State.putUnit_position (s : State) (d : Desk) (u : DeskUnit) : (s.putUnit d u).position = s.position := rfl
@[simp] theorem State.putUnit_horn (s : State) (d : Desk) (u : DeskUnit) : (s.putUnit d u).horn = s.horn := rfl
@[simp] theorem State.putUnit_journal (s : State) (d : Desk) (u : DeskUnit) : (s.putUnit d u).journal = s.journal := rfl
@[simp] theorem State.putUnit_nextSeq (s : State) (d : Desk) (u : DeskUnit) : (s.putUnit d u).nextSeq = s.nextSeq := rfl
@[simp] theorem State.putUnit_attention (s : State) (d : Desk) (u : DeskUnit) : (s.putUnit d u).attention = s.attention := rfl
@[simp] theorem State.putUnit_links (s : State) (d : Desk) (u : DeskUnit) : (s.putUnit d u).links = s.links := rfl
@[simp] theorem State.putUnit_command (s : State) (d : Desk) (u : DeskUnit) : (s.putUnit d u).command = s.command := rfl
@[simp] theorem State.putUnit_store (s : State) (d : Desk) (u : DeskUnit) : (s.putUnit d u).store = s.store := rfl
@[simp] theorem State.putUnit_image (s : State) (d : Desk) (u : DeskUnit) : (s.putUnit d u).image = s.image := rfl
@[simp] theorem State.putUnit_pending (s : State) (d : Desk) (u : DeskUnit) : (s.putUnit d u).pending = s.pending := rfl

/-! ### State.putPoint: only `points` changes -/

@[simp] theorem State.putPoint_phase (s : State) (t : Tag) (p : Point) : (s.putPoint t p).phase = s.phase := rfl
@[simp] theorem State.putPoint_resetInput (s : State) (t : Tag) (p : Point) : (s.putPoint t p).resetInput = s.resetInput := rfl
@[simp] theorem State.putPoint_runSeconds (s : State) (t : Tag) (p : Point) : (s.putPoint t p).runSeconds = s.runSeconds := rfl
@[simp] theorem State.putPoint_tick (s : State) (t : Tag) (p : Point) : (s.putPoint t p).tick = s.tick := rfl
@[simp] theorem State.putPoint_mill (s : State) (t : Tag) (p : Point) : (s.putPoint t p).mill = s.mill := rfl
@[simp] theorem State.putPoint_schedule (s : State) (t : Tag) (p : Point) : (s.putPoint t p).schedule = s.schedule := rfl
@[simp] theorem State.putPoint_markMode (s : State) (t : Tag) (p : Point) : (s.putPoint t p).markMode = s.markMode := rfl
@[simp] theorem State.putPoint_timeHold (s : State) (t : Tag) (p : Point) : (s.putPoint t p).timeHold = s.timeHold := rfl
@[simp] theorem State.putPoint_limits (s : State) (t : Tag) (p : Point) : (s.putPoint t p).limits = s.limits := rfl
@[simp] theorem State.putPoint_heldFlood (s : State) (t : Tag) (p : Point) : (s.putPoint t p).heldFlood = s.heldFlood := rfl
@[simp] theorem State.putPoint_operators (s : State) (t : Tag) (p : Point) : (s.putPoint t p).operators = s.operators := rfl
@[simp] theorem State.putPoint_owners (s : State) (t : Tag) (p : Point) : (s.putPoint t p).owners = s.owners := rfl
@[simp] theorem State.putPoint_supervisor (s : State) (t : Tag) (p : Point) : (s.putPoint t p).supervisor = s.supervisor := rfl
@[simp] theorem State.putPoint_desks (s : State) (t : Tag) (p : Point) : (s.putPoint t p).desks = s.desks := rfl
@[simp] theorem State.putPoint_load (s : State) (t : Tag) (p : Point) : (s.putPoint t p).load = s.load := rfl
@[simp] theorem State.putPoint_intake (s : State) (t : Tag) (p : Point) : (s.putPoint t p).intake = s.intake := rfl
@[simp] theorem State.putPoint_flash (s : State) (t : Tag) (p : Point) : (s.putPoint t p).flash = s.flash := rfl
@[simp] theorem State.putPoint_staged (s : State) (t : Tag) (p : Point) : (s.putPoint t p).staged = s.staged := rfl
@[simp] theorem State.putPoint_position (s : State) (t : Tag) (p : Point) : (s.putPoint t p).position = s.position := rfl
@[simp] theorem State.putPoint_horn (s : State) (t : Tag) (p : Point) : (s.putPoint t p).horn = s.horn := rfl
@[simp] theorem State.putPoint_journal (s : State) (t : Tag) (p : Point) : (s.putPoint t p).journal = s.journal := rfl
@[simp] theorem State.putPoint_nextSeq (s : State) (t : Tag) (p : Point) : (s.putPoint t p).nextSeq = s.nextSeq := rfl
@[simp] theorem State.putPoint_attention (s : State) (t : Tag) (p : Point) : (s.putPoint t p).attention = s.attention := rfl
@[simp] theorem State.putPoint_links (s : State) (t : Tag) (p : Point) : (s.putPoint t p).links = s.links := rfl
@[simp] theorem State.putPoint_command (s : State) (t : Tag) (p : Point) : (s.putPoint t p).command = s.command := rfl
@[simp] theorem State.putPoint_store (s : State) (t : Tag) (p : Point) : (s.putPoint t p).store = s.store := rfl
@[simp] theorem State.putPoint_image (s : State) (t : Tag) (p : Point) : (s.putPoint t p).image = s.image := rfl
@[simp] theorem State.putPoint_pending (s : State) (t : Tag) (p : Point) : (s.putPoint t p).pending = s.pending := rfl

/-! ### State.putLink: only `links` changes -/

@[simp] theorem State.putLink_phase (s : State) (l : Link) (v : SupLink) : (s.putLink l v).phase = s.phase := rfl
@[simp] theorem State.putLink_resetInput (s : State) (l : Link) (v : SupLink) : (s.putLink l v).resetInput = s.resetInput := rfl
@[simp] theorem State.putLink_runSeconds (s : State) (l : Link) (v : SupLink) : (s.putLink l v).runSeconds = s.runSeconds := rfl
@[simp] theorem State.putLink_tick (s : State) (l : Link) (v : SupLink) : (s.putLink l v).tick = s.tick := rfl
@[simp] theorem State.putLink_mill (s : State) (l : Link) (v : SupLink) : (s.putLink l v).mill = s.mill := rfl
@[simp] theorem State.putLink_schedule (s : State) (l : Link) (v : SupLink) : (s.putLink l v).schedule = s.schedule := rfl
@[simp] theorem State.putLink_markMode (s : State) (l : Link) (v : SupLink) : (s.putLink l v).markMode = s.markMode := rfl
@[simp] theorem State.putLink_timeHold (s : State) (l : Link) (v : SupLink) : (s.putLink l v).timeHold = s.timeHold := rfl
@[simp] theorem State.putLink_limits (s : State) (l : Link) (v : SupLink) : (s.putLink l v).limits = s.limits := rfl
@[simp] theorem State.putLink_heldFlood (s : State) (l : Link) (v : SupLink) : (s.putLink l v).heldFlood = s.heldFlood := rfl
@[simp] theorem State.putLink_points (s : State) (l : Link) (v : SupLink) : (s.putLink l v).points = s.points := rfl
@[simp] theorem State.putLink_operators (s : State) (l : Link) (v : SupLink) : (s.putLink l v).operators = s.operators := rfl
@[simp] theorem State.putLink_owners (s : State) (l : Link) (v : SupLink) : (s.putLink l v).owners = s.owners := rfl
@[simp] theorem State.putLink_supervisor (s : State) (l : Link) (v : SupLink) : (s.putLink l v).supervisor = s.supervisor := rfl
@[simp] theorem State.putLink_desks (s : State) (l : Link) (v : SupLink) : (s.putLink l v).desks = s.desks := rfl
@[simp] theorem State.putLink_load (s : State) (l : Link) (v : SupLink) : (s.putLink l v).load = s.load := rfl
@[simp] theorem State.putLink_intake (s : State) (l : Link) (v : SupLink) : (s.putLink l v).intake = s.intake := rfl
@[simp] theorem State.putLink_flash (s : State) (l : Link) (v : SupLink) : (s.putLink l v).flash = s.flash := rfl
@[simp] theorem State.putLink_staged (s : State) (l : Link) (v : SupLink) : (s.putLink l v).staged = s.staged := rfl
@[simp] theorem State.putLink_position (s : State) (l : Link) (v : SupLink) : (s.putLink l v).position = s.position := rfl
@[simp] theorem State.putLink_horn (s : State) (l : Link) (v : SupLink) : (s.putLink l v).horn = s.horn := rfl
@[simp] theorem State.putLink_journal (s : State) (l : Link) (v : SupLink) : (s.putLink l v).journal = s.journal := rfl
@[simp] theorem State.putLink_nextSeq (s : State) (l : Link) (v : SupLink) : (s.putLink l v).nextSeq = s.nextSeq := rfl
@[simp] theorem State.putLink_attention (s : State) (l : Link) (v : SupLink) : (s.putLink l v).attention = s.attention := rfl
@[simp] theorem State.putLink_command (s : State) (l : Link) (v : SupLink) : (s.putLink l v).command = s.command := rfl
@[simp] theorem State.putLink_store (s : State) (l : Link) (v : SupLink) : (s.putLink l v).store = s.store := rfl
@[simp] theorem State.putLink_image (s : State) (l : Link) (v : SupLink) : (s.putLink l v).image = s.image := rfl
@[simp] theorem State.putLink_pending (s : State) (l : Link) (v : SupLink) : (s.putLink l v).pending = s.pending := rfl

/-! ### State.putEventLink: only `intake` changes -/

@[simp] theorem State.putEventLink_phase (s : State) (l : EventLink) (v : IntakeLink) : (s.putEventLink l v).phase = s.phase := rfl
@[simp] theorem State.putEventLink_resetInput (s : State) (l : EventLink) (v : IntakeLink) : (s.putEventLink l v).resetInput = s.resetInput := rfl
@[simp] theorem State.putEventLink_runSeconds (s : State) (l : EventLink) (v : IntakeLink) : (s.putEventLink l v).runSeconds = s.runSeconds := rfl
@[simp] theorem State.putEventLink_tick (s : State) (l : EventLink) (v : IntakeLink) : (s.putEventLink l v).tick = s.tick := rfl
@[simp] theorem State.putEventLink_mill (s : State) (l : EventLink) (v : IntakeLink) : (s.putEventLink l v).mill = s.mill := rfl
@[simp] theorem State.putEventLink_schedule (s : State) (l : EventLink) (v : IntakeLink) : (s.putEventLink l v).schedule = s.schedule := rfl
@[simp] theorem State.putEventLink_markMode (s : State) (l : EventLink) (v : IntakeLink) : (s.putEventLink l v).markMode = s.markMode := rfl
@[simp] theorem State.putEventLink_timeHold (s : State) (l : EventLink) (v : IntakeLink) : (s.putEventLink l v).timeHold = s.timeHold := rfl
@[simp] theorem State.putEventLink_limits (s : State) (l : EventLink) (v : IntakeLink) : (s.putEventLink l v).limits = s.limits := rfl
@[simp] theorem State.putEventLink_heldFlood (s : State) (l : EventLink) (v : IntakeLink) : (s.putEventLink l v).heldFlood = s.heldFlood := rfl
@[simp] theorem State.putEventLink_points (s : State) (l : EventLink) (v : IntakeLink) : (s.putEventLink l v).points = s.points := rfl
@[simp] theorem State.putEventLink_operators (s : State) (l : EventLink) (v : IntakeLink) : (s.putEventLink l v).operators = s.operators := rfl
@[simp] theorem State.putEventLink_owners (s : State) (l : EventLink) (v : IntakeLink) : (s.putEventLink l v).owners = s.owners := rfl
@[simp] theorem State.putEventLink_supervisor (s : State) (l : EventLink) (v : IntakeLink) : (s.putEventLink l v).supervisor = s.supervisor := rfl
@[simp] theorem State.putEventLink_desks (s : State) (l : EventLink) (v : IntakeLink) : (s.putEventLink l v).desks = s.desks := rfl
@[simp] theorem State.putEventLink_load (s : State) (l : EventLink) (v : IntakeLink) : (s.putEventLink l v).load = s.load := rfl
@[simp] theorem State.putEventLink_flash (s : State) (l : EventLink) (v : IntakeLink) : (s.putEventLink l v).flash = s.flash := rfl
@[simp] theorem State.putEventLink_staged (s : State) (l : EventLink) (v : IntakeLink) : (s.putEventLink l v).staged = s.staged := rfl
@[simp] theorem State.putEventLink_position (s : State) (l : EventLink) (v : IntakeLink) : (s.putEventLink l v).position = s.position := rfl
@[simp] theorem State.putEventLink_horn (s : State) (l : EventLink) (v : IntakeLink) : (s.putEventLink l v).horn = s.horn := rfl
@[simp] theorem State.putEventLink_journal (s : State) (l : EventLink) (v : IntakeLink) : (s.putEventLink l v).journal = s.journal := rfl
@[simp] theorem State.putEventLink_nextSeq (s : State) (l : EventLink) (v : IntakeLink) : (s.putEventLink l v).nextSeq = s.nextSeq := rfl
@[simp] theorem State.putEventLink_attention (s : State) (l : EventLink) (v : IntakeLink) : (s.putEventLink l v).attention = s.attention := rfl
@[simp] theorem State.putEventLink_links (s : State) (l : EventLink) (v : IntakeLink) : (s.putEventLink l v).links = s.links := rfl
@[simp] theorem State.putEventLink_command (s : State) (l : EventLink) (v : IntakeLink) : (s.putEventLink l v).command = s.command := rfl
@[simp] theorem State.putEventLink_store (s : State) (l : EventLink) (v : IntakeLink) : (s.putEventLink l v).store = s.store := rfl
@[simp] theorem State.putEventLink_image (s : State) (l : EventLink) (v : IntakeLink) : (s.putEventLink l v).image = s.image := rfl
@[simp] theorem State.putEventLink_pending (s : State) (l : EventLink) (v : IntakeLink) : (s.putEventLink l v).pending = s.pending := rfl

/-! ### State.putLoad: only `load` changes -/

@[simp] theorem State.putLoad_phase (s : State) (t : Target) (v : Load) : (s.putLoad t v).phase = s.phase := rfl
@[simp] theorem State.putLoad_resetInput (s : State) (t : Target) (v : Load) : (s.putLoad t v).resetInput = s.resetInput := rfl
@[simp] theorem State.putLoad_runSeconds (s : State) (t : Target) (v : Load) : (s.putLoad t v).runSeconds = s.runSeconds := rfl
@[simp] theorem State.putLoad_tick (s : State) (t : Target) (v : Load) : (s.putLoad t v).tick = s.tick := rfl
@[simp] theorem State.putLoad_mill (s : State) (t : Target) (v : Load) : (s.putLoad t v).mill = s.mill := rfl
@[simp] theorem State.putLoad_schedule (s : State) (t : Target) (v : Load) : (s.putLoad t v).schedule = s.schedule := rfl
@[simp] theorem State.putLoad_markMode (s : State) (t : Target) (v : Load) : (s.putLoad t v).markMode = s.markMode := rfl
@[simp] theorem State.putLoad_timeHold (s : State) (t : Target) (v : Load) : (s.putLoad t v).timeHold = s.timeHold := rfl
@[simp] theorem State.putLoad_limits (s : State) (t : Target) (v : Load) : (s.putLoad t v).limits = s.limits := rfl
@[simp] theorem State.putLoad_heldFlood (s : State) (t : Target) (v : Load) : (s.putLoad t v).heldFlood = s.heldFlood := rfl
@[simp] theorem State.putLoad_points (s : State) (t : Target) (v : Load) : (s.putLoad t v).points = s.points := rfl
@[simp] theorem State.putLoad_operators (s : State) (t : Target) (v : Load) : (s.putLoad t v).operators = s.operators := rfl
@[simp] theorem State.putLoad_owners (s : State) (t : Target) (v : Load) : (s.putLoad t v).owners = s.owners := rfl
@[simp] theorem State.putLoad_supervisor (s : State) (t : Target) (v : Load) : (s.putLoad t v).supervisor = s.supervisor := rfl
@[simp] theorem State.putLoad_desks (s : State) (t : Target) (v : Load) : (s.putLoad t v).desks = s.desks := rfl
@[simp] theorem State.putLoad_intake (s : State) (t : Target) (v : Load) : (s.putLoad t v).intake = s.intake := rfl
@[simp] theorem State.putLoad_flash (s : State) (t : Target) (v : Load) : (s.putLoad t v).flash = s.flash := rfl
@[simp] theorem State.putLoad_staged (s : State) (t : Target) (v : Load) : (s.putLoad t v).staged = s.staged := rfl
@[simp] theorem State.putLoad_position (s : State) (t : Target) (v : Load) : (s.putLoad t v).position = s.position := rfl
@[simp] theorem State.putLoad_horn (s : State) (t : Target) (v : Load) : (s.putLoad t v).horn = s.horn := rfl
@[simp] theorem State.putLoad_journal (s : State) (t : Target) (v : Load) : (s.putLoad t v).journal = s.journal := rfl
@[simp] theorem State.putLoad_nextSeq (s : State) (t : Target) (v : Load) : (s.putLoad t v).nextSeq = s.nextSeq := rfl
@[simp] theorem State.putLoad_attention (s : State) (t : Target) (v : Load) : (s.putLoad t v).attention = s.attention := rfl
@[simp] theorem State.putLoad_links (s : State) (t : Target) (v : Load) : (s.putLoad t v).links = s.links := rfl
@[simp] theorem State.putLoad_command (s : State) (t : Target) (v : Load) : (s.putLoad t v).command = s.command := rfl
@[simp] theorem State.putLoad_store (s : State) (t : Target) (v : Load) : (s.putLoad t v).store = s.store := rfl
@[simp] theorem State.putLoad_image (s : State) (t : Target) (v : Load) : (s.putLoad t v).image = s.image := rfl
@[simp] theorem State.putLoad_pending (s : State) (t : Target) (v : Load) : (s.putLoad t v).pending = s.pending := rfl

/-! ### State.setOwner: only `owners` changes -/

@[simp] theorem State.setOwner_phase (s : State) (a : Area) (d : Option Desk) : (s.setOwner a d).phase = s.phase := by cases d <;> rfl
@[simp] theorem State.setOwner_resetInput (s : State) (a : Area) (d : Option Desk) : (s.setOwner a d).resetInput = s.resetInput := by cases d <;> rfl
@[simp] theorem State.setOwner_runSeconds (s : State) (a : Area) (d : Option Desk) : (s.setOwner a d).runSeconds = s.runSeconds := by cases d <;> rfl
@[simp] theorem State.setOwner_tick (s : State) (a : Area) (d : Option Desk) : (s.setOwner a d).tick = s.tick := by cases d <;> rfl
@[simp] theorem State.setOwner_mill (s : State) (a : Area) (d : Option Desk) : (s.setOwner a d).mill = s.mill := by cases d <;> rfl
@[simp] theorem State.setOwner_schedule (s : State) (a : Area) (d : Option Desk) : (s.setOwner a d).schedule = s.schedule := by cases d <;> rfl
@[simp] theorem State.setOwner_markMode (s : State) (a : Area) (d : Option Desk) : (s.setOwner a d).markMode = s.markMode := by cases d <;> rfl
@[simp] theorem State.setOwner_timeHold (s : State) (a : Area) (d : Option Desk) : (s.setOwner a d).timeHold = s.timeHold := by cases d <;> rfl
@[simp] theorem State.setOwner_limits (s : State) (a : Area) (d : Option Desk) : (s.setOwner a d).limits = s.limits := by cases d <;> rfl
@[simp] theorem State.setOwner_heldFlood (s : State) (a : Area) (d : Option Desk) : (s.setOwner a d).heldFlood = s.heldFlood := by cases d <;> rfl
@[simp] theorem State.setOwner_points (s : State) (a : Area) (d : Option Desk) : (s.setOwner a d).points = s.points := by cases d <;> rfl
@[simp] theorem State.setOwner_operators (s : State) (a : Area) (d : Option Desk) : (s.setOwner a d).operators = s.operators := by cases d <;> rfl
@[simp] theorem State.setOwner_supervisor (s : State) (a : Area) (d : Option Desk) : (s.setOwner a d).supervisor = s.supervisor := by cases d <;> rfl
@[simp] theorem State.setOwner_desks (s : State) (a : Area) (d : Option Desk) : (s.setOwner a d).desks = s.desks := by cases d <;> rfl
@[simp] theorem State.setOwner_load (s : State) (a : Area) (d : Option Desk) : (s.setOwner a d).load = s.load := by cases d <;> rfl
@[simp] theorem State.setOwner_intake (s : State) (a : Area) (d : Option Desk) : (s.setOwner a d).intake = s.intake := by cases d <;> rfl
@[simp] theorem State.setOwner_flash (s : State) (a : Area) (d : Option Desk) : (s.setOwner a d).flash = s.flash := by cases d <;> rfl
@[simp] theorem State.setOwner_staged (s : State) (a : Area) (d : Option Desk) : (s.setOwner a d).staged = s.staged := by cases d <;> rfl
@[simp] theorem State.setOwner_position (s : State) (a : Area) (d : Option Desk) : (s.setOwner a d).position = s.position := by cases d <;> rfl
@[simp] theorem State.setOwner_horn (s : State) (a : Area) (d : Option Desk) : (s.setOwner a d).horn = s.horn := by cases d <;> rfl
@[simp] theorem State.setOwner_journal (s : State) (a : Area) (d : Option Desk) : (s.setOwner a d).journal = s.journal := by cases d <;> rfl
@[simp] theorem State.setOwner_nextSeq (s : State) (a : Area) (d : Option Desk) : (s.setOwner a d).nextSeq = s.nextSeq := by cases d <;> rfl
@[simp] theorem State.setOwner_attention (s : State) (a : Area) (d : Option Desk) : (s.setOwner a d).attention = s.attention := by cases d <;> rfl
@[simp] theorem State.setOwner_links (s : State) (a : Area) (d : Option Desk) : (s.setOwner a d).links = s.links := by cases d <;> rfl
@[simp] theorem State.setOwner_command (s : State) (a : Area) (d : Option Desk) : (s.setOwner a d).command = s.command := by cases d <;> rfl
@[simp] theorem State.setOwner_store (s : State) (a : Area) (d : Option Desk) : (s.setOwner a d).store = s.store := by cases d <;> rfl
@[simp] theorem State.setOwner_image (s : State) (a : Area) (d : Option Desk) : (s.setOwner a d).image = s.image := by cases d <;> rfl
@[simp] theorem State.setOwner_pending (s : State) (a : Area) (d : Option Desk) : (s.setOwner a d).pending = s.pending := by cases d <;> rfl

/-! ### Reading back -/

@[simp] theorem PerDesk.get_set_self {α : Type} (p : PerDesk α) (d : Desk) (v : α) : (p.set d v).get d = v := by
  cases d <;> rfl

theorem PerDesk.get_set_of_ne {α : Type} (p : PerDesk α) {d e : Desk} (v : α) (h : e ≠ d) :
    (p.set d v).get e = p.get e := by
  cases d <;> cases e <;> first | rfl | exact absurd rfl h

theorem PerDesk.get_set {α : Type} (p : PerDesk α) (d e : Desk) (v : α) :
    (p.set d v).get e = if e = d then v else p.get e := by
  cases d <;> cases e <;> rfl

@[simp] theorem PerDesk.get_of {α : Type} (f : Desk → α) (d : Desk) : (PerDesk.of f).get d = f d := by
  cases d <;> rfl

@[simp] theorem PerDesk.set_get {α : Type} (p : PerDesk α) (d : Desk) : p.set d (p.get d) = p := by
  cases d <;> rfl

theorem PerDesk.ext_get {α : Type} {p q : PerDesk α} (h : ∀ d, p.get d = q.get d) : p = q := by
  cases p; cases q
  simp only [PerDesk.mk.injEq]
  exact ⟨h .d0, h .d1, h .d2, h .d3, h .d4, h .d5⟩

@[simp] theorem PerLink.get_set_self {α : Type} (p : PerLink α) (l : Link) (v : α) : (p.set l v).get l = v := by
  cases l <;> rfl

theorem PerLink.get_set {α : Type} (p : PerLink α) (l m : Link) (v : α) :
    (p.set l v).get m = if m = l then v else p.get m := by
  cases l <;> cases m <;> rfl

@[simp] theorem PerLink.set_get {α : Type} (p : PerLink α) (l : Link) : p.set l (p.get l) = p := by
  cases l <;> rfl

@[simp] theorem PerEventLink.get_set_self {α : Type} (p : PerEventLink α) (l : EventLink) (v : α) :
    (p.set l v).get l = v := by
  cases l <;> rfl

theorem PerEventLink.get_set {α : Type} (p : PerEventLink α) (l m : EventLink) (v : α) :
    (p.set l v).get m = if m = l then v else p.get m := by
  cases l <;> cases m <;> rfl

@[simp] theorem PerTarget.get_set_self {α : Type} (p : PerTarget α) (t : Target) (v : α) : (p.set t v).get t = v := by
  cases t with
  | desk d => simp [PerTarget.get, PerTarget.set]
  | room => rfl

theorem PerTarget.get_set {α : Type} (p : PerTarget α) (t u : Target) (v : α) :
    (p.set t v).get u = if u = t then v else p.get u := by
  cases t <;> cases u <;> simp [PerTarget.get, PerTarget.set, PerDesk.get_set]

@[simp] theorem PerTarget.get_of {α : Type} (f : Target → α) (t : Target) : (PerTarget.of f).get t = f t := by
  cases t <;> simp [PerTarget.get, PerTarget.of]

@[simp] theorem State.unit_putUnit_self (s : State) (d : Desk) (u : DeskUnit) : (s.putUnit d u).unit d = u := by
  simp [State.unit, State.putUnit]

theorem State.unit_putUnit (s : State) (d e : Desk) (u : DeskUnit) :
    (s.putUnit d u).unit e = if e = d then u else s.unit e := by
  simp [State.unit, State.putUnit, PerDesk.get_set]

@[simp] theorem State.link_putLink_self (s : State) (l : Link) (v : SupLink) : (s.putLink l v).link l = v := by
  simp [State.link, State.putLink]

theorem State.link_putLink (s : State) (l m : Link) (v : SupLink) :
    (s.putLink l v).link m = if m = l then v else s.link m := by
  simp [State.link, State.putLink, PerLink.get_set]

@[simp] theorem State.eventLink_putEventLink_self (s : State) (l : EventLink) (v : IntakeLink) :
    (s.putEventLink l v).eventLink l = v := by
  simp [State.eventLink, State.putEventLink]

@[simp] theorem State.loadOf_putLoad_self (s : State) (t : Target) (v : Load) : (s.putLoad t v).loadOf t = v := by
  simp [State.loadOf, State.putLoad]

theorem State.loadOf_putLoad (s : State) (t u : Target) (v : Load) :
    (s.putLoad t v).loadOf u = if u = t then v else s.loadOf u := by
  simp [State.loadOf, State.putLoad, PerTarget.get_set]

end Sys2Proof.Machine
end

