-- ==== Sys2Proof/Laws/Table.lean ====
section
/-! SUPPORT. The sparse tables: reading back, and every operation keeps the canonical form. -/

namespace Sys2Proof.Machine

variable {n : Nat} {α β : Type}

theorem tableWf_cons {k : Fin n} {v : α} {rest : Table n α} :
    tableWf ((k, v) :: rest) = true ↔ (∀ e ∈ rest, k < e.1) ∧ tableWf rest = true := by
  simp [tableWf]

/-- A position below every position of a table is absent from it. -/
theorem tableGet_none_of_lt {t : Table n α} {i : Fin n} (h : ∀ e ∈ t, i < e.1) : tableGet t i = none := by
  induction t with
  | nil => rfl
  | cons e rest ih =>
    have h1 := h e (by simp)
    have h2 : ¬ e.1 = i := fun h3 => by simp [h3] at h1
    simp [tableGet, h2, ih (fun x hx => h x (by simp [hx]))]

theorem tableGet_mem {t : Table n α} {i : Fin n} {v : α} (h : tableGet t i = some v) : (i, v) ∈ t := by
  induction t with
  | nil => simp [tableGet] at h
  | cons e rest ih =>
    obtain ⟨k, w⟩ := e
    by_cases hk : k = i
    · simp [tableGet, hk] at h; simp [hk, h]
    · simp [tableGet, hk] at h; exact List.mem_cons_of_mem _ (ih h)

/-- In a canonical table a listed record is the one read at its position. -/
theorem tableGet_of_mem {t : Table n α} (hw : tableWf t = true) {i : Fin n} {v : α} (h : (i, v) ∈ t) :
    tableGet t i = some v := by
  induction t with
  | nil => simp at h
  | cons e rest ih =>
    obtain ⟨k, w⟩ := e
    rw [tableWf_cons] at hw
    rcases List.mem_cons.1 h with h1 | h1
    · cases h1; simp [tableGet]
    · have := hw.1 _ h1
      have hne : ¬ k = i := fun h2 => by simp [h2] at this
      simpa [tableGet, hne] using ih hw.2 h1

theorem mem_tablePut {t : Table n α} {i : Fin n} {v : α} {e : Fin n × α} (h : e ∈ tablePut t i v) :
    e = (i, v) ∨ e ∈ t := by
  induction t with
  | nil => left; simpa [tablePut] using h
  | cons c rest ih =>
    obtain ⟨k, w⟩ := c
    simp only [tablePut] at h
    split at h
    · rcases List.mem_cons.1 h with h | h
      · exact .inl h
      · exact .inr h
    · split at h
      · rcases List.mem_cons.1 h with h | h
        · exact .inl h
        · exact .inr (List.mem_cons_of_mem _ h)
      · rcases List.mem_cons.1 h with h | h
        · exact .inr (by simp [h])
        · rcases ih h with h | h
          · exact .inl h
          · exact .inr (List.mem_cons_of_mem _ h)

/-- A put keeps the canonical form. -/
theorem tablePut_wf {t : Table n α} (hw : tableWf t = true) (i : Fin n) (v : α) : tableWf (tablePut t i v) = true := by
  induction t with
  | nil => simp [tablePut, tableWf]
  | cons c rest ih =>
    obtain ⟨k, w⟩ := c
    have hw' := tableWf_cons.1 hw
    simp only [tablePut]
    split
    · next h =>
      rw [tableWf_cons]
      refine ⟨fun e he => ?_, hw⟩
      rcases List.mem_cons.1 he with he | he
      · simpa [he] using h
      · exact lt_trans h (hw'.1 e he)
    · split
      · next h => rw [tableWf_cons]; exact ⟨by simpa [h] using hw'.1, hw'.2⟩
      · next h1 h2 =>
        rw [tableWf_cons]
        refine ⟨fun e he => ?_, ih hw'.2⟩
        rcases mem_tablePut he with he | he
        · subst he; simp only; omega
        · exact hw'.1 e he

/-- Reading after a put. -/
theorem tableGet_put {t : Table n α} (hw : tableWf t = true) (i j : Fin n) (v : α) :
    tableGet (tablePut t i v) j = if j = i then some v else tableGet t j := by
  induction t with
  | nil =>
    by_cases h : j = i
    · simp [tablePut, tableGet, h]
    · simp [tablePut, tableGet, h, Ne.symm h]
  | cons c rest ih =>
    obtain ⟨k, w⟩ := c
    have hw' := tableWf_cons.1 hw
    simp only [tablePut]
    split
    · by_cases h : j = i
      · simp [tableGet, h]
      · simp [tableGet, h, Ne.symm h]
    · split
      · next h =>
        subst h
        by_cases h : j = i
        · simp [tableGet, h]
        · simp [tableGet, h, Ne.symm h]
      · next h1 h2 =>
        by_cases h : k = j
        · subst h; simp [tableGet, Ne.symm h2]
        · simp only [tableGet, h, if_false]; exact ih hw'.2

@[simp] theorem tableGet_put_self (t : Table n α) (i : Fin n) (v : α) : tableGet (tablePut t i v) i = some v := by
  induction t with
  | nil => simp [tablePut, tableGet]
  | cons c rest ih =>
    obtain ⟨k, w⟩ := c
    simp only [tablePut]
    split
    · simp [tableGet]
    · split
      · simp [tableGet]
      · next h => simp [tableGet, Ne.symm h, ih]

/-- Filtering keeps the canonical form. -/
theorem tableWf_filter {t : Table n α} (hw : tableWf t = true) (f : Fin n × α → Bool) :
    tableWf (t.filter f) = true := by
  induction t with
  | nil => rfl
  | cons c rest ih =>
    obtain ⟨k, w⟩ := c
    have hw' := tableWf_cons.1 hw
    by_cases h : f (k, w) = true
    · rw [List.filter_cons_of_pos h, tableWf_cons]
      exact ⟨fun e he => hw'.1 e (List.mem_of_mem_filter he), ih hw'.2⟩
    · rw [List.filter_cons_of_neg h]; exact ih hw'.2

/-- An erase keeps the canonical form. -/
theorem tableErase_wf {t : Table n α} (hw : tableWf t = true) (i : Fin n) : tableWf (tableErase t i) = true :=
  tableWf_filter hw _

/-- Reading after an erase. -/
theorem tableGet_erase (t : Table n α) (i j : Fin n) :
    tableGet (tableErase t i) j = if j = i then none else tableGet t j := by
  induction t with
  | nil => simp [tableErase, tableGet]
  | cons c rest ih =>
    obtain ⟨k, w⟩ := c
    simp only [tableErase] at ih ⊢
    by_cases hk : k = i
    · subst hk
      rw [List.filter_cons_of_neg (by simp), ih]
      by_cases h : j = k
      · simp [h]
      · simp [tableGet, h, Ne.symm h]
    · rw [List.filter_cons_of_pos (by simpa using hk)]
      by_cases h : k = j
      · subst h; simp [tableGet, hk]
      · simp only [tableGet, h, if_false]; exact ih

/-- A map over a table keeps the canonical form. -/
theorem tableMap_wf {t : Table n α} (hw : tableWf t = true) (f : Fin n → α → β) : tableWf (tableMap f t) = true := by
  induction t with
  | nil => rfl
  | cons c rest ih =>
    obtain ⟨k, w⟩ := c
    have hw' := tableWf_cons.1 hw
    simp only [tableMap, List.map_cons] at ih ⊢
    rw [tableWf_cons]
    refine ⟨fun e he => ?_, ih hw'.2⟩
    obtain ⟨x, hx, rfl⟩ := List.mem_map.1 he
    exact hw'.1 x hx

@[simp] theorem tableGet_map (f : Fin n → α → β) (t : Table n α) (i : Fin n) :
    tableGet (tableMap f t) i = (tableGet t i).map (f i) := by
  induction t with
  | nil => rfl
  | cons c rest ih =>
    obtain ⟨k, w⟩ := c
    simp only [tableMap, List.map_cons, tableGet] at ih ⊢
    by_cases h : k = i
    · simp [h]
    · simp [h, ih]

theorem tableMap_id {f : Fin n → α → α} {t : Table n α} (h : ∀ e ∈ t, f e.1 e.2 = e.2) : tableMap f t = t := by
  induction t with
  | nil => rfl
  | cons c rest ih =>
    simp only [tableMap, List.map_cons] at ih ⊢
    rw [h c (by simp), ih (fun e he => h e (by simp [he]))]

/-- A second write to a position replaces the first. -/
@[simp] theorem tablePut_put (t : Table n α) (i : Fin n) (v w : α) :
    tablePut (tablePut t i v) i w = tablePut t i w := by
  induction t with
  | nil => simp [tablePut]
  | cons e rest ih =>
    obtain ⟨k, x⟩ := e
    by_cases h1 : i < k
    · simp [tablePut, h1]
    · by_cases h2 : i = k
      · simp [tablePut, h2]
      · simp [tablePut, h1, h2, ih]

/-- Writing back what a canonical table holds changes nothing. -/
theorem tablePut_self {t : Table n α} (hw : tableWf t = true) {i : Fin n} {v : α} (h : tableGet t i = some v) :
    tablePut t i v = t := by
  induction t with
  | nil => simp [tableGet] at h
  | cons e rest ih =>
    obtain ⟨k, x⟩ := e
    rw [tableWf_cons] at hw
    by_cases hk : k = i
    · subst hk; simp [tableGet] at h; simp [tablePut, h]
    · simp [tableGet, hk] at h
      have hlt : k < i := hw.1 _ (tableGet_mem h)
      have h1 : ¬ i < k := fun h2 => absurd (Fin.lt_trans hlt h2) (by simp)
      simp [tablePut, h1, Ne.symm hk, ih hw.2 h]

@[simp] theorem State.putPoint_put (s : State) (t : Tag) (p q : Point) :
    (s.putPoint t p).putPoint t q = s.putPoint t q := by
  simp [State.putPoint]

end Sys2Proof.Machine
end

