-- ==== Sys2Proof/Laws/Routing.lean ====
section
/-! SUPPORT. Routing targets and the working out of routing (R36, R37): what a target depends on, and that nothing
happens where no target changes; and the abort of a handover (R134). -/

namespace Sys2Proof.Machine

/-- What an abort does, in full (R134). -/
theorem abortHandover_eq (d : Desk) (reason : AbortReason) (s : State) :
    abortHandover d reason s = s.aborted d reason.code := by
  simp only [abortHandover, State.aborted]
  cases (s.unit d).state <;> rfl

theorem unownedTarget_congr {s t : State} (hsup : s.supervisor = t.supervisor) (hloc : s.isLocal = t.isLocal)
    (hh : ∀ d, s.hasHolder d = t.hasHolder d) : s.unownedTarget = t.unownedTarget := by
  have : s.hasHolder = t.hasHolder := funext hh
  simp only [State.unownedTarget, hsup, hloc, this]

/-- A target depends on the ownership table, the supervisor desk, LOCAL, and which desks have a holder (R36). -/
theorem target_congr {s t : State} (hown : s.owners = t.owners) (hsup : s.supervisor = t.supervisor)
    (hloc : s.isLocal = t.isLocal) (hh : ∀ d, s.hasHolder d = t.hasHolder d) (a : Area) :
    s.target a = t.target a := by
  simp only [State.target, State.owner, hown, unownedTarget_congr hsup hloc hh]

theorem isLocal_congr {s t : State} (h : s.command = t.command) : s.isLocal = t.isLocal := by
  simp only [State.isLocal, h]

theorem hasHolder_congr {s t : State} (h : s.desks = t.desks) (d : Desk) : s.hasHolder d = t.hasHolder d := by
  simp only [State.hasHolder, State.unit, h]

@[simp] theorem State.putUnit_unit (s : State) (d : Desk) : s.putUnit d (s.unit d) = s := by
  simp only [State.putUnit, State.unit, PerDesk.set_get]

theorem DeskState.mapHandover_id (st : DeskState) (f : Handover → Handover) (h : ∀ x, f x = x) :
    st.mapHandover f = st := by
  cases st <;> simp [DeskState.mapHandover, h]

theorem mapCarried_id (s : State) (d : Desk) (f : List Carried → List Carried) (h : ∀ l, f l = l) :
    s.mapCarried d f = s := by
  simp only [State.mapCarried, State.putDeskState]
  rw [DeskState.mapHandover_id]
  · exact State.putUnit_unit s d
  · intro x; simp [h]

theorem dropCarried_none (s : State) (d : Desk) : dropCarried d (fun _ => false) s = s :=
  mapCarried_id s d _ (by intro l; simp)

theorem foldl_id {α β : Type} (f : β → α → β) (l : List α) (h : ∀ b, ∀ a ∈ l, f b a = b) (b : β) :
    l.foldl f b = b := by
  induction l with
  | nil => rfl
  | cons a rest ih =>
    rw [List.foldl_cons, h b a (by simp)]
    exact ih (fun b' a' ha => h b' a' (by simp [ha]))

/-- Nothing is done where no routing target has changed (R37). -/
theorem reroute_eq {before after : State} (h : ∀ a, before.target a = after.target a) :
    reroute before after = after := by
  have hm : ∀ p : Point, movedPoint before after p = false := by
    intro p; simp [movedPoint, h]
  have h0 : movedItems before after = [] := by
    simp [movedItems, hm]
  have h1 : clearMoved before after = after := by
    simp only [clearMoved, hm]
    rw [tableMap_id]
    intro e _; simp
  have h2 : hasTag [] = fun _ => false := by funext t; rfl
  simp only [reroute, h0, h1]
  rw [foldl_id (fun s d => dropMoved before [] d s)]
  · exact foldl_id _ _ (by intro b d _; simp [takeInMoved, h2]) _
  · intro b d _
    simp only [dropMoved, List.filter_nil, h2]
    exact dropCarried_none b d

/-- Nothing is done where the inputs of R36 are the same before and after. -/
theorem reroute_same {before after : State} (hown : before.owners = after.owners)
    (hsup : before.supervisor = after.supervisor) (hloc : before.isLocal = after.isLocal)
    (hdesk : ∀ d, before.hasHolder d = after.hasHolder d) : reroute before after = after :=
  reroute_eq (target_congr hown hsup hloc hdesk)

/-- The targets alone of the state before an event enter into the working out of routing. -/
theorem reroute_before_congr {b b' after : State} (h : ∀ a, b.target a = b'.target a) :
    reroute b after = reroute b' after := by
  have hm : movedPoint b after = movedPoint b' after := by
    funext p; simp only [movedPoint, h]
  have h1 : movedItems b after = movedItems b' after := by simp only [movedItems, hm]
  have h2 : clearMoved b after = clearMoved b' after := by simp only [clearMoved, hm]
  have h3 : ∀ m d s, dropMoved b m d s = dropMoved b' m d s := by
    intro m d s; simp only [dropMoved, h]
  simp only [reroute, h1, h2, h3]

/-! ### What an opening carries (R121) -/

theorem toCarry_iff (p : Point) : p.toCarry = true ↔ ∃ st, p.standing = some st ∧ (st ≠ .acked ∨ p.effective = 1) := by
  simp only [Point.toCarry]
  cases p.standing with
  | none => simp
  | some st => cases st <;> simp

/-- The entries an opening carries, spelt out (R121). -/
theorem toCarry_eq (s : State) (d : Desk) : s.toCarry d = (s.attentionList (.desk d)).filterMap (fun x =>
    match x.2.standing with
    | some st => if st ≠ .acked ∨ x.2.effective = 1 then some { tag := x.1, standing := st, briefed := false } else none
    | none => none) := by
  simp only [State.toCarry, toCarry_iff]
  congr 1
  funext x
  cases h : x.2.standing with
  | none => rfl
  | some st => simp

end Sys2Proof.Machine
end

