-- ==== Sys2Proof/Laws/Journal.lean ====
section
/-! SUPPORT. The journal and the attention flags (R178, R181, R184, R186): what making an entry can do. -/

namespace Sys2Proof.Machine

/-- The `n` sequence numbers before `next`, ascending. -/
def seqRun (next : Word32) (n : Nat) : List Word32 :=
  (List.range n).map (fun k => next - BitVec.ofNat 32 (n - k))

@[simp] theorem seqRun_length (next : Word32) (n : Nat) : (seqRun next n).length = n := by simp [seqRun]

theorem seqRun_drop (next : Word32) (n m : Nat) : (seqRun next n).drop m = seqRun next (n - m) := by
  apply List.ext_getElem
  · simp
  · intro k h1 h2
    simp only [seqRun, List.getElem_drop, List.getElem_map, List.getElem_range]
    rw [Nat.sub_add_eq]

theorem seqRun_succ (next : Word32) (n : Nat) : seqRun next n ++ [next] = seqRun (next + 1) (n + 1) := by
  apply List.ext_getElem
  · simp
  · intro k h1 h2
    simp only [seqRun_length] at h2
    by_cases hk : k < n
    · rw [List.getElem_append_left (by simpa using hk)]
      simp only [seqRun, List.getElem_map, List.getElem_range]
      have : n + 1 - k = (n - k) + 1 := by omega
      rw [this, BitVec.ofNat_add]
      generalize BitVec.ofNat 32 (n - k) = y
      bv_omega
    · have hk' : k = n := by omega
      subst hk'
      simp [seqRun]

theorem journalLawful_iff (s : State) :
    s.JournalLawful ↔ s.journal.length ≤ 2048 ∧ s.journal.map (·.seq) = seqRun s.nextSeq s.journal.length := Iff.rfl

/-- An entry keeps the ring's law (R178). -/
theorem append_journalLawful {s : State} (what : Draft) (h : s.JournalLawful) : (append what s).JournalLawful := by
  rw [journalLawful_iff] at h ⊢
  obtain ⟨h1, h2⟩ := h
  have hlen : (append what s).journal.length = min 2048 (s.journal.length + 1) := by
    simp only [append, retain, Config.journalDepth, List.length_drop, List.length_append, List.length_singleton]
    omega
  refine ⟨by rw [hlen]; omega, ?_⟩
  rw [hlen]
  have hseq : (s.stamp what).seq = s.nextSeq := rfl
  have hmap : (append what s).journal.map (·.seq) =
      (s.journal.map (·.seq) ++ [s.nextSeq]).drop (s.journal.length + 1 - 2048) := by
    rw [← hseq]
    simp only [append, retain, Config.journalDepth, List.length_append, List.length_singleton, List.map_drop,
      List.map_append, List.map_cons, List.map_nil]
  have hnext : (append what s).nextSeq = s.nextSeq + 1 := rfl
  have hcount : s.journal.length + 1 - (s.journal.length + 1 - 2048) = min 2048 (s.journal.length + 1) := by omega
  rw [hmap, h2, seqRun_succ, seqRun_drop, hnext, hcount]

/-- What setting a class pending can change: the pending flags and the notice-waiting marks (R184, R186). -/
theorem setPending_eq (c : AttnClass) (s : State) :
    ∃ (pending : ClassSet) (n0 n1 : Bool), setPending c s =
      { s with attention := { s.attention with pending := pending }
               links := { s0 := { s.links.s0 with notice := n0 }, s1 := { s.links.s1 with notice := n1 } } } := by
  simp only [setPending]
  by_cases h : inClasses s.attention.pending c = true
  · exact ⟨s.attention.pending, s.links.s0.notice, s.links.s1.notice, by rw [if_pos h]⟩
  · by_cases h2 : inClasses s.attention.enabled c = true
    · exact ⟨s.attention.pending ||| classBit c, true, true, by rw [if_neg h, if_pos h2]; rfl⟩
    · exact ⟨s.attention.pending ||| classBit c, s.links.s0.notice, s.links.s1.notice, by rw [if_neg h, if_neg h2]⟩

/-- What making an entry can change: the journal, its next number, the pending flags and the notice-waiting marks
(R178, R181). -/
theorem enter_eq (what : Draft) (s : State) :
    ∃ (pending : ClassSet) (n0 n1 : Bool), enter what s =
      { s with journal := retain (s.journal ++ [s.stamp what]), nextSeq := s.nextSeq + 1
               attention := { s.attention with pending := pending }
               links := { s0 := { s.links.s0 with notice := n0 }, s1 := { s.links.s1 with notice := n1 } } } := by
  simp only [enter]
  cases what.kind.attnClass with
  | none => exact ⟨s.attention.pending, s.links.s0.notice, s.links.s1.notice, rfl⟩
  | some c =>
    obtain ⟨p, n0, n1, h⟩ := setPending_eq c (append what s)
    refine ⟨p, n0, n1, ?_⟩
    refine Eq.trans h ?_
    simp only [append]

@[simp] theorem setPending_journal (c : AttnClass) (s : State) : (setPending c s).journal = s.journal := by
  obtain ⟨p, n0, n1, h⟩ := setPending_eq c s
  rw [h]

@[simp] theorem setPending_nextSeq (c : AttnClass) (s : State) : (setPending c s).nextSeq = s.nextSeq := by
  obtain ⟨p, n0, n1, h⟩ := setPending_eq c s
  rw [h]

theorem enter_journal (what : Draft) (s : State) : (enter what s).journal = (append what s).journal := by
  simp only [enter]
  cases what.kind.attnClass <;> simp

theorem enter_nextSeq (what : Draft) (s : State) : (enter what s).nextSeq = s.nextSeq + 1 := by
  simp only [enter]
  cases what.kind.attnClass <;> simp [append]

theorem enter_journalLawful {s : State} (what : Draft) (h : s.JournalLawful) : (enter what s).JournalLawful := by
  have h' := append_journalLawful what h
  rw [journalLawful_iff] at h' ⊢
  rw [enter_journal, enter_nextSeq]
  exact h'

/-! ### Fields an entry leaves alone -/

section
variable (w : Draft) (s : State)
theorem enter_as : enter w s = { s with
    journal := (enter w s).journal, nextSeq := (enter w s).nextSeq, attention := (enter w s).attention
    links := (enter w s).links } := by
  obtain ⟨p, n0, n1, h⟩ := enter_eq w s
  rw [h]
@[simp] theorem enter_phase : (enter w s).phase = s.phase := by rw [enter_as]
@[simp] theorem enter_resetInput : (enter w s).resetInput = s.resetInput := by rw [enter_as]
@[simp] theorem enter_runSeconds : (enter w s).runSeconds = s.runSeconds := by rw [enter_as]
@[simp] theorem enter_tick : (enter w s).tick = s.tick := by rw [enter_as]
@[simp] theorem enter_mill : (enter w s).mill = s.mill := by rw [enter_as]
@[simp] theorem enter_schedule : (enter w s).schedule = s.schedule := by rw [enter_as]
@[simp] theorem enter_markMode : (enter w s).markMode = s.markMode := by rw [enter_as]
@[simp] theorem enter_timeHold : (enter w s).timeHold = s.timeHold := by rw [enter_as]
@[simp] theorem enter_limits : (enter w s).limits = s.limits := by rw [enter_as]
@[simp] theorem enter_heldFlood : (enter w s).heldFlood = s.heldFlood := by rw [enter_as]
@[simp] theorem enter_points : (enter w s).points = s.points := by rw [enter_as]
@[simp] theorem enter_operators : (enter w s).operators = s.operators := by rw [enter_as]
@[simp] theorem enter_owners : (enter w s).owners = s.owners := by rw [enter_as]
@[simp] theorem enter_supervisor : (enter w s).supervisor = s.supervisor := by rw [enter_as]
@[simp] theorem enter_desks : (enter w s).desks = s.desks := by rw [enter_as]
@[simp] theorem enter_load : (enter w s).load = s.load := by rw [enter_as]
@[simp] theorem enter_intake : (enter w s).intake = s.intake := by rw [enter_as]
@[simp] theorem enter_flash : (enter w s).flash = s.flash := by rw [enter_as]
@[simp] theorem enter_staged : (enter w s).staged = s.staged := by rw [enter_as]
@[simp] theorem enter_position : (enter w s).position = s.position := by rw [enter_as]
@[simp] theorem enter_horn : (enter w s).horn = s.horn := by rw [enter_as]
@[simp] theorem enter_command : (enter w s).command = s.command := by rw [enter_as]
@[simp] theorem enter_store : (enter w s).store = s.store := by rw [enter_as]
@[simp] theorem enter_image : (enter w s).image = s.image := by rw [enter_as]
@[simp] theorem enter_pending : (enter w s).pending = s.pending := by rw [enter_as]
@[simp] theorem enter_unit (d : Desk) : (enter w s).unit d = s.unit d := by simp [State.unit]
@[simp] theorem enter_slot (d : Desk) (k : SlotId) : (enter w s).slot d k = s.slot d k := by simp [State.slot]
@[simp] theorem enter_target (a : Area) : (enter w s).target a = s.target a :=
  target_congr (by simp) (by simp) (isLocal_congr (by simp)) (hasHolder_congr (by simp)) a
end

end Sys2Proof.Machine
end

