-- ==== Sys2Proof/Laws/Clock.lean ====
section
/-! SUPPORT. Shift starts firing: what one does, and that a run of them is a fold over their numbers, so that no later
proof unfolds the time base's recursion. -/

namespace Sys2Proof.Machine

/-- A start fired changes mill time's last fired boundary, the desks' DUE marks, and what its entry changes. -/
theorem fireBoundary_eq (m : Nat) (s : State) :
    fireBoundary m s =
      { enter { kind := .shiftStart, d1 := some (startIndex s.schedule m), d2 := some (desksWithHolder s).length }
          { s with mill := s.mill.map (fun c => { c with lastFired := startTime s.schedule m }) } with
        desks := PerDesk.of (fun d => markDue s.runSeconds (s.unit d)) } := by
  unfold fireBoundary
  simp only [State.unit, enter_desks]

@[simp] theorem fireBoundary_schedule (m : Nat) (s : State) : (fireBoundary m s).schedule = s.schedule := by
  rw [fireBoundary_eq]; simp

@[simp] theorem fireBoundary_runSeconds (m : Nat) (s : State) : (fireBoundary m s).runSeconds = s.runSeconds := by
  rw [fireBoundary_eq]; simp

/-- Starts fired one after the other are a fold over their numbers. -/
theorem fireFrom_eq_foldl (first n : Nat) (s : State) :
    fireFrom first n s = (List.range' first n).foldl (fun u m => fireBoundary m u) s := by
  induction n generalizing first s with
  | zero => rfl
  | succ n ih => simp [fireFrom, List.range'_succ, ih]

/-- The crossed starts fire as `State.startsFire` says. -/
theorem fireCrossed_eq (range : Nat × Nat) (s : State) : fireCrossed range s = s.startsFire range.1 range.2 := by
  simp only [fireCrossed, firedAndPassed, State.startsFire, fireFrom_eq_foldl, Nat.min_comm]

end Sys2Proof.Machine
end

