-- ==== Sys2Proof/Laws/Frames.lean ====
section
/-! SUPPORT. Taking a frame (R193 to R197): once and for all, what a frame of a command or a query does on a link that
can take it, so that no later proof unfolds the taking. -/

namespace Sys2Proof.Machine

theorem replyType (type : Byte) : type ||| 128 = 128 + type % 128 := by
  revert type; decide

/-- An answer goes to its link as `State.replies` says, by its body. -/
theorem answer_reply (l : Link) (type tag : Byte) (a : Answer) (s : State) {status reason : Byte} {body : List Byte}
    (h : a.body = status :: reason :: body) :
    answer l .reply type tag a s = s.replies l type tag status reason body := by
  simp only [answer, SupLink.offer, State.replies, State.sends, replyFrame, h, replyType]
  cases (s.link l).sending <;> rfl

/-! ### Fields of `listening` -/

@[simp] theorem takeOpportunity_command (l : Link) (s : State) : (takeOpportunity l s).command = s.command := rfl
@[simp] theorem setReceiver_command (l : Link) (r : Receiver) (s : State) : (setReceiver l r s).command = s.command := rfl

/-- The state in which a frame is served differs from the state before in its links and its silence timer alone. -/
theorem listening_eq (l : Link) (s : State) :
    s.listening l = { s with links := (s.listening l).links, command := (s.timerRestarted l).command } := by
  simp only [State.listening, State.timerRestarted, takeOpportunity_command, setReceiver_command]
  cases hs : s.command with
  | unlatched => simp only [hs]; rw [← hs]; rfl
  | lost c e => simp only [hs]; rw [← hs]; rfl
  | latched c e =>
    by_cases hc : c = l
    · simp only [hc, if_true]; rfl
    · simp only [hc, if_false, hs]; rw [← hs]; rfl

@[simp] theorem listening_phase (l : Link) (s : State) : (s.listening l).phase = s.phase := by rw [listening_eq]
@[simp] theorem listening_resetInput (l : Link) (s : State) : (s.listening l).resetInput = s.resetInput := by rw [listening_eq]
@[simp] theorem listening_runSeconds (l : Link) (s : State) : (s.listening l).runSeconds = s.runSeconds := by rw [listening_eq]
@[simp] theorem listening_tick (l : Link) (s : State) : (s.listening l).tick = s.tick := by rw [listening_eq]
@[simp] theorem listening_mill (l : Link) (s : State) : (s.listening l).mill = s.mill := by rw [listening_eq]
@[simp] theorem listening_schedule (l : Link) (s : State) : (s.listening l).schedule = s.schedule := by rw [listening_eq]
@[simp] theorem listening_markMode (l : Link) (s : State) : (s.listening l).markMode = s.markMode := by rw [listening_eq]
@[simp] theorem listening_timeHold (l : Link) (s : State) : (s.listening l).timeHold = s.timeHold := by rw [listening_eq]
@[simp] theorem listening_limits (l : Link) (s : State) : (s.listening l).limits = s.limits := by rw [listening_eq]
@[simp] theorem listening_heldFlood (l : Link) (s : State) : (s.listening l).heldFlood = s.heldFlood := by rw [listening_eq]
@[simp] theorem listening_points (l : Link) (s : State) : (s.listening l).points = s.points := by rw [listening_eq]
@[simp] theorem listening_operators (l : Link) (s : State) : (s.listening l).operators = s.operators := by rw [listening_eq]
@[simp] theorem listening_owners (l : Link) (s : State) : (s.listening l).owners = s.owners := by rw [listening_eq]
@[simp] theorem listening_supervisor (l : Link) (s : State) : (s.listening l).supervisor = s.supervisor := by rw [listening_eq]
@[simp] theorem listening_desks (l : Link) (s : State) : (s.listening l).desks = s.desks := by rw [listening_eq]
@[simp] theorem listening_load (l : Link) (s : State) : (s.listening l).load = s.load := by rw [listening_eq]
@[simp] theorem listening_intake (l : Link) (s : State) : (s.listening l).intake = s.intake := by rw [listening_eq]
@[simp] theorem listening_flash (l : Link) (s : State) : (s.listening l).flash = s.flash := by rw [listening_eq]
@[simp] theorem listening_staged (l : Link) (s : State) : (s.listening l).staged = s.staged := by rw [listening_eq]
@[simp] theorem listening_position (l : Link) (s : State) : (s.listening l).position = s.position := by rw [listening_eq]
@[simp] theorem listening_horn (l : Link) (s : State) : (s.listening l).horn = s.horn := by rw [listening_eq]
@[simp] theorem listening_journal (l : Link) (s : State) : (s.listening l).journal = s.journal := by rw [listening_eq]
@[simp] theorem listening_nextSeq (l : Link) (s : State) : (s.listening l).nextSeq = s.nextSeq := by rw [listening_eq]
@[simp] theorem listening_attention (l : Link) (s : State) : (s.listening l).attention = s.attention := by rw [listening_eq]
@[simp] theorem listening_store (l : Link) (s : State) : (s.listening l).store = s.store := by rw [listening_eq]
@[simp] theorem listening_image (l : Link) (s : State) : (s.listening l).image = s.image := by rw [listening_eq]
@[simp] theorem listening_pending (l : Link) (s : State) : (s.listening l).pending = s.pending := by rw [listening_eq]

@[simp] theorem timerRestarted_isLocal (l : Link) (s : State) : (s.timerRestarted l).isLocal = s.isLocal := by
  simp only [State.timerRestarted]
  cases h : s.command with
  | unlatched => rfl
  | lost c e => rfl
  | latched c e => by_cases hc : c = l <;> simp [hc, State.isLocal, h]

@[simp] theorem listening_isLocal (l : Link) (s : State) : (s.listening l).isLocal = s.isLocal := by
  simp only [State.listening, timerRestarted_isLocal]
  exact isLocal_congr rfl

/-- No routing target changes while a frame is being taken, outside the end of LOCAL. -/
theorem listening_target (l : Link) (s : State) (a : Area) : (s.listening l).target a = s.target a :=
  target_congr (by simp) (by simp) (by simp) (hasHolder_congr (by simp)) a

/-- The state in which a frame is handled, after the receiver and the opportunity to send. -/
theorem taking_target (l : Link) (s : State) (a : Area) :
    (takeOpportunity l (setReceiver l .hunting s)).target a = s.target a :=
  target_congr rfl rfl rfl (fun _ => rfl) a

/-! ### Hearing -/

/-- Outside LOCAL on this link, hearing a frame restarts the silence timer and nothing else (R197). -/
theorem heard_eq {l : Link} {s : State} (h : ∀ e, s.command ≠ .lost l e) : heard l s = s.timerRestarted l := by
  simp only [heard, State.timerRestarted]
  cases hc : s.command with
  | unlatched => rfl
  | latched c e => rfl
  | lost c e =>
    have : c ≠ l := by intro hcl; exact h e (by rw [hc, hcl])
    simp [this]

theorem reroute_heard {l : Link} {s : State} (h : ∀ e, s.command ≠ .lost l e) :
    reroute s (heard l s) = s.timerRestarted l := by
  rw [heard_eq h]
  apply reroute_eq
  intro a
  refine target_congr ?_ ?_ (timerRestarted_isLocal l s).symm (fun d => ?_) a
  all_goals
    simp only [State.timerRestarted, State.hasHolder, State.unit]
    cases s.command with
    | unlatched => rfl
    | lost c e => rfl
    | latched c e => by_cases hc : c = l <;> simp [hc]

/-! ### The taking of a frame -/

/-- A frame that is taken is served with the link hunting and its opportunity to send taken, and answered (R193). -/
theorem takeFrame_eq {s : State} {l : Link} (h : s.canTake l) (type tag : Byte) (serve : Serve) :
    takeFrame l type tag serve s = handle l type tag serve (setReceiver l .hunting s) := by
  have h2 : ((setReceiver l .hunting s).link l).taken = (s.link l).taken := by
    simp [setReceiver, SupLink.taken, SupLink.unsent]
  simp only [takeFrame, h.1, if_true, h2, Config.linkDepth, h.2]

/-- What serving gives is the state after but for the reply. -/
theorem handle_eq (l : Link) (type tag : Byte) (serve : Serve) (s : State) {t : State} {a : Answer}
    {status reason : Byte} {body : List Byte} (hs : serve (takeOpportunity l s) = (t, a)) (hp : t.phase ≠ .closing)
    (hb : a.body = status :: reason :: body) :
    handle l type tag serve s = t.replies l type tag status reason body := by
  simp only [handle, hs, hp, if_false]
  exact answer_reply l type tag a t hb

/-- A query, or a frame of an unaccepted type, outside LOCAL on this link (R193, R197). -/
theorem takeFrame_query {s t : State} {l : Link} (h : s.canTake l) (hl : ∀ e, s.command ≠ .lost l e)
    (type tag : Byte) (serve : Serve) {a : Answer} {status reason : Byte} {body : List Byte}
    (hs : serve (s.listening l) = (t, a)) (hp : t.phase ≠ .closing) (hb : a.body = status :: reason :: body) :
    takeFrame l type tag (asQuery l serve) s = t.replies l type tag status reason body := by
  rw [takeFrame_eq h]
  refine handle_eq l type tag _ _ (a := a) ?_ hp hb
  simp only [asQuery]
  rw [reroute_heard (by simpa using hl)]
  exact hs

/-- A command on the latched command link (R195, R197). -/
theorem takeFrame_command {s t : State} {l : Link} (h : s.commands l) (type tag : Byte) (serve : Serve)
    {a : Answer} {status reason : Byte} {body : List Byte} (hs : serve (s.listening l) = (t, a))
    (hp : t.phase ≠ .closing) (hb : a.body = status :: reason :: body) :
    takeFrame l type tag (asCommand l serve) s = t.replies l type tag status reason body := by
  obtain ⟨h, e, he⟩ := h
  have hne : ∀ e', (takeOpportunity l (setReceiver l .hunting s)).command ≠ .lost l e' := by simp [he]
  rw [takeFrame_eq h]
  refine handle_eq l type tag _ _ (a := a) ?_ hp hb
  simp only [asCommand, latch, State.commandLink, takeOpportunity_command, setReceiver_command, he, if_true]
  rw [reroute_heard hne]
  exact hs

/-- A command that may change inputs of routing, on the latched command link: routing is worked out from the state
before to the state it leaves (R37, R195). -/
theorem takeFrame_routing {s t : State} {l : Link} (h : s.commands l) (type tag : Byte) (serve : Serve)
    {a : Answer} {status reason : Byte} {body : List Byte} (hs : serve (s.listening l) = (t, a))
    (hp : (reroute s t).phase ≠ .closing) (hb : a.body = status :: reason :: body) :
    takeFrame l type tag (asRoutingCommand l serve) s = (reroute s t).replies l type tag status reason body := by
  obtain ⟨h, e, he⟩ := h
  have hne : ∀ e', (takeOpportunity l (setReceiver l .hunting s)).command ≠ .lost l e' := by simp [he]
  rw [takeFrame_eq h]
  refine handle_eq l type tag _ _ (a := a) ?_ hp hb
  simp only [asRoutingCommand, latch, State.commandLink, takeOpportunity_command, setReceiver_command, he, if_true]
  rw [heard_eq hne]
  have hs' : serve ((takeOpportunity l (setReceiver l .hunting s)).timerRestarted l) = (t, a) := hs
  simp only [hs']
  rw [reroute_before_congr (b' := s) (taking_target l s)]

/-- A command on the link that is not the command link (R193, R195). -/
theorem takeFrame_notCommandLink {s : State} {l c : Link} (h : s.canTake l) (hc : s.commandLink = some c) (hne : c ≠ l)
    (type tag : Byte) (serve : Serve) :
    takeFrame l type tag (asCommand l serve) s = (s.listening l).replies l type tag 3 0 [] := by
  have hl : s.listening l = takeOpportunity l (setReceiver l .hunting s) := by
    simp only [State.listening, State.timerRestarted, takeOpportunity_command, setReceiver_command]
    cases he : s.command with
    | unlatched => rfl
    | lost c e => rfl
    | latched c' e =>
      have : c' ≠ l := by simp only [State.commandLink, he, Option.some.injEq] at hc; rw [hc]; exact hne
      simp [this]
  have hc' : (takeOpportunity l (setReceiver l .hunting s)).commandLink = some c := hc
  rw [takeFrame_eq h]
  refine handle_eq l type tag _ _ (a := .notCommandLink) ?_ (by simp [h.1]) rfl
  simp only [asCommand, latch, hc', hne, if_false, hl]

/-- Outside RUNNING no frame is taken (R198, R199). -/
theorem takeFrame_idle {s : State} {l : Link} (h : s.phase ≠ .running) (type tag : Byte) (serve : Serve) :
    takeFrame l type tag serve s = s := by
  simp only [takeFrame, h, if_false]

/-- A BUSY reply is unsent exactly when the count of them is not 0 (R193). -/
theorem busyUnsent_eq (l : SupLink) : l.busyUnsent = decide (0 < l.busyCount) := by
  simp only [SupLink.busyUnsent, SupLink.busyCount, List.length_filter_pos_iff, List.any_eq]

/-- A fifth frame is heard and turned away while no BUSY reply is unsent (R193, R197; log 12). -/
theorem takeFrame_fifth {s : State} {l : Link} (h : s.phase = .running) (h4 : 4 ≤ (s.link l).taken)
    (hb : (s.link l).busyCount = 0) (type tag : Byte) (serve : Serve) :
    takeFrame l type tag serve s =
      (reroute (takeOpportunity l (setReceiver l .hunting s))
        (heard l (takeOpportunity l (setReceiver l .hunting s)))).sends l
          { role := .busyReply, type := 128 + type % 128, tag := tag, body := [5, 0] } := by
  have h1 : ((setReceiver l .hunting s).link l).taken = (s.link l).taken := by
    simp [setReceiver, SupLink.taken, SupLink.unsent]
  have h2 : ((setReceiver l .hunting s).link l).busyCount = (s.link l).busyCount := by
    simp [setReceiver, SupLink.busyCount, SupLink.unsent]
  have h3 : ¬ (s.link l).taken < Config.linkDepth := by simp only [Config.linkDepth]; omega
  simp only [takeFrame, h, if_true, h1, h3, if_false, busyUnsent_eq, h2, hb, Nat.lt_irrefl, decide_false,
    Bool.false_eq_true, turnAway, answer, SupLink.offer, State.sends, replyFrame, replyType, Answer.body]
  generalize reroute _ _ = t
  cases (t.link l).sending <;> rfl

/-- The end of LOCAL by a frame on its link (R197). -/
theorem heard_lost {l : Link} {s : State} {lostAt : Word32} (h : s.command = .lost l lostAt) :
    heard l s = enter { kind := .linkBack, d1 := some l.code
                        d2 := some (min 65535 (s.runSeconds - lostAt).toNat) }
      { s with command := .latched l (s.runSeconds + BitVec.ofNat 32 s.limits.silenceTime) } := by
  simp only [heard, h, if_true]
  rfl

end Sys2Proof.Machine
end

