-- ==== Sys2Proof/Laws/Quiet.lean ====
section
/-! SUPPORT. What the operations of the alarm engine, the area map and the desk units leave alone, and the laws they
keep: one lemma for each operation of Machine/Ops.lean and Machine/Desks.lean. -/

namespace Sys2Proof.Machine

/-- Whether a desk state's carried list is lawful (R119). -/
def DeskState.CarriedOk (st : DeskState) : Prop :=
  ∀ h, st.handover? = some h → h.carried.length ≤ 32 ∧ (h.carried.map (·.tag)).Nodup

/-- From `s` to `t` nothing has happened but what points, ownership, desks, arrivals, the journal and notices can show:
every other field is the same, no desk entered handover, and the laws of the tables, of the journal, of the loads and of
the carried lists have been kept. -/
structure State.Quiet (s t : State) : Prop where
  rest : t = { s with points := t.points, owners := t.owners, desks := t.desks, load := t.load, journal := t.journal
                      nextSeq := t.nextSeq, attention := t.attention, links := t.links }
  links : ∀ l, t.link l = { s.link l with notice := (t.link l).notice }
  attention : t.attention = { s.attention with pending := t.attention.pending }
  journal : s.JournalLawful → t.JournalLawful
  points : tableWf s.points = true → tableWf t.points = true
  owners : tableWf s.owners = true → tableWf t.owners = true
  load : ∀ u, (t.loadOf u).l = (s.loadOf u).l ∧ (t.loadOf u).flood = (s.loadOf u).flood ∧
    ((s.loadOf u).w ≤ 255 → (t.loadOf u).w ≤ 255)
  config : ∀ d, (t.unit d).home = (s.unit d).home ∧ (t.unit d).tone = (s.unit d).tone ∧
    (t.unit d).hornHold = (s.unit d).hornHold ∧ (t.unit d).lamps = (s.unit d).lamps
  carried : ∀ d, (s.unit d).state.CarriedOk → (t.unit d).state.CarriedOk
  handover : ∀ d, t.inHandover d = true → s.inHandover d = true

namespace State.Quiet

theorem refl (s : State) : s.Quiet s :=
  ⟨rfl, fun _ => rfl, rfl, id, id, id, fun _ => ⟨rfl, rfl, id⟩, fun _ => ⟨rfl, rfl, rfl, rfl⟩, fun _ => id, fun _ => id⟩

theorem trans {s t u : State} (h : s.Quiet t) (k : t.Quiet u) : s.Quiet u where
  rest := by
    have h1 := h.rest
    have h2 := k.rest
    rw [h1] at h2
    exact h2
  links l := by rw [k.links l, h.links l]
  attention := by rw [k.attention, h.attention]
  journal := k.journal ∘ h.journal
  points := k.points ∘ h.points
  owners := k.owners ∘ h.owners
  load x := ⟨(k.load x).1.trans (h.load x).1, (k.load x).2.1.trans (h.load x).2.1, (k.load x).2.2 ∘ (h.load x).2.2⟩
  config d := ⟨(k.config d).1.trans (h.config d).1, (k.config d).2.1.trans (h.config d).2.1,
    (k.config d).2.2.1.trans (h.config d).2.2.1, (k.config d).2.2.2.trans (h.config d).2.2.2⟩
  carried d := k.carried d ∘ h.carried d
  handover d := h.handover d ∘ k.handover d

theorem phase {s t : State} (h : s.Quiet t) : t.phase = s.phase := by rw [h.rest]
theorem runSeconds {s t : State} (h : s.Quiet t) : t.runSeconds = s.runSeconds := by rw [h.rest]
theorem operators {s t : State} (h : s.Quiet t) : t.operators = s.operators := by rw [h.rest]
theorem command {s t : State} (h : s.Quiet t) : t.command = s.command := by rw [h.rest]

/-- Working through a list of quiet steps. -/
theorem foldl {α : Type} {f : State → α → State} (h : ∀ (s : State) a, s.Quiet (f s a)) (l : List α) (s : State) :
    s.Quiet (l.foldl f s) := by
  induction l generalizing s with
  | nil => exact refl s
  | cons a rest ih => exact (h s a).trans (ih (f s a))

end State.Quiet

/-! ### The plain updates -/

theorem setPending_quiet (c : AttnClass) (s : State) : s.Quiet (setPending c s) := by
  obtain ⟨p, n0, n1, h⟩ := setPending_eq c s
  have hj := setPending_journal c s
  have hn := setPending_nextSeq c s
  refine ⟨by rw [h], ?_, by rw [h], ?_, by rw [h]; exact id, by rw [h]; exact id, ?_, ?_, ?_, ?_⟩
  · intro l; rw [h]; cases l <;> rfl
  · intro hl; rw [journalLawful_iff] at hl ⊢; rw [hj, hn]; exact hl
  · intro u; rw [h]; exact ⟨rfl, rfl, id⟩
  · intro d; rw [h]; exact ⟨rfl, rfl, rfl, rfl⟩
  · intro d; rw [h]; exact id
  · intro d; rw [h]; exact id

/-- Making an entry (R178, R181). -/
theorem enter_quiet (w : Draft) (s : State) : s.Quiet (enter w s) := by
  obtain ⟨p, n0, n1, h⟩ := enter_eq w s
  have hj := enter_journalLawful (s := s) w
  have e1 : ∀ d, (enter w s).unit d = s.unit d := enter_unit w s
  refine ⟨by rw [h], ?_, by rw [h], hj, by simp, by simp, ?_, ?_, ?_, ?_⟩
  · intro l; rw [h]; cases l <;> rfl
  · intro u
    have e2 : (enter w s).loadOf u = s.loadOf u := by simp [State.loadOf]
    rw [e2]
    exact ⟨rfl, rfl, id⟩
  · intro d; rw [e1]; exact ⟨rfl, rfl, rfl, rfl⟩
  · intro d; rw [e1]; exact id
  · intro d; simp only [State.inHandover, e1]; exact id

theorem putPoint_quiet (tag : Tag) (p : Point) (s : State) : s.Quiet (s.putPoint tag p) :=
  ⟨rfl, fun _ => rfl, rfl, id, fun h => tablePut_wf h _ _, id, fun _ => ⟨rfl, rfl, id⟩, fun _ => ⟨rfl, rfl, rfl, rfl⟩,
    fun _ => id, fun _ => id⟩

/-- A change of every record of the point table. -/
theorem mapPoints_quiet (f : Tag → Point → Point) (s : State) :
    s.Quiet { s with points := tableMap f s.points } :=
  ⟨rfl, fun _ => rfl, rfl, id, fun h => tableMap_wf h _, id, fun _ => ⟨rfl, rfl, id⟩, fun _ => ⟨rfl, rfl, rfl, rfl⟩,
    fun _ => id, fun _ => id⟩

theorem setOwner_quiet (a : Area) (d : Option Desk) (s : State) : s.Quiet (s.setOwner a d) := by
  cases d with
  | none =>
    exact ⟨rfl, fun _ => rfl, rfl, id, id, fun h => tableErase_wf h _, fun _ => ⟨rfl, rfl, id⟩,
      fun _ => ⟨rfl, rfl, rfl, rfl⟩, fun _ => id, fun _ => id⟩
  | some d =>
    exact ⟨rfl, fun _ => rfl, rfl, id, id, fun h => tablePut_wf h _ _, fun _ => ⟨rfl, rfl, id⟩,
      fun _ => ⟨rfl, rfl, rfl, rfl⟩, fun _ => id, fun _ => id⟩

/-- An arrival's weight (R55). -/
theorem addWeight_quiet (t : Target) (w : Nat) (s : State) : s.Quiet (addWeight t w s) := by
  refine ⟨rfl, fun _ => rfl, rfl, id, id, id, ?_, fun _ => ⟨rfl, rfl, rfl, rfl⟩, fun _ => id, fun _ => id⟩
  intro u
  simp only [addWeight, State.loadOf_putLoad]
  by_cases h : u = t
  · subst h; simp
  · simp [h]

/-- A change of a desk unit that keeps its configuration, keeps its carried list lawful and enters no handover. -/
theorem putUnit_quiet {s : State} {d : Desk} {u : DeskUnit}
    (hc : u.home = (s.unit d).home ∧ u.tone = (s.unit d).tone ∧ u.hornHold = (s.unit d).hornHold ∧
      u.lamps = (s.unit d).lamps)
    (hcar : (s.unit d).state.CarriedOk → u.state.CarriedOk)
    (hh : u.state.handover?.isSome = true → (s.unit d).state.handover?.isSome = true) : s.Quiet (s.putUnit d u) := by
  refine ⟨rfl, fun _ => rfl, rfl, id, id, id, fun _ => ⟨rfl, rfl, id⟩, ?_, ?_, ?_⟩
  · intro e
    rw [State.unit_putUnit]
    by_cases h : e = d
    · subst h; simpa using hc
    · simp [h]
  · intro e
    rw [State.unit_putUnit]
    by_cases h : e = d
    · subst h; simpa using hcar
    · simp [h]
  · intro e
    simp only [State.inHandover, State.unit_putUnit]
    by_cases h : e = d
    · subst h; simpa using hh
    · simp [h]

theorem setSlot_fields (u : DeskUnit) (k : SlotId) (v : Slot) :
    (u.setSlot k v).home = u.home ∧ (u.setSlot k v).tone = u.tone ∧ (u.setSlot k v).hornHold = u.hornHold ∧
      (u.setSlot k v).lamps = u.lamps ∧ (u.setSlot k v).state = u.state ∧ (u.setSlot k v).due = u.due := by
  cases k <;> exact ⟨rfl, rfl, rfl, rfl, rfl, rfl⟩

/-- A change of a key slot. -/
theorem putSlot_quiet (d : Desk) (k : SlotId) (v : Slot) (s : State) : s.Quiet (s.putSlot d k v) := by
  obtain ⟨h1, h2, h3, h4, h5, _⟩ := setSlot_fields (s.unit d) k v
  exact putUnit_quiet ⟨h1, h2, h3, h4⟩ (by rw [h5]; exact id) (by rw [h5]; exact id)

theorem setResult_quiet (d : Desk) (k : SlotId) (r : SignOn) (s : State) : s.Quiet (s.setResult d k r) :=
  putSlot_quiet _ _ _ _

/-- A change of a desk's state that keeps its carried list lawful and enters no handover. -/
theorem putDeskState_quiet {s : State} {d : Desk} {st : DeskState}
    (hcar : (s.unit d).state.CarriedOk → st.CarriedOk)
    (hh : st.handover?.isSome = true → (s.unit d).state.handover?.isSome = true) : s.Quiet (s.putDeskState d st) :=
  putUnit_quiet ⟨rfl, rfl, rfl, rfl⟩ hcar hh

/-- A desk leaves handover, or stays out of it. -/
theorem putDeskState_quiet_out {s : State} {d : Desk} {st : DeskState} (h : st.handover? = none) :
    s.Quiet (s.putDeskState d st) :=
  putDeskState_quiet (fun _ x hx => by rw [h] at hx; cases hx) (by rw [h]; simp)

theorem clearDue_quiet (d : Desk) (s : State) : s.Quiet (clearDue d s) :=
  putUnit_quiet ⟨rfl, rfl, rfl, rfl⟩ id id

theorem handover_mapHandover (st : DeskState) (f : Handover → Handover) :
    (st.mapHandover f).handover? = st.handover?.map f := by
  cases st <;> rfl

/-- A change of a desk's carried list that keeps it lawful. -/
theorem mapCarried_quiet {s : State} {d : Desk} {f : List Carried → List Carried}
    (hf : ∀ h, (s.unit d).state.handover? = some h → h.carried.length ≤ 32 → (h.carried.map (·.tag)).Nodup →
      (f h.carried).length ≤ 32 ∧ ((f h.carried).map (·.tag)).Nodup) : s.Quiet (s.mapCarried d f) := by
  apply putDeskState_quiet
  · intro hok x hx
    rw [handover_mapHandover] at hx
    cases hs : (s.unit d).state.handover? with
    | none => rw [hs] at hx; cases hx
    | some h =>
      rw [hs] at hx
      simp only [Option.map_some, Option.some.injEq] at hx
      subst hx
      exact hf h hs (hok h hs).1 (hok h hs).2
  · rw [handover_mapHandover]; simp

/-! ### The carried list and the abort -/

/-- The entries of some points go (R127). -/
theorem dropCarried_quiet (d : Desk) (gone : Tag → Bool) (s : State) : s.Quiet (dropCarried d gone s) := by
  apply mapCarried_quiet
  intro h _ h1 h2
  exact ⟨(List.length_filter_le _ _).trans h1, h2.sublist (List.filter_sublist.map _)⟩

/-- An abort (R134). -/
theorem abortHandover_quiet (d : Desk) (reason : AbortReason) (s : State) : s.Quiet (abortHandover d reason s) := by
  simp only [abortHandover]
  split
  · exact (enter_quiet _ s).trans (putDeskState_quiet_out rfl)
  · exact ((setResult_quiet _ _ _ s).trans (enter_quiet _ _)).trans (putDeskState_quiet_out rfl)
  · exact State.Quiet.refl s

theorem map_tag_remark (l : List Carried) (f : Carried → Carried) (hf : ∀ e, (f e).tag = e.tag) :
    (l.map f).map (·.tag) = l.map (·.tag) := by
  rw [List.map_map]
  exact List.map_congr_left (fun e _ => hf e)

/-- An entry is re-marked, put at the end, or finds the list full (R125, R126). -/
theorem carryEntry_quiet (d : Desk) (tag : Tag) (st : Standing) (s : State) : s.Quiet (carryEntry d tag st s) := by
  simp only [carryEntry]
  split
  · apply mapCarried_quiet
    intro h _ h1 h2
    rw [List.length_map, map_tag_remark]
    · exact ⟨h1, h2⟩
    · intro e; by_cases he : e.tag = tag <;> simp [he]
  · rename_i hany
    split
    · rename_i hlen
      apply mapCarried_quiet
      intro h hs h1 h2
      have hc : s.carried d = h.carried := by simp only [State.carried, hs]
      rw [hc] at hany hlen
      simp only [Config.carriedDepth] at hlen
      refine ⟨by simp; omega, ?_⟩
      rw [List.map_append, List.nodup_append]
      refine ⟨h2, by simp, ?_⟩
      intro a ha b hb
      simp only [List.map_cons, List.map_nil, List.mem_singleton] at hb
      subst hb
      intro hab
      subst hab
      apply hany
      simp only [List.mem_map] at ha
      obtain ⟨e, he, hea⟩ := ha
      exact List.any_eq_true.mpr ⟨e, he, by simp [hea]⟩
    · exact abortHandover_quiet d _ s

/-- A desk unit is told of a change (R125, R127, R128). -/
theorem tellDesk_quiet (d : Desk) (tag : Tag) (st : Option Standing) (s : State) : s.Quiet (tellDesk d tag st s) := by
  cases st with
  | none => simp only [tellDesk]; exact dropCarried_quiet d _ s
  | some st =>
    have hmark : s.Quiet (s.mapCarried d (fun l => l.map (fun e => if e.tag = tag then { e with standing := st } else e))) := by
      apply mapCarried_quiet
      intro h _ h1 h2
      rw [List.length_map, map_tag_remark]
      · exact ⟨h1, h2⟩
      · intro e; by_cases he : e.tag = tag <;> simp [he]
    cases st with
    | unack =>
      simp only [tellDesk]
      split
      · exact carryEntry_quiet d tag .unack s
      · exact State.Quiet.refl s
    | rtnUnack => exact hmark
    | acked => exact hmark

theorem tellTarget_quiet (t : Target) (tag : Tag) (st : Option Standing) (s : State) :
    s.Quiet (tellTarget t tag st s) := by
  cases t with
  | desk d => exact tellDesk_quiet d tag st s
  | room => exact State.Quiet.refl s

/-! ### Changes of a point (R7 to R16) -/

theorem changePointAt_quiet (t : Target) (tag : Tag) (old new : Point) (s : State) :
    s.Quiet (changePointAt t tag old new s) := by
  simp only [changePointAt]
  split
  · exact ((putPoint_quiet tag _ s).trans (enter_quiet _ _)).trans (tellTarget_quiet _ _ _ _)
  · split
    · exact (putPoint_quiet tag _ s).trans (tellTarget_quiet _ _ _ _)
    · exact putPoint_quiet tag _ s

theorem changePoint_quiet (tag : Tag) (old new : Point) (s : State) : s.Quiet (changePoint tag old new s) :=
  changePointAt_quiet _ tag old new s

theorem arriveAt_quiet (t : Target) (tag : Tag) (old new : Point) (s : State) : s.Quiet (arriveAt t tag old new s) :=
  (addWeight_quiet _ _ s).trans (changePointAt_quiet t tag _ _ _)

theorem arrive_quiet (tag : Tag) (old new : Point) (s : State) : s.Quiet (arrive tag old new s) :=
  arriveAt_quiet _ tag _ _ s

theorem autoAcknowledge_quiet (tag : Tag) (old new : Point) (s : State) : s.Quiet (autoAcknowledge tag old new s) :=
  (enter_quiet _ s).trans (changePoint_quiet tag _ _ _)

theorem activeFrame_quiet (tag : Tag) (p : Point) (s : State) : s.Quiet (activeFrame tag p s) := by
  simp only [activeFrame]
  split
  · split
    · exact arrive_quiet _ _ _ s
    · exact autoAcknowledge_quiet _ _ _ s
  · split
    · exact arrive_quiet _ _ _ s
    · exact putPoint_quiet _ _ s
  all_goals exact putPoint_quiet _ _ s

theorem clearFrame_quiet (tag : Tag) (p : Point) (s : State) : s.Quiet (clearFrame tag p s) := by
  simp only [clearFrame]
  split
  · split
    · exact changePoint_quiet _ _ _ s
    · exact putPoint_quiet _ _ s
  · exact changePoint_quiet _ _ _ s
  all_goals exact putPoint_quiet _ _ s

theorem acknowledge_quiet (d : Desk) (op : OpIndex) (tag : Tag) (p : Point) (s : State) :
    s.Quiet (acknowledge d op tag p s) :=
  (enter_quiet _ s).trans (changePoint_quiet tag _ _ _)

theorem forcedRealarm_quiet (d : Desk) (tag : Tag) (s : State) : s.Quiet (forcedRealarm d tag s) := by
  simp only [forcedRealarm]
  split
  · split
    · split
      · exact arriveAt_quiet _ tag _ _ s
      · exact State.Quiet.refl s
    · exact State.Quiet.refl s
  · exact State.Quiet.refl s

theorem shelvePoint_quiet (tag : Tag) (p : Point) (expiry : Word32) (op : OpIndex) (s : State) :
    s.Quiet (shelvePoint tag p expiry op s) :=
  changePoint_quiet tag _ _ s

theorem returnFromShelf_quiet (tag : Tag) (p : Point) (s : State) : s.Quiet (returnFromShelf tag p s) := by
  simp only [returnFromShelf]
  split
  · split
    · exact arrive_quiet _ _ _ s
    · exact autoAcknowledge_quiet _ _ _ s
  · exact changePoint_quiet tag _ _ s

/-! ### Working out routing (R37) -/

theorem takeIn_quiet (d : Desk) (item : Item) (s : State) : s.Quiet (takeIn d item s) := by
  simp only [takeIn]
  split
  · split
    · exact carryEntry_quiet _ _ _ s
    · exact State.Quiet.refl s
  · exact State.Quiet.refl s

theorem takeInMoved_quiet (moved : List Item) (d : Desk) (s : State) : s.Quiet (takeInMoved moved d s) :=
  State.Quiet.foldl (fun s e => takeIn_quiet d e s) _ s

theorem reroute_quiet (before after : State) : after.Quiet (reroute before after) := by
  have h1 : after.Quiet (clearMoved before after) := mapPoints_quiet _ after
  have h2 : ∀ m s, State.Quiet s (allDesks.foldl (fun s d => dropMoved before m d s) s) := fun m s =>
    State.Quiet.foldl (fun s d => dropCarried_quiet d _ s) allDesks s
  have h3 : ∀ m s, State.Quiet s (allDesks.foldl (fun s d => takeInMoved m d s) s) := fun m s =>
    State.Quiet.foldl (fun s d => takeInMoved_quiet m d s) allDesks s
  simp only [reroute]
  exact (h1.trans (h2 _ _)).trans (h3 _ _)

/-! ### Ownership, sign-on and its ends (R38 to R41, R85 to R94, R121 to R140) -/

theorem changeOwner_quiet (a : Area) (new : Option Desk) (s : State) : s.Quiet (changeOwner a new s) :=
  (setOwner_quiet a new s).trans (enter_quiet _ _)

theorem releaseOutside_quiet (d : Desk) (kept : AreaSet) (s : State) : s.Quiet (releaseOutside d kept s) :=
  State.Quiet.foldl (fun s a => changeOwner_quiet a none s) _ s

theorem claimHome_quiet (d : Desk) (permitted : AreaSet) (s : State) : s.Quiet (claimHome d permitted s) := by
  unfold claimHome
  generalize allAreas = l
  refine State.Quiet.foldl (fun s' a => ?_) l s
  split
  · exact changeOwner_quiet a _ s'
  · exact State.Quiet.refl s'

theorem gainHolder_quiet (d : Desk) (k : SlotId) (op : OpIndex) (permitted : AreaSet) (d2 : Nat) (s : State) :
    s.Quiet (gainHolder d k op permitted d2 s) :=
  ((((setResult_quiet d k _ s).trans (putDeskState_quiet_out rfl)).trans (clearDue_quiet d _)).trans
    (enter_quiet _ _)).trans (claimHome_quiet d permitted _)

theorem signOnCompanion_quiet (d : Desk) (k : SlotId) (op : OpIndex) (nq : Bool) (s : State) :
    s.Quiet (signOnCompanion d k op nq s) :=
  (setResult_quiet d k _ s).trans (enter_quiet _ _)

@[simp] theorem putSlot_state (s : State) (d e : Desk) (k : SlotId) (v : Slot) :
    ((s.putSlot d k v).unit e).state = (s.unit e).state := by
  simp only [State.putSlot, State.unit_putUnit]
  by_cases h : e = d
  · subst h; simpa using (setSlot_fields (s.unit e) k v).2.2.2.2.1
  · simp [h]

@[simp] theorem setResult_state (s : State) (d e : Desk) (k : SlotId) (r : SignOn) :
    ((s.setResult d k r).unit e).state = (s.unit e).state := putSlot_state _ _ _ _ _

theorem acceptKey_quiet (d : Desk) (k : SlotId) (op : OpIndex) (r : OperatorRecord) (s : State) :
    s.Quiet (acceptKey d k op r s) := by
  simp only [acceptKey]
  split
  · split
    · exact gainHolder_quiet _ _ _ _ _ s
    · exact signOnCompanion_quiet _ _ _ _ s
  · rename_i hk h hst
    split
    · refine (((setResult_quiet d k _ s).trans (putDeskState_quiet ?_ ?_)).trans (enter_quiet _ _)).trans (enter_quiet _ _)
      · rw [setResult_state, hst]; exact id
      · rw [setResult_state, hst]; exact id
    · exact signOnCompanion_quiet _ _ _ _ s
  all_goals exact signOnCompanion_quiet _ _ _ _ s

theorem refuseKey_quiet (d : Desk) (k : SlotId) (op : Option OpIndex) (reason : KeyRefusal) (s : State) :
    s.Quiet (refuseKey d k op reason s) :=
  (setResult_quiet d k _ s).trans (enter_quiet _ _)

/-- The sign-on check (R88). -/
theorem signOnCheck_quiet (d : Desk) (k : SlotId) (key : KeyNumber) (issue : Byte) (s : State) :
    s.Quiet (signOnCheck d k key issue s) := by
  simp only [signOnCheck]
  split
  · exact refuseKey_quiet _ _ _ _ s
  · split_ifs
    all_goals first | exact refuseKey_quiet _ _ _ _ s | exact acceptKey_quiet _ _ _ _ s

theorem signOff_quiet (d : Desk) (k : SlotId) (op : OpIndex) (cause : LossCause) (s : State) :
    s.Quiet (signOff d k op cause s) := enter_quiet _ s

/-- A desertion (R93). -/
theorem desert_quiet (d : Desk) (k : SlotId) (op : OpIndex) (cause : LossCause) (s : State) :
    s.Quiet (desert d k op cause s) := by
  have h : ∀ w, s.Quiet (clearDue d ((releaseOutside d 0 (enter w (abortHandover d .holderLeft s))).putDeskState d
      .vacant)) := fun w =>
    ((((abortHandover_quiet d _ s).trans (enter_quiet _ _)).trans (releaseOutside_quiet d 0 _)).trans
      (putDeskState_quiet_out rfl)).trans (clearDue_quiet d _)
  simp only [desert]
  split
  · exact (h _).trans (gainHolder_quiet _ _ _ _ _ _)
  · exact h _

/-- A forced takeover (R140). -/
theorem forcedTakeover_quiet (d : Desk) (k : SlotId) (h : Handover) (inc : OpIndex) (cause : LossCause) (s : State) :
    s.Quiet (forcedTakeover d k h inc cause s) :=
  ((((setResult_quiet d _ _ s).trans (enter_quiet _ _)).trans (putDeskState_quiet_out rfl)).trans
    (clearDue_quiet d _)).trans (State.Quiet.foldl (fun s t => forcedRealarm_quiet d t s) _ _)

theorem incomingLeaves_quiet (d : Desk) (k : SlotId) (cause : Nat) (s : State) :
    s.Quiet (incomingLeaves d k cause s) := by
  simp only [incomingLeaves]
  split
  · rename_i hk h inc hst
    refine (putDeskState_quiet ?_ ?_).trans (enter_quiet _ _)
    · rw [hst]
      intro hok x hx
      cases hx
      have := hok h rfl
      simpa [List.map_map, Function.comp_def] using this
    · rw [hst]; simp [DeskState.handover?]
  · exact State.Quiet.refl s

/-- A signed-on key is drawn or revoked (R75, R85). -/
theorem loseKey_quiet (d : Desk) (k : SlotId) (result : SignOn) (cause : LossCause) (s : State) :
    s.Quiet (loseKey d k result cause s) := by
  cases result with
  | refused r =>
    have h : loseKey d k (.refused r) cause s = s := by unfold loseKey; rfl
    rw [h]
    exact State.Quiet.refl s
  | companion op nq => exact signOff_quiet d k op cause s
  | incoming op => exact incomingLeaves_quiet d k _ s
  | holder op =>
    unfold loseKey
    generalize (s.unit d).state = st
    cases st with
    | handoverReview hk h inc => exact forcedTakeover_quiet d k h inc cause s
    | _ => exact desert_quiet d k op cause s

theorem revoke_quiet (d : Desk) (k : SlotId) (reason : KeyRefusal) (s : State) : s.Quiet (revoke d k reason s) := by
  simp only [revoke]
  split
  · exact (setResult_quiet _ _ _ s).trans (loseKey_quiet _ _ _ _ _)
  · exact State.Quiet.refl s

theorem refuseAck_quiet (d : Desk) (tag : Option Tag) (reason : Reason) (how : Nat) (s : State) :
    s.Quiet (refuseAck d tag reason how s) := enter_quiet _ s

/-- A SILENCE at a desk (R105 to R107). -/
theorem silenceDesk_quiet (d : Desk) (op : OpIndex) (s : State) : s.Quiet (silenceDesk d op s) := by
  have h1 : ∀ t s, State.Quiet s (silenceList t s) := fun t s => mapPoints_quiet _ s
  have h2 : s.Quiet (if (s.roomSilenceCount d).isSome then silenceList .room (silenceList (.desk d) s)
      else silenceList (.desk d) s) := by
    split
    · exact (h1 _ s).trans (h1 _ _)
    · exact h1 _ s
  simp only [silenceDesk]
  split
  · exact (h2.trans (enter_quiet _ _)).trans (setPending_quiet _ _)
  · exact h2.trans (enter_quiet _ _)

/-- A commit (R132). -/
theorem commitHandover_quiet (d : Desk) (k : SlotId) (h : Handover) (inc : OpIndex) (s : State) :
    s.Quiet (commitHandover d k h inc s) :=
  ((((setResult_quiet d _ _ s).trans (setResult_quiet d _ _ _)).trans (clearDue_quiet d _)).trans
    (enter_quiet _ _)).trans (putDeskState_quiet_out rfl)

/-- A briefing (R130). -/
theorem briefEntry_quiet (d : Desk) (inc : OpIndex) (tag : Tag) (how : Nat) (s : State) :
    s.Quiet (briefEntry d inc tag how s) := by
  simp only [briefEntry]
  refine State.Quiet.trans (mapCarried_quiet ?_) (enter_quiet _ _)
  intro h _ h1 h2
  simp only [markBriefed]
  rw [List.length_map, map_tag_remark]
  · exact ⟨h1, h2⟩
  · intro e; by_cases he : e.tag = tag <;> simp [he]

theorem mapSlots_quiet (d : Desk) (f : SlotState → SlotState) (s : State) : s.Quiet (mapSlots d f s) :=
  (putSlot_quiet _ _ _ s).trans (putSlot_quiet _ _ _ _)

theorem signOffSlot_quiet (d : Desk) (k : SlotId) (s : State) : s.Quiet (signOffSlot d k s) := by
  simp only [signOffSlot]
  split
  · exact signOff_quiet _ _ _ _ s
  · exact State.Quiet.refl s

/-- A desk goes out of service (R94). -/
theorem takeOutOfService_quiet (d : Desk) (s : State) : s.Quiet (takeOutOfService d s) :=
  ((((((abortHandover_quiet d _ s).trans (signOffSlot_quiet d _ _)).trans (signOffSlot_quiet d _ _)).trans
    (releaseOutside_quiet d 0 _)).trans (putDeskState_quiet_out rfl)).trans (clearDue_quiet d _)).trans
    (mapSlots_quiet d _ _)

theorem returnToService_quiet (d : Desk) (s : State) : s.Quiet (returnToService d s) :=
  (putDeskState_quiet_out rfl).trans (mapSlots_quiet d _ _)

end Sys2Proof.Machine
end

