-- ==== Sys2Proof/Tests/Slice0.lean ====
section
/-! SUPPORT. Tests: the well-formedness checks, numbers the spec works out, and for every statement with hypotheses a
small state and operands that meet them, clause by clause. -/

open Sys2Proof Sys2Proof.Machine

namespace Sys2Proof.Tests

/-! ### Small states -/

/-- An operator record with a key number, a role and a permitted set. -/
def operatorRecord (key : KeyNumber) (role : Role) (areas : AreaSet) : OperatorRecord :=
  { key := key, issue := 1, role := role, areas := areas, validFrom := none, validUntil := none, locked := false
    displayTag := none }

/-- Four operators, one of each role, all permitted areas 0 to 2. -/
def crew : Table 64 OperatorRecord :=
  [(0, operatorRecord 100 .operator 7), (1, operatorRecord 200 .senior 7), (2, operatorRecord 300 .observer 7),
   (3, operatorRecord 400 .supervisor 7)]

/-- A slot with a seated key in a state. -/
def seated (st : SlotState) : Slot :=
  { pins := ⟨true, true⟩, contacts := ⟨true, true⟩, state := st }

/-- A slot with a read key signed on with a result. -/
def signed (r : SignOn) : Slot := seated (.present .good 100 1 r)

/-- A desk unit whose home areas are 0 and 1. -/
def deskWith (st : DeskState) (a b : Slot) : DeskUnit :=
  { DeskUnit.atReset 0 with state := st, slotA := a, slotB := b, home := 3 }

/-- A running part at run second 600 with the command link S0, desk D0 as given and owning area 1. -/
def part (u : DeskUnit) (points : Table 1024 Point) : State :=
  { State.reset with
    phase := .running, runSeconds := 600, command := .latched .s0 700, operators := crew, owners := [(1, .d0)]
    desks := { State.reset.desks with d0 := u }, points := points }

/-- A point of area 1 and base priority 2. -/
def pointIn (st : PointState) (active : Bool) : Point :=
  { origin := .configured, area := 1, base := 2, step := 10, shelvable := true, state := st, active := active
    effective := 2, silenced := false, repeats := 0, lastAck := none }

/-- A record-only point. -/
def recordOnly (st : PointState) (active : Bool) : Point :=
  { pointIn st active with base := 4, effective := 4 }

/-- D0 attended by the SENIOR operator in slot A. -/
def attended : DeskUnit := deskWith (.attended .a) (signed (.holder 1)) Slot.atReset

/-- D0 vacant with a key being read in slot A. -/
def readingDesk : DeskUnit := deskWith .vacant (seated (.reading .good 1 none)) Slot.atReset

/-- A handover of D0 that carries points 5 and 6. -/
def shift : Handover :=
  { outgoing := 1, openedAt := 540, limitExpiry := 1140, carried := [⟨5, .unack, true⟩, ⟨6, .acked, false⟩] }

/-- D0 in HANDOVER_OPEN. -/
def opened : DeskUnit := deskWith (.handoverOpen .a shift) (signed (.holder 1)) Slot.atReset

/-- D0 in HANDOVER_REVIEW, the OPERATOR in slot B incoming. -/
def reviewing : DeskUnit := deskWith (.handoverReview .a shift 0) (signed (.holder 1)) (signed (.incoming 0))

/-- A running part with D0 attended and one point in each state: tags 5 to 9. -/
def busy : State :=
  part attended [(5, pointIn (.unack 540) true), (6, { pointIn (.acked 480) true with effective := 1 }),
    (7, pointIn (.rtnUnack 500) false), (8, pointIn (.shelved 900 1) true), (9, pointIn .normal false)]

/-- A running part with every desk vacant and no area owned. -/
def quiet : State := { part (deskWith .vacant Slot.atReset Slot.atReset) [] with owners := [] }

theorem commands_of {s : State} {l : Link} {e : Word32} (h1 : s.phase = .running) (h2 : (s.link l).taken < 4)
    (h3 : s.command = .latched l e) : s.commands l :=
  ⟨⟨h1, h2⟩, e, h3⟩

theorem answers_of {s : State} {l m : Link} {e : Word32} (h1 : s.phase = .running) (h2 : (s.link l).taken < 4)
    (h3 : s.command = .latched m e) : s.answers l :=
  ⟨⟨h1, h2⟩, fun x h => by simp [h3] at h⟩

theorem busy_commands : busy.commands .s0 := commands_of rfl (by decide) rfl

theorem quiet_commands : quiet.commands .s0 := commands_of rfl (by decide) rfl

theorem busy_answers : busy.answers .s1 := answers_of rfl (by decide) rfl

/-- The state an outcome gives. -/
def stateOf : Host.Outcome State Fault Refusal → State
  | .next t => t
  | .fault _ => State.reset
  | .refused _ => State.reset

/-! ### Well-formedness: each check refuses an ill-formed command -/

theorem test_body_of_121_bytes_refused : (Instr.status .s0 1 (List.replicate 121 0)).wellFormed = false := by
  simp [Instr.wellFormed, bodyFits, Config.maxBody]

theorem test_body_of_120_bytes_accepted : (Instr.status .s0 1 (List.replicate 120 0)).wellFormed = true := by
  simp [Instr.wellFormed, bodyFits, Config.maxBody]

theorem test_unaccepted_body_refused :
    (Instr.unacceptedTypeFrame .s0 24 1 (List.replicate 121 0)).wellFormed = false := by
  simp [Instr.wellFormed, bodyFits, Config.maxBody]

theorem test_unaccepted_type_that_is_accepted_refused :
    (Instr.unacceptedTypeFrame .s0 23 1 []).wellFormed = false := by decide

theorem test_table_gives_no_words : decodeTableWord 8 20 = none := by decide

/-! ### Witnesses: the machine and the laws -/

/-- The front of the queue is a command; the queue of `busy` is empty. -/
theorem wit_StepRunsFront : busy.pending = [] := by decide

/-- A lawful working state with a command waiting. -/
def waiting : State := { quiet with pending := [.flashTick] }

theorem waiting_steps : step waiting = .next { quiet with position := 1 } := rfl

theorem quiet_state (d : Desk) : (waiting.unit d).state = .vacant := by cases d <;> rfl

theorem quiet_slot (d : Desk) (k : SlotId) : waiting.slot d k = Slot.atReset := by cases d <;> cases k <;> rfl

theorem wit_StepKeepsStorage :
    (waiting.TablesLawful ∧ waiting.JournalLawful ∧ waiting.LoadLawful ∧ waiting.IntakeLawful ∧ waiting.CarriedLawful) ∧
      step waiting = .next { quiet with position := 1 } := by
  refine ⟨⟨⟨by decide, by decide, by decide, ?_⟩, ⟨by decide, by decide⟩, ?_, ?_, ?_⟩, waiting_steps⟩
  · intro i hi; simp [State.images, waiting, quiet, part, State.reset] at hi
  · intro t; cases t with
    | desk d => cases d <;> decide
    | room => decide
  · intro l; cases l <;> decide
  · intro d; cases d <;> decide

theorem wit_StepKeepsSettings :
    (waiting.FlashLawful ∧ waiting.SettingsLawful ∧ waiting.HornLawful) ∧
      step waiting = .next { quiet with position := 1 } := by
  refine ⟨⟨⟨by unfold Flash.Lawful; decide, ?_, ?_, by decide⟩, ⟨by unfold Limits.Lawful; decide, ?_, by decide, ?_, ?_⟩,
    ⟨by decide, by simp [waiting, quiet, part, State.reset]⟩⟩, waiting_steps⟩
  · intro f hf; simp [waiting, quiet, part, State.reset] at hf
  · intro i hi; simp [State.images, waiting, quiet, part, State.reset] at hi
  · intro f hf; simp [waiting, quiet, part, State.reset] at hf
  · intro d; cases d <;> decide
  · intro i hi; simp [State.images, waiting, quiet, part, State.reset] at hi

theorem wit_StepKeepsFloodOutOfHandover : waiting.FloodLawful ∧ step waiting = .next { quiet with position := 1 } := by
  refine ⟨fun d h => ?_, waiting_steps⟩
  simp [State.inHandover, quiet_state, DeskState.handover?] at h

theorem wit_StepKeepsLinks : waiting.LinksLawful ∧ step waiting = .next { quiet with position := 1 } :=
  ⟨fun l => by cases l <;> decide, waiting_steps⟩

/-- The supply comes up while the reset input is asserted. -/
theorem wit_StepKeepsLinks_reset :
    let s : State := { waiting with phase := .inReset .supplyLow, resetInput := true, pending := [.powerOn] }
    s.ResetLawful ∧ s.resetInput = true ∧ ∃ t, step s = .next t ∧ t.phase = .inReset .powerOn ∧ t.resetInput = true :=
  ⟨fun _ => ⟨_, rfl⟩, rfl, _, rfl, rfl, rfl⟩

/-- A point of D0's area waiting to be acknowledged by a press. -/
def pressing : State := { busy with pending := [.ackPress .d0] }

theorem pressing_steps : ∃ t, step pressing = .next t := ⟨_, rfl⟩

theorem busy_points_lawful : ∀ t p, (t, p) ∈ busy.points → p.Lawful := by
  intro t p h
  simp only [busy, part, List.mem_cons, Prod.mk.injEq, List.not_mem_nil, or_false] at h
  rcases h with ⟨-, rfl⟩ | ⟨-, rfl⟩ | ⟨-, rfl⟩ | ⟨-, rfl⟩ | ⟨-, rfl⟩ <;>
    simp [Point.Lawful, pointIn, Point.standing, Point.unacknowledged]

theorem wit_StepKeepsPoints :
    tableWf pressing.points = true ∧ pressing.PointsLawful ∧ ∃ t, step pressing = .next t :=
  ⟨by decide, ⟨busy_points_lawful, fun i hi => by simp [State.images, pressing, busy, part, State.reset] at hi⟩,
    pressing_steps⟩

theorem wit_StepKeepsOwnership :
    (∀ i ∈ waiting.images, tableWf i.operators = true) ∧ waiting.DesksLawful ∧
      step waiting = .next { quiet with position := 1 } := by
  refine ⟨fun i hi => by simp [State.images, waiting, quiet, part, State.reset] at hi,
    ⟨by decide, by decide, ⟨?_, ?_, ?_, ?_, ?_, ?_, ?_⟩, ?_⟩, waiting_steps⟩
  · intro d k op h; simp [State.signedOn, quiet_slot, Slot.atReset, SlotState.result?] at h
  · intro d k d' k' op h; simp [State.signedOn, quiet_slot, Slot.atReset, SlotState.result?] at h
  · intro d k; simp [State.resultAt, quiet_slot, quiet_state, Slot.atReset, SlotState.result?, DeskState.holderSlot?]
  · intro d k op; simp [State.resultAt, quiet_slot, quiet_state, Slot.atReset, SlotState.result?]
  · intro d h hh; simp [quiet_state, DeskState.handover?] at hh
  · intro d hk h inc r hh; simp [quiet_state] at hh
  · intro d k hh; simp [quiet_state] at hh
  · intro a d h; simp [State.owner, waiting, quiet, tableGet] at h

/-! ### Witnesses: points and intake -/

theorem wit_SetPointCreates : quiet.commands .s0 ∧ 1 ≤ 4 ∧ 4 ≤ 4 ∧ 255 ≤ 255 ∧ quiet.point 1023 = none :=
  ⟨quiet_commands, by decide⟩

theorem busy_5 : busy.point 5 = some (pointIn (.unack 540) true) := by decide
theorem busy_6 : busy.point 6 = some { pointIn (.acked 480) true with effective := 1 } := by decide
theorem busy_7 : busy.point 7 = some (pointIn (.rtnUnack 500) false) := by decide
theorem busy_8 : busy.point 8 = some (pointIn (.shelved 900 1) true) := by decide
theorem busy_9 : busy.point 9 = some (pointIn .normal false) := by decide

theorem busy_lawful {t : Tag} {p : Point} (h : busy.point t = some p) : p.Lawful :=
  busy_points_lawful t p (tableGet_mem h)

/-- One point in each of the states the statement distinguishes, base priority changed from 2 to 1 or 3; the steps sent
0, 120, and 121 and 255, which are taken as 120. -/
theorem wit_SetPointReprioritises :
    busy.commands .s0 ∧ (∀ t : Tag, 5 ≤ t.val → t.val ≤ 9 → ∃ p, busy.point t = some p ∧ p.Lawful ∧ p.base = 2 ∧
      (1 ≠ p.base ∨ 0 ≠ p.step) ∧ (3 ≠ p.base ∨ 120 ≠ p.step) ∧ (2 ≠ p.base ∨ min 120 121 ≠ p.step) ∧
      (2 ≠ p.base ∨ min 120 255 ≠ p.step)) := by
  refine ⟨busy_commands, fun t h1 h2 => ?_⟩
  obtain ⟨n, hn⟩ := t
  have : n = 5 ∨ n = 6 ∨ n = 7 ∨ n = 8 ∨ n = 9 := by simp only at h1 h2; omega
  rcases this with rfl | rfl | rfl | rfl | rfl
  · exact ⟨_, busy_5, busy_lawful busy_5, by decide⟩
  · exact ⟨_, busy_6, busy_lawful busy_6, by decide⟩
  · exact ⟨_, busy_7, busy_lawful busy_7, by decide⟩
  · exact ⟨_, busy_8, busy_lawful busy_8, by decide⟩
  · exact ⟨_, busy_9, busy_lawful busy_9, by decide⟩

/-- A part with record-only points. -/
def recording : State :=
  part attended [(5, recordOnly (.acked 540) true), (9, recordOnly .normal false)]

theorem recordOnly_lawful : (recordOnly (.acked 540) true).Lawful := by
  simp [Point.Lawful, recordOnly, pointIn, Point.standing, Point.unacknowledged]

theorem recordOnly_normal_lawful : (recordOnly .normal false).Lawful := by
  simp [Point.Lawful, recordOnly, pointIn, Point.standing, Point.unacknowledged]

/-- From base priority 4 and to it: the states of `busy` are those of `wit_SetPointReprioritises`. -/
theorem wit_SetPointChanges_priority :
    recording.commands .s0 ∧ recording.point 5 = some (recordOnly (.acked 540) true) ∧
      (recordOnly (.acked 540) true).Lawful ∧ (recordOnly (.acked 540) true).base = 4 ∧
      busy.point 7 = some (pointIn (.rtnUnack 500) false) ∧ (pointIn (.rtnUnack 500) false).base ≤ 3 :=
  ⟨commands_of rfl (by decide) rfl, by decide, recordOnly_lawful, by decide, busy_7, by decide⟩

/-- Moved from D0's area 1 to the unowned area 63, and kept in area 1; a step of 120 kept by each of 120, 121 and 255. -/
theorem wit_SetPointChanges_area :
    (pointIn (.unack 540) true).standing.isSome = true ∧
      busy.target (pointIn (.unack 540) true).area ≠ busy.target 63 ∧ busy.target 1 = busy.target 1 ∧
      min 120 10 = (pointIn (.unack 540) true).step ∧
      (∀ sent ∈ [120, 121, 255], min 120 sent = ({ pointIn (.unack 540) true with step := 120 } : Point).step) := by
  decide

/-- From base priority 4 to 1 with a step in ACKED, moved to the unowned area 63; and from 2 to 4 in each state. -/
theorem wit_SetPointChanges_both :
    recording.commands .s0 ∧ recording.point 5 = some (recordOnly (.acked 540) true) ∧
      (recordOnly (.acked 540) true).Lawful ∧ 1 ≠ (recordOnly (.acked 540) true).base ∧ 120 ≤ 120 ∧
      ({ recordOnly (.acked 540) true with base := 1 } : Point).standing.isSome = true ∧
      recording.target 1 ≠ recording.target 63 ∧
      (∀ t : Tag, 5 ≤ t.val → t.val ≤ 9 → ∃ p, busy.point t = some p ∧ p.Lawful ∧ 4 ≠ p.base ∧ p.base ≤ 3) := by
  refine ⟨commands_of rfl (by decide) rfl, by decide, recordOnly_lawful, by decide, by decide, by decide, by decide,
    fun t h1 h2 => ?_⟩
  obtain ⟨_, h⟩ := wit_SetPointReprioritises
  obtain ⟨p, hp, hl, hb, -⟩ := h t h1 h2
  exact ⟨p, hp, hl, by omega, by omega⟩

theorem wit_ClearPointRemoves :
    busy.commands .s0 ∧ busy.point 9 = some (pointIn .normal false) ∧
      busy.point 5 = some (pointIn (.unack 540) true) ∧ (pointIn (.unack 540) true).state ≠ .normal ∧
      busy.point 1023 = none :=
  ⟨busy_commands, busy_9, busy_5, by decide, by decide⟩

/-- An intake frame whose bytes add up to a multiple of 256 (R29). -/
def frame (area hi lo kind seq : Byte) : SixBytes :=
  { b0 := area, b1 := hi, b2 := lo, b3 := kind, b4 := seq, b5 := 0 - (area + hi + lo + kind + seq) }

/-- A state with frames queued on E0, sequence number 7 being expected next. -/
def queued (s : State) (frames : List SixBytes) : State :=
  { s with intake := { s.intake with e0 := { queue := frames, holdLine := decide (8 ≤ frames.length), expected := some 7 } } }

/-- Queues of 8, of fewer than 7 and of 7 frames; frames of five bytes and of six. -/
theorem wit_IntakeFrames_arrival :
    let f := frame 1 0 5 1 7
    busy.works = true ∧ [f.b0, f.b1, f.b2, f.b3, f.b4].length ≠ 6 ∧
      8 ≤ ((queued busy (List.replicate 8 f)).eventLink .e0).queue.length ∧
      ((queued busy (List.replicate 6 f)).eventLink .e0).queue.length < 7 ∧
      ((queued busy (List.replicate 7 f)).eventLink .e0).queue.length = 7 := by decide

/-- Each clause of the discard of a taken frame: check, tag 1024, kinds 0 and 3, area 64 for an unknown tag. -/
theorem wit_IntakeFrames_take :
    busy.works = true ∧
      ((queued busy [{ frame 1 0 5 1 7 with b5 := 0 }]).eventLink .e0).queue = [{ frame 1 0 5 1 7 with b5 := 0 }] ∧
      sumsToZero { frame 1 0 5 1 7 with b5 := 0 } = false ∧
      sumsToZero (frame 1 4 0 1 7) = true ∧ 1023 < 256 * (frame 1 4 0 1 7).b1.toNat + (frame 1 4 0 1 7).b2.toNat ∧
      sumsToZero (frame 1 0 5 3 7) = true ∧ (frame 1 0 5 3 7).b3 ≠ 1 ∧ (frame 1 0 5 3 7).b3 ≠ 2 ∧
      sumsToZero (frame 1 0 5 0 7) = true ∧ (frame 1 0 5 0 7).b3 ≠ 1 ∧ (frame 1 0 5 0 7).b3 ≠ 2 ∧
      sumsToZero (frame 64 3 255 2 7) = true ∧ (frame 64 3 255 2 7).b3 = 2 ∧
      256 * (frame 64 3 255 2 7).b1.toNat + (frame 64 3 255 2 7).b2.toNat = 1023 ∧
      (queued busy [frame 64 3 255 2 7]).point 1023 = none ∧ 63 < (frame 64 3 255 2 7).b0.toNat := by decide

/-- A frame whose tag and kind are both out of range. -/
theorem wit_IntakeFrames_twice :
    sumsToZero (frame 1 4 0 3 7) = true ∧ 1023 < 256 * (frame 1 4 0 3 7).b1.toNat + (frame 1 4 0 3 7).b2.toNat ∧
      (frame 1 4 0 3 7).b3 = 3 := by decide

/-- Frames in order for the points 5 to 9 of `busy`, ACTIVE and CLEAR. -/
theorem wit_IntakeApplied :
    ∀ t : Fin 5, ∀ kind : Fin 2,
      let f := frame 1 0 (5 + BitVec.ofNat 8 t.val) (1 + BitVec.ofNat 8 kind.val) 7
      let s := queued busy [f]
      s.works = true ∧ (s.eventLink .e0).queue = [f] ∧ sumsToZero f = true ∧ (s.eventLink .e0).expected = some f.b4 ∧
        256 * f.b1.toNat + f.b2.toNat = 5 + t.val ∧ f.b3.toNat = 1 + kind.val ∧
        (s.point (Fin.ofNat 1024 (5 + t.val))).map (·.area.val) = some f.b0.toNat := by decide

/-- And for record-only points. -/
theorem wit_IntakeApplied_recordOnly :
    let f := frame 1 0 9 1 7
    let s := queued recording [f]
    s.works = true ∧ (s.eventLink .e0).queue = [f] ∧ sumsToZero f = true ∧ (s.eventLink .e0).expected = some f.b4 ∧
      s.point 9 = some (recordOnly .normal false) ∧ (recordOnly .normal false).Lawful ∧ f.b0.toNat = 1 :=
  ⟨rfl, rfl, by decide, by decide, by decide, recordOnly_normal_lawful, by decide⟩

/-- Headers 0 and 255 for a CONFIGURED point of area 1, and the same for a PROVISIONAL one. -/
theorem wit_IntakeApplied_header :
    ∀ header : Fin 2,
      let f := frame (0 - BitVec.ofNat 8 header.val) 0 5 1 7
      let q : Point := { pointIn (.unack 540) true with origin := .provisional }
      let s := queued busy [f]
      s.works = true ∧ (s.eventLink .e0).queue = [f] ∧ sumsToZero f = true ∧ (s.eventLink .e0).expected = some f.b4 ∧
        256 * f.b1.toNat + f.b2.toNat = 5 ∧ f.b3 = 1 ∧ (pointIn (.unack 540) true).origin = .configured ∧
        f.b0.toNat ≠ (pointIn (.unack 540) true).area.val ∧ s.point 5 = some (pointIn (.unack 540) true) ∧
        (s.putPoint 5 q).point 5 = some q ∧ q.origin ≠ .configured := by decide

/-- A link with a frame queued on E0 whose expected number is as given. -/
def expecting (e : Option Byte) (f : SixBytes) : State :=
  { busy with intake := { busy.intake with e0 := { queue := [f], holdLine := false, expected := e } } }

/-- Frames on an UNSYNCHRONISED link, and after gaps on both sides of the received number, for a point of the table and
for an unknown tag. -/
theorem wit_IntakeApplied_sequence :
    ∀ e : Fin 3, ∀ kind : Fin 2,
      let x : Option Byte := [none, some 255, some 8].getD e.val none
      let f := frame 1 0 5 (1 + BitVec.ofNat 8 kind.val) 7
      let g := frame 63 3 255 (1 + BitVec.ofNat 8 kind.val) 7
      ((expecting x f).eventLink .e0).queue = [f] ∧ ((expecting x f).eventLink .e0).expected ≠ some f.b4 ∧
        (expecting x f).point 5 = some (pointIn (.unack 540) true) ∧
        ((expecting x g).eventLink .e0).queue = [g] ∧ ((expecting x g).eventLink .e0).expected ≠ some g.b4 ∧
        (expecting x g).point 1023 = none ∧ sumsToZero f = true ∧ sumsToZero g = true := by decide

/-- An ACTIVE and a CLEAR frame of the last area for the last tag. -/
theorem wit_UnknownTagArrives :
    ∀ kind : Fin 2,
      let f := frame 63 3 255 (1 + BitVec.ofNat 8 kind.val) 7
      let s := queued busy [f]
      s.works = true ∧ (s.eventLink .e0).queue = [f] ∧ sumsToZero f = true ∧ (s.eventLink .e0).expected = some f.b4 ∧
        256 * f.b1.toNat + f.b2.toNat = 1023 ∧ f.b3.toNat = 1 + kind.val ∧ s.point 1023 = none ∧
        f.b0.toNat = (63 : Area).val := by decide

/-! ### Witnesses: routing, lists and load -/

/-- Every clause: an owner; a supervisor desk with a holder; LOCAL with a holder at D0; not LOCAL; no holder. -/
theorem wit_RoutingTarget :
    busy.owner 1 = some .d0 ∧ busy.owner 63 = none ∧
      ({ busy with supervisor := some .d0 } : State).hasHolder .d0 = true ∧
      (∀ d, busy.supervisor = some d → busy.hasHolder d = false) ∧
      ({ busy with command := .unlatched } : State).isLocal = true ∧ busy.hasHolder .d0 = true ∧
      (∀ e : Desk, e.code < Desk.d0.code → busy.hasHolder e = false) ∧ busy.isLocal = false ∧
      (∀ d, quiet.hasHolder d = false) :=
  ⟨by decide, by decide, by decide, fun d h => by simp [busy, part, State.reset] at h, by decide, by decide,
    fun e h => by cases e <;> simp [Desk.code] at h, by decide, fun d => by cases d <;> decide⟩

/-- D0 in HANDOVER_OPEN with the points of `busy`. -/
def opening : State := { busy with desks := { busy.desks with d0 := opened } }

/-- D0 in HANDOVER_REVIEW with the points of `busy`. -/
def review : State := { busy with desks := { busy.desks with d0 := reviewing } }

/-- D0 in HANDOVER_OPEN owning no area. -/
def unowned : State := { opening with owners := [] }

/-- Point 5 leaves D0 as area 1 is released, and comes to it as it is assigned. -/
theorem wit_RoutingWorkedOut :
    tableWf unowned.points = true ∧ unowned.inHandover .d1 = false ∧
      unowned.point 5 = some (pointIn (.unack 540) true) ∧ (pointIn (.unack 540) true).standing = some .unack ∧
      opening.target 1 = .desk .d0 ∧ unowned.target 1 ≠ .desk .d0 ∧
      (reroute unowned opening).inHandover .d0 = true ∧ (∀ a, busy.target a = opening.target a) :=
  by decide

/-- D0 in HANDOVER_OPEN with `n` entries for absent points and three points in UNACK in its area. -/
def gaining (n : Nat) : State := part
  (deskWith (.handoverOpen .a { shift with carried := (List.range n).map (fun k => ⟨Fin.ofNat 1024 k, .unack, true⟩) })
    (signed (.holder 1)) Slot.atReset)
  ((List.range 3).map (fun k => (Fin.ofNat 1024 (100 + k), pointIn (.unack 540) true)))

/-- Three points move into D0 beside 29 entries, and beside 30, where the last is a 33rd. -/
theorem wit_RoutingWorkedOut_taken_in :
    tableWf (gaining 29).points = true ∧ ((gaining 29).unit .d0).state.handover?.isSome = true ∧
      ({ gaining 29 with owners := [] } : State).target 1 ≠ .desk .d0 ∧ (gaining 29).target 1 = .desk .d0 ∧
      ((gaining 29).carried .d0).length + ((gaining 29).attentionList (.desk .d0)).length = 32 ∧
      ((gaining 30).unit .d0).state.handover?.isSome = true ∧
      ({ gaining 30 with owners := [] } : State).target 1 ≠ .desk .d0 ∧ (gaining 30).target 1 = .desk .d0 ∧
      32 < ((gaining 30).carried .d0).length + ((gaining 30).attentionList (.desk .d0)).length := by decide

/-- Every clause, in order. -/
theorem wit_AssignArea :
    opening.commands .s0 ∧ opening.owner 1 = some .d0 ∧ opening.inHandover .d0 = true ∧
      (∀ e, busy.owner 1 = some e → busy.inHandover e = false) ∧ busy.owner 63 = none ∧ busy.owner 1 = some .d0 ∧
      busy.inHandover .d1 = false ∧ busy.holderRecord .d1 = none ∧
      busy.holderRecord .d0 = some (1, operatorRecord 200 .senior 7) ∧ inSet 7 63 = false ∧ inSet 7 1 = true ∧
      inSet 7 2 = true ∧ busy.owner 2 ≠ some .d0 :=
  ⟨commands_of rfl (by decide) rfl, by decide, by decide, fun e h => by cases e <;> rfl, by decide⟩

theorem wit_EscalationTick :
    busy.works = true ∧ ({ busy with tick := ⟨true, true, true⟩ } : State).tick.escalation = true ∧
      busy.tick.escalation = false := by decide

/-- A load state of D0. -/
def loaded (w l : Nat) (flood : Bool) : State := busy.putLoad (.desk .d0) ⟨w, l, flood⟩

/-- Figures of 159 and 160 against flood-on 160, and of 97 and 96 against flood-off 96. -/
theorem wit_LoadTick :
    ({ busy with tick := ⟨true, true, true⟩ } : State).works = true ∧ busy.limits.flood = ⟨160, 96⟩ ∧
      min 4095 (158 - 158 / 8 + 2 * 10) = 158 - 19 + 20 ∧ 158 - 19 + 20 < busy.limits.flood.onAt ∧
      (loaded 10 159 false).loadOf (.desk .d0) = ⟨10, 159, false⟩ ∧ min 4095 (159 - 159 / 8 + 2 * 10) = 160 ∧
      min 4095 (97 - 97 / 8 + 2 * 6) = 97 ∧ busy.limits.flood.offAt < 97 ∧
      min 4095 (96 - 96 / 8 + 2 * 6) = 96 ∧ 96 ≤ busy.limits.flood.offAt := by decide

/-- A tick that sets D0's flag while D0 is in HANDOVER_OPEN, and one that clears it. -/
theorem wit_LoadTick_flags :
    let s : State := { opening with load := (loaded 10 159 false).load, tick := ⟨true, true, true⟩ }
    let u : State := { loaded 6 96 true with tick := ⟨true, true, true⟩ }
    (s.works = true ∧ s.tick.load = true ∧ (s.unit .d0).state.handover? = some shift ∧
      (s.loadOf (.desk .d0)).flood = false ∧
      ∃ t, exec .loadUpdate s = .next t ∧ (t.loadOf (.desk .d0)).flood = true) ∧
    (u.works = true ∧ u.tick.load = true ∧ (u.loadOf (.desk .d0)).flood = true ∧
      ∃ t, exec .loadUpdate u = .next t ∧ (t.loadOf (.desk .d0)).flood = false) :=
  ⟨⟨by decide, by decide, by decide, by decide, ⟨_, rfl, by decide⟩⟩, by decide, by decide, by decide, ⟨_, rfl, by decide⟩⟩

/-! ### Witnesses: key slots and sign-on -/

/-- D0 with slots in two states. -/
def slots (st : DeskState) (a b : Slot) : State := part (deskWith st a b) []

/-- One contact closed. -/
def halfSeated : Slot := { pins := ⟨true, false⟩, contacts := ⟨true, false⟩, state := .oneContact }

/-- Contacts closing at an EMPTY slot, at a PARTIAL one in service and out of service, and in a part held in reset. -/
theorem wit_ContactsMove_close :
    let s := slots .vacant Slot.atReset halfSeated
    s.works = true ∧ (s.slot .d0 .a).contacts.get .c1 = false ∧ (s.slot .d0 .b).contacts.get .c2 = false ∧
      ((slots .outOfService Slot.atReset halfSeated).unit .d0).state = .outOfService ∧
      (s.slot .d0 .b).contacts.get .c1 = true ∧ State.reset.works = false := by decide

/-- A pin opening at a contact that is sensed open, and in a part held in reset. -/
theorem wit_ContactsMove_pin :
    let s := slots .vacant Slot.atReset halfSeated
    s.works = true ∧ (s.slot .d0 .b).contacts.get .c2 = false ∧ State.reset.works = false := by decide

/-- A contact opening at a companion's slot and at one being read. -/
theorem wit_ContactsMove_open :
    let s := slots (.attended .a) (signed (.holder 1)) (signed (.companion 0 false))
    let u := slots .vacant (seated (.reading .good 1 none)) (seated (.faultRead .check))
    s.works = true ∧ (s.slot .d0 .b).contacts.get .c2 = true ∧ (∀ op, s.resultAt .d0 .b ≠ some (.holder op)) ∧
      (∀ op, s.resultAt .d0 .b ≠ some (.incoming op)) ∧ (u.slot .d0 .a).contacts.get .c1 = true ∧
      u.resultAt .d0 .a = none ∧ u.resultAt .d0 .b = none := by decide

/-- The holder's key drawn with an observer, and with an operator, in the other slot; and the outgoing key in
HANDOVER_OPEN, alone and beside a companion who is not qualified. The companion promoted claims the unowned home area 0
and area 1, just released. -/
theorem wit_DesertionByRemoval :
    let s := slots (.attended .a) (signed (.holder 1)) (signed (.companion 2 false))
    let u := slots (.handoverOpen .a shift) (signed (.holder 1)) (signed (.companion 0 true))
    s.works = true ∧ (s.slot .d0 .a).contacts.get .c1 = true ∧ s.resultAt .d0 .a = some (.holder 1) ∧
      (s.unit .d0).state = .attended .a ∧ tableWf s.owners = true ∧
      s.resultAt .d0 .b = some (.companion 2 false) ∧ s.operator 2 = some (operatorRecord 300 .observer 7) ∧
      Role.observer.atLeast .operator = false ∧
      u.works = true ∧ (u.slot .d0 .a).contacts.get .c2 = true ∧ u.resultAt .d0 .a = some (.holder 1) ∧
      (u.unit .d0).state = .handoverOpen .a shift ∧ (u.unit .d0).state.handover? = some shift ∧
      u.resultAt .d0 .b = some (.companion 0 true) ∧ u.operator 0 = some (operatorRecord 100 .operator 7) ∧
      Role.operator.atLeast .operator = true ∧ opening.resultAt .d0 .b = none ∧ s.owner 1 = some .d0 ∧
      u.owner 1 = some .d0 ∧ u.owner 0 = none ∧ (u.unit .d0).home = 3 ∧
      (stateOf (exec (.contactOpen .d0 .a .c2) u)).owners = [(0, .d0), (1, .d0)] := by decide

/-- The outgoing key and the incoming key drawn; point 6 is to be re-alarmed. -/
theorem wit_HandoverKeysDrawn :
    review.works = true ∧ (review.slot .d0 .a).contacts.get .c1 = true ∧ review.resultAt .d0 .a = some (.holder 1) ∧
      (review.unit .d0).state = .handoverReview .a shift 0 ∧ review.resultAt .d0 .b = some (.incoming 0) ∧
      tableWf review.points = true ∧ (⟨6, .acked, false⟩ : Carried) ∈ shift.carried ∧
      (shift.carried.map (·.tag)).Nodup ∧ (review.loadOf (.desk .d0)).w ≤ 255 ∧ shift.carried.length ≤ 32 ∧
      review.point 6 = some { pointIn (.acked 480) true with effective := 1 } ∧
      (review.slot .d0 .b).contacts.get .c2 = true := by decide

/-- An identity record whose bytes add up to a multiple of 256 (R71). -/
def record (key3 issue kind : Byte) : SixBytes :=
  { b0 := 0, b1 := 0, b2 := key3, b3 := issue, b4 := kind, b5 := 0 - (key3 + issue + kind) }

/-- A settling slot; a second and a third attempt; records failing each test; a slot with no attempt. -/
theorem wit_KeyRead :
    (∀ bat n last, ((slots .vacant (seated .settling) Slot.atReset).slot .d0 .a).state ≠ .reading bat n last) ∧
      (slots .vacant (seated .settling) Slot.atReset).works = true ∧
      ((slots .vacant (seated .settling) Slot.atReset).slot .d0 .a).state = .settling ∧
      ((slots .vacant (seated (.reading .low 2 none)) Slot.atReset).slot .d0 .a).state = .reading .low 2 none ∧
      ((slots .vacant (seated (.reading .good 3 (some .check))) Slot.atReset).slot .d0 .a).state =
        .reading .good 3 (some .check) ∧
      sumsToZero { record 100 1 1 with b5 := 0 } = false ∧ sumsToZero (record 0 1 1) = true ∧
      ((record 0 1 1).b0 = 0 ∧ (record 0 1 1).b1 = 0 ∧ (record 0 1 1).b2 = 0) ∧
      sumsToZero (record 100 1 2) = true ∧ (record 100 1 2).b2 ≠ 0 ∧ (record 100 1 2).b4 ≠ 1 :=
  ⟨fun bat n last h => (by cases h), by decide⟩

/-- D0 in a state with a key of slot B being read. -/
def reads (st : DeskState) (a : Slot) : State := part (deskWith st a (seated (.reading .good 1 none))) []

/-- The crew with the OPERATOR locked. -/
def locked : State :=
  { reads .vacant Slot.atReset with operators := [(0, { operatorRecord 100 .operator 7 with locked := true })] }

/-- A part on day 8 with an OPERATOR valid until day 7. -/
def expired : State :=
  { reads .vacant Slot.atReset with
    operators := [(0, { operatorRecord 100 .operator 7 with validUntil := some 7 })]
    mill := some ⟨⟨8, 0⟩, ⟨7, 79200⟩⟩ }

/-- A valid record, and a record for each refusal: unknown, re-issued, locked, expired, signed on elsewhere. -/
theorem wit_SignOnDecided_refused :
    let s := reads .vacant Slot.atReset
    let u := reads (.attended .a) (signed (.holder 1))
    s.works = true ∧ (s.slot .d0 .b).state = .reading .good 1 none ∧ judgeRecord (record 100 1 1) = none ∧
      s.keyRecord (recordKey (record 99 1 1)) = none ∧
      s.keyRecord (recordKey (record 100 1 1)) = some (0, operatorRecord 100 .operator 7) ∧
      (operatorRecord 100 .operator 7).issue ≠ (record 100 2 1).b3 ∧
      locked.keyRecord (recordKey (record 100 1 1)) = some (0, { operatorRecord 100 .operator 7 with locked := true }) ∧
      expired.windowPassed { operatorRecord 100 .operator 7 with validUntil := some 7 } = false ∧
      u.keyRecord (recordKey (record 200 1 1)) = some (1, operatorRecord 200 .senior 7) ∧
      u.windowPassed (operatorRecord 200 .senior 7) = true ∧ (u.whereSignedOn 1).isSome = true := by decide

/-- Accepted: at an ATTENDED desk, an observer at a VACANT one, and at HANDOVER_OPEN one who does not and one who does
qualify. -/
theorem wit_SignOnDecided_accepted :
    let s := reads (.attended .a) (signed (.holder 1))
    let u := reads (.handoverOpen .a shift) (signed (.holder 1))
    (s.unit .d0).state = .attended .a ∧ s.keyRecord (recordKey (record 100 1 1)) = some (0, operatorRecord 100 .operator 7) ∧
      s.windowPassed (operatorRecord 100 .operator 7) = true ∧ s.whereSignedOn 0 = none ∧
      ((reads .vacant Slot.atReset).unit .d0).state = .vacant ∧ (operatorRecord 300 .observer 7).role = .observer ∧
      (u.unit .d0).state = .handoverOpen .a shift ∧ u.qualifies .d0 (operatorRecord 300 .observer 7) = false ∧
      u.qualifies .d0 (operatorRecord 100 .operator 7) = true ∧ u.whereSignedOn 0 = none ∧ u.whereSignedOn 2 = none := by
  decide

/-- Mill days before, within and after a record's days, and its first and last day; lawful tables. -/
theorem wit_SignOnDecided_tests :
    let r : OperatorRecord := { operatorRecord 100 .operator 7 with validFrom := some 3, validUntil := some 7 }
    let at_ (day : Nat) : State := { busy with mill := some ⟨⟨day, 0⟩, ⟨day, 0⟩⟩ }
    (at_ 2).windowPassed r = false ∧ (at_ 3).windowPassed r = true ∧ (at_ 7).windowPassed r = true ∧
      (at_ 8).windowPassed r = false ∧ busy.windowPassed r = true ∧ tableWf busy.owners = true ∧
      tableWf busy.operators = true ∧ busy.owner 1 = some .d0 := by decide

/-- Area 1 is claimed. -/
theorem wit_SignOnGainsHolder :
    let s := { reads .vacant Slot.atReset with owners := [] }
    s.works = true ∧ (s.slot .d0 .b).state = .reading .good 1 none ∧ judgeRecord (record 100 1 1) = none ∧
      s.keyRecord (recordKey (record 100 1 1)) = some (0, operatorRecord 100 .operator 7) ∧
      (operatorRecord 100 .operator 7).issue = (record 100 1 1).b3 ∧
      s.windowPassed (operatorRecord 100 .operator 7) = true ∧ s.whereSignedOn 0 = none ∧
      (s.unit .d0).state = .vacant ∧ (operatorRecord 100 .operator 7).role.atLeast .operator = true ∧
      tableWf s.owners = true ∧ s.owner 1 = none ∧ inSet (s.unit .d0).home 1 = true ∧
      inSet (7 : AreaSet) 1 = true := by decide

/-! ### Witnesses: operators -/

theorem record_lawful {key : KeyNumber} (h : key ≠ 0) (role : Role) (areas : AreaSet) :
    (operatorRecord key role areas).Lawful :=
  ⟨h, by simp [operatorRecord], by simp [operatorRecord], by simp [operatorRecord], by simp [operatorRecord]⟩

/-- No other record of the crew has the key number 500. -/
theorem crew_without_500 (j : OpIndex) (q : OperatorRecord) (h : busy.operator j = some q) : q.key ≠ 500 := by
  have := tableGet_mem h
  simp only [busy, part, crew, List.mem_cons, Prod.mk.injEq, List.not_mem_nil, or_false] at this
  rcases this with ⟨-, rfl⟩ | ⟨-, rfl⟩ | ⟨-, rfl⟩ | ⟨-, rfl⟩ <;> decide

/-- D0 attended by operator 1, with operator `o` a companion in slot B. -/
def accompanied (o : OpIndex) : State := slots (.attended .a) (signed (.holder 1)) (signed (.companion o false))

/-- Twelve bytes that no display tag may hold as characters. -/
def padding : List Byte := (List.range 12).map (fun k => byte (k + 1))

/-- Operator 0's record with the display tag "AB". -/
def named (areas : AreaSet) : OperatorRecord := { operatorRecord 100 .operator areas with displayTag := some [65, 66] }

theorem named_lawful (areas : AreaSet) : (named areas).Lawful :=
  ⟨by simp [named, operatorRecord], by simp [named, operatorRecord], by simp [named, operatorRecord],
    by simp [named, operatorRecord], by simp [named]⟩

/-- R206: what stands beyond the display tag is ignored; and behind the marks of absent items, log 37. -/
theorem test_padding_ignored :
    readSetOperator (byte 0 :: (named 7).spelt 0xFFFF 1 padding) = some (0, named 7) ∧
      readSetOperator (byte 63 :: (operatorRecord 500 .observer 7).spelt 9 3 padding) =
        some (63, operatorRecord 500 .observer 7) := by decide

/-- A key number in use; a free one for the signed-off operator 2; an absent position; a companion, an incoming
operator and a holder cleared, in ATTENDED, HANDOVER_OPEN and HANDOVER_REVIEW. -/
theorem wit_OperatorTable :
    (padding.length = 12 ∧ (named 7).Lawful) ∧ busy.commands .s0 ∧ (operatorRecord 400 .observer 7).Lawful ∧ tableWf busy.operators = true ∧
      busy.operator 3 = some (operatorRecord 400 .supervisor 7) ∧ (operatorRecord 500 .observer 7).Lawful ∧
      (∀ j q, j ≠ 2 → busy.operator j = some q → q.key ≠ (operatorRecord 500 .observer 7).key) ∧
      busy.whereSignedOn 2 = none ∧ busy.operator 63 = none ∧ busy.operator 2 = some (operatorRecord 300 .observer 7) ∧
      (accompanied 2).whereSignedOn 2 = some (.d0, .b) ∧ (accompanied 2).resultAt .d0 .b = some (.companion 2 false) ∧
      busy.operator 1 = some (operatorRecord 200 .senior 7) ∧ tableWf busy.owners = true ∧
      tableWf busy.points = true :=
  ⟨⟨by decide, named_lawful 7⟩, busy_commands, record_lawful (by decide) _ _, by decide, by decide,
    record_lawful (by decide) _ _, fun j q _ h => crew_without_500 j q h, by decide⟩

/-- The signed-on records of `State.Revoked`, each in its desk state. -/
theorem wit_Revoked :
    (accompanied 0).resultAt .d0 .b = some (.companion 0 false) ∧
      review.commands .s0 ∧ review.whereSignedOn 0 = some (.d0, .b) ∧ review.resultAt .d0 .b = some (.incoming 0) ∧
      (review.unit .d0).state = .handoverReview .a shift 0 ∧
      busy.whereSignedOn 1 = some (.d0, .a) ∧ busy.resultAt .d0 .a = some (.holder 1) ∧
      (busy.unit .d0).state = .attended .a ∧
      opening.commands .s0 ∧ opening.whereSignedOn 1 = some (.d0, .a) ∧ opening.resultAt .d0 .a = some (.holder 1) ∧
      (opening.unit .d0).state = .handoverOpen .a shift ∧
      review.whereSignedOn 1 = some (.d0, .a) ∧ review.resultAt .d0 .a = some (.holder 1) :=
  ⟨by decide, commands_of rfl (by decide) rfl, by decide, by decide, by decide, by decide, by decide, by decide,
    commands_of rfl (by decide) rfl, by decide⟩

/-- D0 in HANDOVER_REVIEW on day 9, the incoming operator's record valid until day 8. -/
def outOfWindow : State :=
  { review with
    mill := some ⟨⟨9, 30000⟩, ⟨9, 21600⟩⟩
    operators := tablePut crew 0 { operatorRecord 100 .operator 7 with validUntil := some 8 } }

/-- An incoming operator whose window has passed keeps the handover when the display tag alone changes (R87). -/
theorem wit_SetOperatorConsequences_unchanged :
    let old : OperatorRecord := { operatorRecord 100 .operator 7 with validUntil := some 8 }
    let new : OperatorRecord := { named 7 with validUntil := some 8 }
    outOfWindow.commands .s0 ∧ new.Lawful ∧ outOfWindow.operator 0 = some old ∧ outOfWindow.qualifies .d0 new = false ∧
      (old.role = new.role ∧ old.areas = new.areas ∧ old.validFrom = new.validFrom ∧ old.validUntil = new.validUntil) ∧
      outOfWindow.whereSignedOn 0 = some (.d0, .b) ∧ outOfWindow.resultAt .d0 .b = some (.incoming 0) ∧
      tableWf outOfWindow.operators = true ∧ tableWf outOfWindow.owners = true := by
  refine ⟨commands_of rfl (by decide) rfl, ⟨by simp [named, operatorRecord], by simp [named, operatorRecord], ?_,
    by simp [named, operatorRecord], by simp [named]⟩, by decide⟩
  intro v h; simp only [Option.some.injEq] at h; omega

/-- A record's key changed, locked, and kept (`wit_Revoked` has the slots); an incoming operator made OBSERVER, and
kept; a holder's areas narrowed, in ATTENDED and in HANDOVER_OPEN, where the points of area 1 leave the carried list, and
kept. -/
theorem wit_SetOperatorConsequences :
    (accompanied 0).commands .s0 ∧ (accompanied 0).operator 0 = some (operatorRecord 100 .operator 7) ∧
      (accompanied 0).whereSignedOn 0 = some (.d0, .b) ∧ (accompanied 0).resultAt .d0 .b = some (.companion 0 false) ∧
      (operatorRecord 100 .operator 7).key ≠ (operatorRecord 500 .operator 7).key ∧
      ({ operatorRecord 100 .operator 7 with locked := true } : OperatorRecord).locked = true ∧
      (operatorRecord 100 .operator 7).locked = false ∧
      review.whereSignedOn 0 = some (.d0, .b) ∧ review.resultAt .d0 .b = some (.incoming 0) ∧
      (review.unit .d0).state = .handoverReview .a shift 0 ∧
      review.qualifies .d0 (operatorRecord 100 .observer 7) = false ∧
      review.qualifies .d0 (operatorRecord 100 .operator 2) = true ∧
      (operatorRecord 100 .operator 7).role ≠ (operatorRecord 100 .observer 7).role ∧
      busy.whereSignedOn 1 = some (.d0, .a) ∧ busy.resultAt .d0 .a = some (.holder 1) ∧
      busy.owner 1 = some .d0 ∧ inSet (operatorRecord 200 .senior 7).areas 1 = true ∧
      inSet (operatorRecord 200 .senior 5).areas 1 = false ∧
      (∀ a, busy.owner a = some .d0 → inSet (operatorRecord 200 .senior 2).areas a = true) ∧
      tableWf busy.operators = true ∧ tableWf busy.owners = true ∧
      opening.resultAt .d0 .a = some (.holder 1) ∧ opening.owner 1 = some .d0 ∧ opening.carried .d0 ≠ [] ∧
      (stateOf (exec (.setOperator .s0 1 (byte 1 :: (operatorRecord 200 .senior 5).spelt 0 0 padding)) opening)).carried
        .d0 = [] :=
  ⟨commands_of rfl (by decide) rfl, by decide⟩

/-- No other record of the crew has operator 0's key number. -/
theorem wit_SetOperatorConsequences_keys (j : OpIndex) (q : OperatorRecord) (hj : j ≠ 0)
    (h : (accompanied 0).operator j = some q) : q.key ≠ 100 := by
  have := tableGet_mem h
  simp only [accompanied, slots, part, crew, List.mem_cons, Prod.mk.injEq, List.not_mem_nil, or_false] at this
  rcases this with ⟨rfl, rfl⟩ | ⟨-, rfl⟩ | ⟨-, rfl⟩ | ⟨-, rfl⟩
  · exact absurd rfl hj
  all_goals decide

/-! ### Witnesses: acknowledgement, silencing and shelving -/

/-- `busy` with D0's holder given another role and permitted set. -/
def heldBy (role : Role) (areas : AreaSet) : State := { busy with operators := [(1, operatorRecord 200 role areas)] }

theorem wit_AckTaken :
    busy.holderRecord .d0 = some (1, operatorRecord 200 .senior 7) ∧ Role.senior.atLeast .operator = true ∧
      busy.point 5 = some (pointIn (.unack 540) true) ∧ (pointIn (.unack 540) true).base ≤ 3 ∧ inSet 7 1 = true ∧
      (pointIn (.unack 540) true).Lawful ∧ (pointIn (.unack 540) true).unacknowledged = true ∧
      busy.point 7 = some (pointIn (.rtnUnack 500) false) ∧ (pointIn (.rtnUnack 500) false).unacknowledged = true ∧
      busy.target 1 = .desk .d0 ∧ busy.works = true ∧
      ackHead (busy.attentionList (.desk .d0)) = some (7, pointIn (.rtnUnack 500) false) :=
  ⟨by decide, by decide, busy_5, by decide, by decide, busy_lawful busy_5, by decide, busy_7, by decide⟩

/-- Each refusal: no holder; an observer; no point; outside the permitted set; a point in ACKED; nothing to press for. -/
theorem wit_AckTaken_refused :
    busy.holderRecord .d1 = none ∧
      (heldBy .observer 7).holderRecord .d0 = some (1, operatorRecord 200 .observer 7) ∧
      (heldBy .senior 5).holderRecord .d0 = some (1, operatorRecord 200 .senior 5) ∧
      busy.point 1023 = none ∧ inSet 5 1 = false ∧ busy.target 1 = .desk .d0 ∧
      ({ pointIn (.acked 480) true with effective := 1 } : Point).unacknowledged = false ∧
      3 < (recordOnly (.acked 540) true).base ∧ ackHead ((part attended []).attentionList (.desk .d0)) = none ∧
      ackHead ((heldBy .observer 7).attentionList (.desk .d0)) = some (7, pointIn (.rtnUnack 500) false) := by decide

/-- The holder of D0; a companion at D0 with no holder; no key at D1. -/
theorem wit_SilenceSilences :
    ((busy.holder .d0).orElse fun _ => (busy.signedOn .d0 .a).orElse fun _ => busy.signedOn .d0 .b) = some 1 ∧
      busy.holder .d1 = none ∧ busy.signedOn .d1 .a = none ∧ busy.signedOn .d1 .b = none ∧
      ({ busy with supervisor := some .d0 } : State).supervisor = some .d0 := by decide

/-- A part with 64 points in SHELVED. -/
def shelfFull : State :=
  part attended (((List.range 64).map (fun n => (Fin.ofNat 1024 (10 + n), pointIn (.shelved 900 1) true))) ++
    [(500, pointIn .normal false)])

/-- Each refusal, and shelvings of 0, 480 and 65535 minutes taken. -/
theorem wit_ShelveShelves :
    busy.commands .s0 ∧ busy.point 8 = some (pointIn (.shelved 900 1) true) ∧
      busy.point 9 = some (pointIn .normal false) ∧ (0 : Nat) < 65536 ∧ (65535 : Nat) < 65536 ∧ busy.holderRecord .d1 = none ∧
      (heldBy .operator 7).holderRecord .d0 = some (1, operatorRecord 200 .operator 7) ∧
      Role.operator.atLeast .senior = false ∧ Role.senior.atLeast .senior = true ∧ busy.point 1023 = none ∧
      inSet 5 1 = false ∧ inSet 7 1 = true ∧ ({ pointIn .normal false with shelvable := false } : Point).shelvable = false ∧
      busy.shelfEntries.length < 64 :=
  ⟨busy_commands, busy_8, busy_9, by decide⟩

theorem wit_ShelveShelves_full :
    shelfFull.commands .s0 ∧ 64 ≤ shelfFull.shelfEntries.length ∧ shelfFull.point 500 = some (pointIn .normal false) :=
  ⟨commands_of rfl (by decide) rfl, by decide, by decide⟩

/-- UNSHELVE, and the expiry at run second 900; a point of base priority 2, an inactive one and a record-only one. -/
theorem wit_ShelvingEnds :
    busy.point 8 = some (pointIn (.shelved 900 1) true) ∧ (pointIn (.shelved 900 1) true).Lawful ∧ busy.commands .s0 ∧
      busy.holderRecord .d0 = some (1, operatorRecord 200 .senior 7) ∧ Role.senior.atLeast .senior = true ∧
      inSet 7 1 = true ∧ ({ busy with runSeconds := 900 } : State).works = true ∧
      (pointIn (.shelved 900 1) false).Lawful ∧ (recordOnly (.shelved 900 1) true).Lawful := by
  refine ⟨busy_8, busy_lawful busy_8, busy_commands, by decide, by decide, by decide, by decide, ?_, ?_⟩ <;>
    simp [Point.Lawful, recordOnly, pointIn, Point.standing, Point.unacknowledged]

/-- UNSHELVE refused: no holder; a role below SENIOR; no point; an area not permitted; a point in UNACK. -/
theorem wit_ShelvingEnds_refused :
    busy.commands .s0 ∧ busy.holderRecord .d1 = none ∧
      (heldBy .operator 7).holderRecord .d0 = some (1, operatorRecord 200 .operator 7) ∧
      Role.operator.atLeast .senior = false ∧ busy.point 1023 = none ∧
      (heldBy .senior 5).holderRecord .d0 = some (1, operatorRecord 200 .senior 5) ∧ inSet 5 1 = false ∧
      busy.point 5 = some (pointIn (.unack 540) true) ∧ inSet 7 1 = true ∧
      ∀ x o, (pointIn (.unack 540) true).state ≠ .shelved x o :=
  ⟨busy_commands, by decide, by decide, by decide, by decide, by decide, by decide, busy_5, by decide,
    fun x o h => by cases h⟩

/-! ### Witnesses: shift handover -/

/-- A part with 32 or 33 points in UNACK. -/
def crowded (n : Nat) (u : DeskUnit) : State :=
  part u ((List.range n).map (fun k => (Fin.ofNat 1024 (100 + k), pointIn (.unack 540) true)))

/-- R121: D0's list carries its items in UNACK, RTN_UNACK and ACKED at effective priority 1 in list order
(R45: of the unacknowledged, 7 is the older). -/
theorem test_carried_in_list_order :
    (stateOf (exec (.handPress .d0) busy)).carried .d0 =
      [⟨7, .rtnUnack, false⟩, ⟨5, .unack, false⟩, ⟨6, .acked, false⟩] := by decide

/-- The opening taken, with 32 entries, and with a companion who does and one who does not qualify. -/
theorem wit_HandoverOpening :
    (crowded 32 attended).holderRecord .d0 = some (1, operatorRecord 200 .senior 7) ∧
      ((crowded 32 attended).unit .d0).state = .attended .a ∧
      ((crowded 32 attended).loadOf (.desk .d0)).flood = false ∧ ((crowded 32 attended).toCarry .d0).length ≤ 32 ∧
      (accompanied 0).resultAt .d0 .b = some (.companion 0 false) ∧
      (accompanied 0).operator 0 = some (operatorRecord 100 .operator 7) ∧
      (accompanied 0).qualifies .d0 (operatorRecord 100 .operator 7) = true ∧
      (accompanied 2).operator 2 = some (operatorRecord 300 .observer 7) ∧
      (accompanied 2).qualifies .d0 (operatorRecord 300 .observer 7) = false := by decide

/-- Each refusal: no holder, an observer, a handover already open, flood, 33 entries. -/
theorem wit_HandoverOpening_refused :
    busy.commands .s0 ∧ busy.holderRecord .d1 = none ∧
      (heldBy .observer 7).holderRecord .d0 = some (1, operatorRecord 200 .observer 7) ∧
      (∀ k, (opening.unit .d0).state ≠ .attended k) ∧ ((loaded 0 160 true).loadOf (.desk .d0)).flood = true ∧
      32 < ((crowded 33 attended).toCarry .d0).length :=
  ⟨busy_commands, by decide, by decide, fun k h => (by cases h), by decide, by decide⟩

/-- Presses that are refused: in VACANT and OUT_OF_SERVICE; in ATTENDED with no record of the holder, an observer, in
flood and with 33 entries. -/
theorem wit_HandoverOpening_press :
    quiet.works = true ∧ (quiet.unit .d0).state = .vacant ∧
      ((slots .outOfService Slot.atReset Slot.atReset).unit .d0).state = .outOfService ∧
      (busy.unit .d0).state = .attended .a ∧ ({ busy with operators := [] } : State).holderRecord .d0 = none ∧
      ((heldBy .observer 7).unit .d0).state = .attended .a ∧
      (heldBy .observer 7).holderRecord .d0 = some (1, operatorRecord 200 .observer 7) ∧
      (loaded 0 160 true).holderRecord .d0 = some (1, operatorRecord 200 .senior 7) ∧
      (crowded 33 attended).holderRecord .d0 = some (1, operatorRecord 200 .senior 7) := by decide

/-- HANDOVER_OPEN, HANDOVER_REVIEW and no handover; the limit expiry reached. -/
theorem wit_HandoverAborted :
    opening.holderRecord .d0 = some (1, operatorRecord 200 .senior 7) ∧ Role.senior.atLeast .operator = true ∧
      opening.commands .s0 ∧ (opening.unit .d0).state = .handoverOpen .a shift ∧
      (review.unit .d0).state = .handoverReview .a shift 0 ∧ busy.inHandover .d0 = false ∧
      ({ opening with runSeconds := 1140 } : State).runSeconds = shift.limitExpiry := by
  refine ⟨by decide, by decide, commands_of rfl (by decide) rfl, by decide⟩

/-- A state whose holder of D0 has the role OBSERVER, and one in which it has no record. -/
def demoted (s : State) : State := { s with operators := [(1, operatorRecord 200 .observer 7)] }

def unrecorded (s : State) : State := { s with operators := [] }

/-- A cancel refused: no holder, and a holder below OPERATOR. -/
theorem wit_HandoverAborted_refused :
    (demoted opening).commands .s0 ∧ (unrecorded opening).commands .s0 ∧
      (unrecorded opening).holderRecord .d0 = none ∧
      (demoted opening).holderRecord .d0 = some (1, operatorRecord 200 .observer 7) ∧
      (demoted opening).works = true ∧ ((demoted opening).unit .d0).state = .handoverOpen .a shift ∧
      ((unrecorded opening).unit .d0).state = .handoverOpen .a shift :=
  ⟨commands_of rfl (by decide) rfl, commands_of rfl (by decide) rfl, by decide⟩

/-- D0 in a HANDOVER_REVIEW that is fully briefed. -/
def briefedReview : State :=
  slots (.handoverReview .a { shift with carried := [⟨5, .unack, true⟩] } 0) (signed (.holder 1)) (signed (.incoming 0))

/-- A commit refused: no holder, a holder below OPERATOR, and a desk not in HANDOVER_REVIEW. -/
theorem wit_HandoverCommitted_refused :
    (demoted briefedReview).commands .s0 ∧ (unrecorded briefedReview).commands .s0 ∧ opening.commands .s0 ∧
      (∀ k h inc, (opening.unit .d0).state ≠ .handoverReview k h inc) ∧
      (unrecorded briefedReview).holderRecord .d0 = none ∧
      (demoted briefedReview).holderRecord .d0 = some (1, operatorRecord 200 .observer 7) ∧
      opening.holderRecord .d0 = some (1, operatorRecord 200 .senior 7) ∧ (demoted briefedReview).works = true ∧
      (briefedReview.unit .d0).state = .handoverReview .a { shift with carried := [⟨5, .unack, true⟩] } 0 :=
  ⟨commands_of rfl (by decide) rfl, commands_of rfl (by decide) rfl, commands_of rfl (by decide) rfl,
    fun k h inc e => (by cases e), by decide⟩

/-- A review that is fully briefed and one that is not. -/
theorem wit_HandoverCommitted :
    (review.unit .d0).state = .handoverReview .a shift 0 ∧
      review.holderRecord .d0 = some (1, operatorRecord 200 .senior 7) ∧
      (∀ e ∈ ({ shift with carried := [⟨5, .unack, true⟩] } : Handover).carried, e.briefed = true) ∧
      (∃ e ∈ shift.carried, e.briefed = false) ∧ review.commands .s0 ∧ review.works = true :=
  ⟨by decide, by decide, by decide, by decide, commands_of rfl (by decide) rfl, by decide⟩

/-- Point 6 unbriefed and at the head of what a press briefs, point 5 briefed; no review; no entry. -/
theorem wit_Briefing :
    (review.unit .d0).state = .handoverReview .a shift 0 ∧
      shift.carried.find? (fun e => decide (e.tag = 6)) = some ⟨6, .acked, false⟩ ∧
      shift.carried.find? (fun e => decide (e.tag = 5)) = some ⟨5, .unack, true⟩ ∧
      (shift.carried.filter (fun e => !e.briefed)).head? = some ⟨6, .acked, false⟩ ∧ review.commands .s0 ∧
      (∀ k h inc, (busy.unit .d0).state ≠ .handoverReview k h inc) ∧ (∀ e ∈ review.carried .d0, e.tag ≠ 1023) :=
  ⟨by decide, by decide, by decide, by decide, commands_of rfl (by decide) rfl, fun k h inc e => (by cases e), by decide⟩

/-- A handover that carries 31 or 32 entries. -/
def carrying (n : Nat) : State :=
  part (deskWith (.handoverOpen .a { shift with carried := (List.range n).map (fun k => ⟨Fin.ofNat 1024 k, .unack, true⟩) })
    (signed (.holder 1)) Slot.atReset) []

theorem wit_CarriedListFollows :
    busy.inHandover .d0 = false ∧ (opening.unit .d0).state.handover? = some shift ∧ Standing.rtnUnack ≠ .unack ∧
      (∃ e ∈ shift.carried, e.tag = 5) ∧ (∀ e ∈ (carrying 31).carried .d0, e.tag ≠ 500) ∧
      ((carrying 31).carried .d0).length < 32 ∧ (∀ e ∈ (carrying 32).carried .d0, e.tag ≠ 500) ∧
      32 ≤ ((carrying 32).carried .d0).length := by decide

/-- Points that move in: in UNACK, in ACKED at effective priority 1 and 2, and in NORMAL. -/
theorem wit_CarriedListFollows_moved :
    (pointIn (.unack 540) true).standing = some .unack ∧ (pointIn (.acked 540) true).standing = some .acked ∧
      ({ pointIn (.acked 540) true with effective := 1 } : Point).effective = 1 ∧
      (pointIn (.acked 540) true).effective ≠ 1 ∧ (pointIn .normal false).standing = none ∧
      Standing.unack ≠ .acked := by decide

/-! ### Witnesses: annunciation and time -/

theorem wit_FlashCycle :
    busy.works = true ∧ ({ busy with position := 98 } : State).position + 1 < busy.flash.c ∧
      busy.flash.c ≤ ({ busy with position := 99 } : State).position + 1 ∧ busy.flash.Lawful ∧
      (⟨20, 20, 10, 15⟩ : Flash).Lawful := by
  refine ⟨by decide, by decide, by decide, ?_, ?_⟩ <;> unfold Flash.Lawful <;> decide

/-- Positions at which each ALT pattern is lit. -/
theorem wit_FlashCycle_lit :
    Pattern.lit ⟨75, 30, 37, 4⟩ 4 .altFirst = true ∧ Pattern.lit ⟨75, 30, 37, 4⟩ 73 .altSecond = true ∧
      Pattern.lit ⟨75, 30, 37, 4⟩ 74 .altSecond = false := by decide

/-- `busy` at the last position of a cycle, with a horn owner and hold count. -/
def lastPosition (owner : Option Target) (count : Nat) : State :=
  { busy with position := 99, horn := { busy.horn with owner := owner, count := count } }

theorem wit_LampsChosen :
    (lastPosition none 0).works = true ∧ (lastPosition none 0).flash.c ≤ (lastPosition none 0).position + 1 ∧
      (∃ t, exec .cycleStart (lastPosition none 0) = .next t) ∧
      (({ slots .outOfService Slot.atReset Slot.atReset with position := 99 } : State).unit .d0).state = .outOfService :=
  ⟨by decide, by decide, ⟨_, rfl⟩, by decide⟩

/-- No owner; the room owner while D0 requests the horn; D0 the owner alone. -/
theorem wit_HornDecided :
    (lastPosition none 0).horn.owner = none ∧ (lastPosition (some .room) 2).horn.owner = some .room ∧
      (lastPosition (some (.desk .d0)) 15).horn.owner = some (.desk .d0) ∧
      (∃ t, exec .cycleStart (lastPosition (some .room) 2) = .next t ∧ t.horn.requests.get (.desk .d0) = true ∧
        t.horn.requests.get .room = false) ∧
      (∃ t, exec .cycleStart (lastPosition (some (.desk .d0)) 1) = .next t ∧
        ∀ y, y ≠ .desk .d0 → t.horn.requests.get y = false) := by
  refine ⟨by decide, by decide, by decide, ⟨_, rfl, by decide, by decide⟩, ⟨_, rfl, fun y hy => ?_⟩⟩
  cases y with
  | room => decide
  | desk d => cases d <;> first | exact absurd rfl hy | decide

/-- `busy` with mill time SET, its last fired boundary the 06:00 start of day 9. -/
def clocked (day second : Nat) : State := { busy with mill := some ⟨⟨day, second⟩, ⟨9, 21600⟩⟩ }

/-- A second up to one second before a start; pulses at 0, 1, 29, 30 and 59 seconds. -/
theorem wit_TimeRunsOn :
    busy.mill = none ∧ (clocked 9 50398).mill = some ⟨⟨9, 50398⟩, ⟨9, 21600⟩⟩ ∧ 50398 + 1 < 86400 ∧
      (∀ x ∈ busy.schedule, x ≠ 50398 + 1) ∧ (clocked 9 50398).timeHold = false ∧
      ({ clocked 9 5 with timeHold := true } : State).timeHold = true ∧
      (22020 % 60 = 0 ∧ 22021 % 60 = 1 ∧ 22049 % 60 = 29 ∧ 22050 % 60 = 30 ∧ 22079 % 60 = 59) ∧
      22050 + (60 - 30) < 86400 ∧ (∀ y ∈ busy.schedule, y ≤ 22050 ∨ 22050 + (60 - 30) < y) := by decide

/-- The last second of day 65535, with no start at midnight and with one that is not later than the last fired boundary;
and a pulse there 30 seconds before midnight. -/
theorem wit_TimeRunsOn_midnight :
    let s := clocked 65535 86399
    s.mill = some ⟨⟨65535, 86399⟩, ⟨9, 21600⟩⟩ ∧ scheduleOk s.schedule = true ∧ ¬ 86399 + 1 < 86400 ∧
      (65535 + 1) % 65536 = 0 ∧ (∀ x ∈ s.schedule, x ≠ 0) ∧ scheduleOk [0] = true ∧
      difference ⟨9, 21600⟩ ⟨0, 0⟩ ≤ 0 ∧ 30 ≤ 86370 % 60 ∧ ¬ 86370 + (60 - 86370 % 60) < 86400 := by decide

/-- A pulse at 50370 crosses the start of 50400, the second of day 9, and no other. -/
theorem wit_TimeRunsOn_pulse :
    (∀ m : Fin 64, (28 ≤ m.val ∧ m.val < 29) ↔ crossesStart busy.schedule ⟨⟨9, 50370⟩, ⟨9, 21600⟩⟩ 30 m.val) := by
  intro m; unfold crossesStart; revert m; decide +kernel

theorem wit_BoundaryFires :
    (clocked 9 50399).works = true ∧ (clocked 9 50399).mill = some ⟨⟨9, 50399⟩, ⟨9, 21600⟩⟩ ∧
      scheduleOk (clocked 9 50399).schedule = true ∧ (clocked 9 50399).schedule[1]? = some (50399 + 1) ∧
      0 < difference ⟨9, 21600⟩ ⟨9, 50400⟩ := by decide

/-- A start at second 0 reached from the last second of day 65535. -/
theorem wit_BoundaryFires_midnight :
    let s : State := { busy with schedule := [0], mill := some ⟨⟨65535, 86399⟩, ⟨65535, 0⟩⟩ }
    s.works = true ∧ s.mill = some ⟨⟨65535, 86399⟩, ⟨65535, 0⟩⟩ ∧ scheduleOk s.schedule = true ∧
      ¬ 86399 + 1 < 86400 ∧ (65535 + 1) % 65536 = 0 ∧ s.schedule[0]? = some 0 ∧
      0 < difference ⟨65535, 0⟩ ⟨0, 0⟩ := by decide

/-- A mark at mill time itself, marks 2 and 3 seconds ahead, and one two days ahead that crosses six starts. -/
theorem wit_TimeMarks_forward :
    difference ⟨9, 50398⟩ ⟨9, 50398⟩ = 0 ∧ difference ⟨9, 50398⟩ ⟨9, 50400⟩ = 2 ∧
      difference ⟨9, 50398⟩ ⟨9, 50401⟩ = 3 ∧ difference ⟨9, 50398⟩ ⟨11, 50398⟩ = 172800 ∧
      scheduleOk (clocked 9 50398).schedule = true ∧ (clocked 9 50398).timeHold = false ∧
      (∀ m : Fin 64, (28 ≤ m.val ∧ m.val < 34) ↔
        crossesStart busy.schedule ⟨⟨9, 50398⟩, ⟨9, 21600⟩⟩ 172800 m.val) := by
  refine ⟨by decide, by decide, by decide, by decide, by decide, by decide, ?_⟩
  intro m; unfold crossesStart; revert m; decide +kernel

/-- Marks 2 and 3 seconds away, in both modes, with HOLD and without. -/
theorem wit_TimeMarks :
    busy.commands .s0 ∧ 65535 < 65536 ∧ 86399 < 86400 ∧ busy.mill = none ∧ busy.timeHold = false ∧
      (clocked 9 600).commands .s0 ∧ difference ⟨9, 600⟩ ⟨9, 598⟩ = -2 ∧ difference ⟨9, 600⟩ ⟨9, 597⟩ = -3 ∧
      difference ⟨9, 600⟩ ⟨9, 602⟩ = 2 ∧ (clocked 9 600).markMode = .strict ∧
      ({ clocked 9 600 with markMode := .follow, timeHold := true } : State).timeHold = true :=
  ⟨busy_commands, by decide, by decide, by decide, by decide, commands_of rfl (by decide) rfl, by decide⟩

/-- A first mark in today's shift, and one before today's first start. -/
theorem wit_TimeMarks_shift :
    let starts := [21600, 50400, 79200]
    scheduleOk starts = true ∧ 21600 ∈ starts ∧ 21600 ≤ 50399 ∧ (∀ y ∈ starts, y ≤ 50399 → y ≤ 21600) ∧
      79200 ∈ starts ∧ (∀ y ∈ starts, y ≤ 79200) ∧ ∀ y ∈ starts, 21599 < y := by decide

/-- A minute tick with D0 due for exactly the 30 minutes of grace. -/
theorem wit_DueLateTick :
    let m : DueMark := { time := 600 - 1800, late := false }
    let s := { part { attended with due := some m } [] with tick := ⟨true, true, true⟩ }
    s.works = true ∧ s.tick.late = true ∧ (s.unit .d0).due = some m ∧
      60 * s.limits.dueGrace ≤ (s.runSeconds - m.time).toNat := by decide

/-! ### Witnesses: journal, attention, links -/

theorem wit_EntryMade : busy.JournalLawful := ⟨by decide, by decide⟩

/-- `busy` with the KEY flag pending. -/
def keyPending (enables : ClassSet) (mode : ClearMode) : State :=
  { busy with attention := { pending := 2, enables := enables, globalEnable := true, clearMode := mode } }

/-- KEY's notices turned on, and left on; the two clear modes. -/
theorem wit_AttentionFlags :
    (keyPending 0xFD .byCommand).commands .s0 ∧ classFlag 2 .key = true ∧ classFlag 0xFF .key = true ∧
      classFlag (keyPending 0xFD .byCommand).attention.enables .key = false ∧
      (∀ c : AttnClass, classFlag 2 c = true → classFlag 0xFF c = true →
        (keyPending 0xFF .byCommand).attention.globalEnable = true ∧ classFlag 0xFF c = true) ∧
      (keyPending 0xFF .byStatus).answers .s0 ∧ (keyPending 0xFF .byStatus).attention.clearMode = .byStatus ∧
      (keyPending 0xFF .byStatus).commandLink = some .s0 ∧ (keyPending 0xFF .byStatus).answers .s1 ∧
      (keyPending 0xFF .byStatus).commandLink ≠ some .s1 :=
  ⟨commands_of rfl (by decide) rfl, by decide, by decide, by decide, fun c _ h => ⟨rfl, h⟩,
    answers_of rfl (by decide) rfl, by decide, by decide, answers_of rfl (by decide) rfl, by decide⟩

/-- The layout's own conditions: a point on the shelf and none, a pair held and settings staged and neither. -/
theorem wit_AttentionFlags_layout :
    let s : State := { busy with heldFlood := some ⟨4095, 4094⟩, staged := some ⟨200, 200, 100, 15⟩ }
    (8, pointIn (.shelved 900 1) true) ∈ s.points ∧ quiet.points = [] ∧ s.heldFlood = some ⟨4095, 4094⟩ ∧
      s.staged = some ⟨200, 200, 100, 15⟩ ∧ busy.heldFlood = none ∧ busy.staged = none := by decide

/-- An ordinary reply. -/
def reply : OutFrame := { role := .reply, type := 160, tag := 1, body := [0, 0] }

/-- A state whose link S0 is as given. -/
def linked (s : State) (l : SupLink) : State := { s with links := { s.links with s0 := l } }

/-- A notice on an idle link, with classes to tell and without; a frame sent whole with a notice, and with one waiting. -/
theorem wit_LinkSends :
    let idle : SupLink := { receiver := .hunting, sending := none, waiting := [], notice := true }
    let sends : SupLink := { receiver := .hunting, sending := some reply, waiting := [reply], notice := true }
    (linked busy idle).works = true ∧ ((linked busy idle).link .s0).notice = true ∧
      ((linked busy idle).link .s0).sending = none ∧ (linked (keyPending 0xFF .byCommand) idle).noticeClasses ≠ 0 ∧
      (linked busy idle).noticeClasses = 0 ∧ ((linked busy idle).link .s0).waiting = [] ∧
      ((linked busy sends).link .s0).sending = some reply ∧ reply.role ≠ .resetReply ∧
      (linked (keyPending 0xFF .byCommand) sends).noticeClasses ≠ 0 ∧ (busy.link .s0).notice = false := by decide

/-- Queries on the link that is not the command link; a lawful journal of two entries. -/
theorem wit_QueriesAnswered :
    busy.answers .s1 ∧ 65535 < 65536 ∧ 255 < 256 ∧
      (enter { kind := .timeSet } (enter { kind := .pulse } busy)).JournalLawful ∧
      (enter { kind := .timeSet } (enter { kind := .pulse } busy)).journal ≠ [] ∧
      1 < (enter { kind := .timeSet } (enter { kind := .pulse } busy)).journal.length ∧
      busy.point 5 = some (pointIn (.unack 540) true) ∧ (pointIn (.unack 540) true).Lawful :=
  ⟨busy_answers, by decide, by decide, ⟨by decide, by decide⟩, by decide, by decide, busy_5, busy_lawful busy_5⟩

/-- A from-sequence of 0 lies behind a journal of two entries; the reply layouts' own conditions. -/
theorem wit_QueriesAnswered_layouts :
    let s := enter { kind := .timeSet } (enter { kind := .pulse } busy)
    s.journal.length ≤ ((0 : Word32) - (s.nextSeq - BitVec.ofNat 32 s.journal.length)).toNat ∧
      2147483648 ≤ ((0 : Word32) - (s.nextSeq - 1)).toNat ∧ busy.point 1023 = none ∧
      (busy.attentionList (.desk .d0)).length ≤ 1024 ∧ (opening.carried .d0).length ≤ 32 ∧
      tableWf busy.owners = true ∧ busy.operator 0 = some (operatorRecord 100 .operator 7) ∧ busy.operator 63 = none ∧
      busy.whereSignedOn 1 = some (.d0, .a) ∧ busy.whereSignedOn 0 = none ∧ scheduleOk busy.schedule = true ∧
      busy.mill = none ∧ (clocked 9 50398).mill = some ⟨⟨9, 50398⟩, ⟨9, 21600⟩⟩ := by decide

/-! ### Witnesses: settings and the store -/

/-- One start and four, with nine bytes and none beyond them; a flood-off value that equals the clamped flood-on value, and one below it. -/
theorem wit_SettingsReplaced :
    busy.commands .s0 ∧ scheduleOk [0] = true ∧ (List.replicate 9 (255 : Byte)).length = 3 * (4 - [0].length) ∧
      scheduleOk [0, 1, 2, 86399] = true ∧ ([] : List Byte).length = 3 * (4 - [0, 1, 2, 86399].length) ∧ 255 < 256 ∧
      max 16 (min 4095 65535) ≤ 4095 ∧ 4094 < max 16 (min 4095 65535) :=
  ⟨busy_commands, by decide⟩

/-- A desk in service and one out of it; another supervisor desk, and none; a handover, and keys signed on in both
slots, as the desk goes out of service. -/
theorem wit_DeskConfigured :
    busy.commands .s0 ∧ (busy.unit .d0).state ≠ .outOfService ∧
      (∃ e, ({ busy with supervisor := some .d1 } : State).supervisor = some e ∧ e ≠ .d0) ∧
      (∀ e, busy.supervisor = some e → e = .d0) ∧ 7 ≤ 7 ∧ 255 < 256 ∧ tableWf busy.owners = true ∧
      ((slots .outOfService Slot.atReset (seated .unpowered)).unit .d0).state = .outOfService ∧
      (opening.unit .d0).state.handover? = some shift ∧ busy.inHandover .d0 = false ∧ busy.owner 1 = some .d0 ∧
      (accompanied 0).signedOn .d0 .a = some 1 ∧ (accompanied 0).signedOn .d0 .b = some 0 ∧
      (review.unit .d0).state = .handoverReview .a shift 0 ∧ review.resultAt .d0 .b = some (.incoming 0) :=
  ⟨busy_commands, by decide, ⟨.d1, by decide, by decide⟩, fun e h => by simp [busy, part, State.reset] at h, by decide⟩

/-- An image with no points. -/
def emptyImage : Image :=
  { points := [], operators := []
    desks := PerDesk.of (fun _ => { inService := true, home := 0, tone := 0, hornHold := 2 }), supervisor := none
    flash := ⟨100, 50, 50, 0⟩, schedule := [0], markMode := .strict, timeHold := false, limits := State.reset.limits
    clearMode := .byCommand }

theorem wit_StoreSaves :
    busy.commands .s0 ∧ busy.store = .invalid ∧ ({ busy with store := .writing emptyImage } : State).commands .s0 ∧
      ({ busy with store := .writing emptyImage } : State).works = true :=
  ⟨busy_commands, by decide, commands_of rfl (by decide) rfl, by decide⟩

/-! ### Witnesses: supervisory links, resets and start-up -/

/-- A body of 120 bytes. -/
theorem wit_FrameReceived :
    (List.replicate 120 (7 : Byte)).length ≤ 120 ∧ busy.phase = .running ∧ (busy.link .s0).receiver = .hunting := by
  simp [busy, part, State.link, PerLink.get, State.reset]

theorem wit_DamagedFrameDropped :
    busy.works = true ∧ (busy.link .s0).receiver = .hunting ∧ ([] : List Byte).length ≤ 120 ∧
      [(0 : Byte), 0] ≠ checkBytes (BitVec.ofNat 8 0 :: 20 :: 7 :: []) ∧ 120 < (121 : Byte).toNat ∧
      (0xA4 : Byte) ≠ 0xA5 := by decide

/-- Bodies one byte short and one too long; the other link. -/
theorem wit_BadRequestsAnswered :
    busy.commands .s0 ∧ commandType 1 = true ∧ [0, 0, 0, 0, (0 : Byte)].length ≠ requestLength 1 ∧
      [(0 : Byte)].length ≠ requestLength 22 ∧ busy.answers .s1 ∧ queryType 38 = true ∧
      [(0 : Byte)].length ≠ requestLength 38 ∧ acceptedType 24 = false ∧ acceptedType 39 = false ∧
      busy.canTake .s1 ∧ busy.commandLink = some .s0 ∧ commandType 23 = true :=
  ⟨busy_commands, by decide, by decide, by decide, busy_answers, by decide, by decide, by decide, by decide,
    ⟨rfl, by decide⟩, by decide⟩

/-- A SET_POINT with each of its values one past its range. -/
theorem wit_BadRequestsAnswered_point :
    outOfRange 1 [4, 0, 0, 1, 0, 0] ∧ outOfRange 1 [0, 5, 64, 1, 0, 0] ∧ outOfRange 1 [0, 5, 0, 0, 0, 0] ∧
      outOfRange 1 [0, 5, 0, 5, 0, 0] ∧ outOfRange 1 [0, 5, 0, 1, 0, 2] :=
  ⟨.inl (by decide), .inr (.inl (by decide)), .inr (.inr (.inl (by decide))), .inr (.inr (.inr (.inl (by decide)))),
    .inr (.inr (.inr (.inr (by decide))))⟩

/-- Tags, areas, indexes, desks, lists, parts, classes and modes one past their ranges, a desk code of 254. -/
theorem wit_BadRequestsAnswered_codes :
    outOfRange 2 [4, 0] ∧ outOfRange 33 [255, 255] ∧ outOfRange 3 [64, 255] ∧ outOfRange 3 [63, 254] ∧
      outOfRange 5 [64] ∧ outOfRange 6 [6, 0, 0] ∧ outOfRange 9 [5, 4, 0] ∧ outOfRange 7 [6] ∧
      outOfRange 14 [0, 0, 1, 0x51, 0x80] ∧ outOfRange 19 [0, 2, 0] ∧ outOfRange 19 [0, 0, 2] ∧
      outOfRange 34 [7, 0, 0, 1] ∧ outOfRange 36 [6, 0] ∧ outOfRange 36 [5, 2] := by
  simp [outOfRange, field, slice, num]

/-- A SET_OPERATOR's body: index, key's last byte, role, the two presence marks and days, locked, display tag. -/
def operatorBody (i key role : Byte) (valid : List Byte) (locked len first : Byte) : List Byte :=
  [i, 0, 0, key, 1, role] ++ areaSetBytes 0 ++ valid ++ [locked, len, first] ++ List.replicate 11 0

theorem wit_BadRequestsAnswered_operator :
    let always : List Byte := List.replicate 6 0
    (operatorBody 64 1 0 always 0 255 0).length = requestLength 4 ∧
      outOfRange 4 (operatorBody 64 1 0 always 0 255 0) ∧ outOfRange 4 (operatorBody 63 0 0 always 0 255 0) ∧
      outOfRange 4 (operatorBody 63 1 4 always 0 255 0) ∧ outOfRange 4 (operatorBody 63 1 3 [1, 0, 8, 1, 0, 7] 0 255 0) ∧
      outOfRange 4 (operatorBody 63 1 3 always 2 255 0) ∧ outOfRange 4 (operatorBody 63 1 3 always 0 13 65) ∧
      outOfRange 4 (operatorBody 63 1 3 always 0 1 31) ∧ outOfRange 4 (operatorBody 63 1 3 always 0 1 127) := by
  simp [outOfRange, operatorBody, field, slice, num, areaSetBytes, requestLength]

/-- No start, five starts, a start of 86400, two equal starts, and codes of 2. -/
theorem wit_BadRequestsAnswered_settings :
    let starts (n : Byte) (a b : List Byte) (mode hold : Byte) : List Byte :=
      n :: (a ++ b ++ List.replicate 6 0 ++ [mode, hold])
    (starts 1 [0, 0, 0] [0, 0, 0] 0 0).length = requestLength 15 ∧
      outOfRange 15 (starts 0 [0, 0, 0] [0, 0, 0] 0 0) ∧ outOfRange 15 (starts 5 [0, 0, 0] [0, 0, 1] 0 0) ∧
      outOfRange 15 (starts 1 [1, 0x51, 0x80] [0, 0, 0] 0 0) ∧ outOfRange 15 (starts 2 [0, 0, 1] [0, 0, 1] 0 0) ∧
      outOfRange 15 (starts 1 [0, 0, 0] [0, 0, 0] 2 0) ∧ outOfRange 15 (starts 1 [0, 0, 0] [0, 0, 0] 0 2) ∧
      (let sent (d serve sup tone : Byte) : List Byte := [d, serve, sup] ++ areaSetBytes 0 ++ [tone, 1]
       (sent 6 0 0 0).length = requestLength 16 ∧ outOfRange 16 (sent 6 0 0 0) ∧ outOfRange 16 (sent 5 2 0 7) ∧
         outOfRange 16 (sent 5 1 2 7) ∧ outOfRange 16 (sent 5 1 1 8)) := by
  simp [outOfRange, field, slice, num, areaSetBytes, requestLength]

/-- A link with four taken frames, and with a fifth answered BUSY. -/
def full (more : List OutFrame) : State :=
  linked busy { receiver := .hunting, sending := some reply, waiting := [reply, reply, reply] ++ more, notice := false }

/-- Four frames taken on S0, with no BUSY reply unsent, outside LOCAL and in LOCAL on the command link, and with one; the
start-up hold. -/
theorem wit_FifthFrame :
    busy.phase = .running ∧ 4 ≤ ((full []).link .s0).taken ∧ ((full []).link .s0).busyCount = 0 ∧
      (∀ x, (full []).command ≠ .lost .s0 x) ∧
      ({ full [] with command := .lost .s0 500 } : State).phase = .running ∧
      4 ≤ (({ full [] with command := .lost .s0 500 } : State).link .s0).taken ∧
      (({ full [] with command := .lost .s0 500 } : State).link .s0).busyCount = 0 ∧
      0 < ((full [{ reply with role := .busyReply }]).link .s0).busyCount ∧
      4 ≤ ((full [{ reply with role := .busyReply }]).link .s0).taken ∧ State.reset.phase ≠ .running :=
  ⟨by decide, by decide, by decide, fun x h => (by cases h), by decide⟩

/-- `busy` with the command-link latch as given. -/
def latch (c : CommandState) : State := { busy with command := c }

/-- The states of the latch, the command link in LOCAL among them, and the first command of a part with none. -/
theorem wit_CommandLinkTaken :
    (latch .unlatched).canTake .s0 ∧ (latch .unlatched).command = .unlatched ∧
      (latch (.lost .s1 500)).command = .lost .s1 500 ∧ Link.s1 ≠ .s0 ∧
      (latch (.lost .s0 500)).command = .lost .s0 500 ∧
      (latch (.latched .s0 700)).command = .latched .s0 700 ∧
      (latch (.latched .s1 700)).command = .latched .s1 700 ∧ commandType 1 = true :=
  ⟨⟨by decide, by decide⟩, by decide⟩

/-- A first command that latches, and a command in LOCAL, of a type that may change routing and of one that may not. -/
theorem wit_CommandLinkTaken_carried_out :
    (latch .unlatched).canTake .s0 ∧ (latch (.lost .s0 500)).canTake .s0 ∧
      (latch .unlatched).command = .unlatched ∧ (latch (.lost .s0 500)).command = .lost .s0 500 ∧
      commandType 3 = true ∧ commandType 6 = true ∧ (3 : Byte) ∈ ([3, 4, 5, 16] : List Byte) ∧
      (6 : Byte) ∉ ([3, 4, 5, 16] : List Byte) ∧ tableWf (latch .unlatched).owners = true ∧
      (latch .unlatched).CarriedLawful :=
  ⟨⟨by decide, by decide⟩, ⟨by decide, by decide⟩, by decide, by decide, by decide, by decide, by decide, by decide,
    by decide, fun d => by cases d <;> decide⟩

theorem wit_LinkLostAndBack :
    ({ busy with runSeconds := 700 } : State).works = true ∧
      ({ busy with runSeconds := 700 } : State).command = .latched .s0 700 ∧
      ({ busy with command := .lost .s0 500 } : State).canTake .s0 ∧
      ({ busy with command := .lost .s0 500 } : State).command = .lost .s0 500 :=
  ⟨by decide, rfl, ⟨rfl, by decide⟩, rfl⟩

/-- A link that is sending the reply of an accepted RESET. -/
def resetting : SupLink :=
  { receiver := .hunting, sending := some { reply with role := .resetReply }, waiting := [], notice := false }

/-- A part held in reset. -/
def inReset : State := { busy with phase := .inReset .resetPin, resetInput := true }

/-- Running, the reply of an accepted RESET going out, the hold, and held in reset. -/
theorem wit_Resets :
    busy.commands .s0 ∧ ((linked busy resetting).link .s0).sending = some { reply with role := .resetReply } ∧
      ({ reply with role := .resetReply } : OutFrame).role = .resetReply ∧
      (linked busy resetting).works = true ∧ State.reset.phase = .hold .powerOn ∧
      inReset.phase = .inReset .resetPin ∧ inReset.resetInput = true ∧ busy.resetInput = false ∧ busy.phase = .running :=
  ⟨busy_commands, by decide⟩

set_option maxRecDepth 8000 in
/-- R187, R199: the notices wait for HELLO when STORE_INVALID was journalled, and not with a good image. -/
theorem test_start_up_notices :
    (∀ l ∈ [Link.s0, .s1], ((stateOf (exec .startupHoldEnd State.reset)).link l).notice = true) ∧
      ∀ l ∈ [Link.s0, .s1],
        ((stateOf (exec .startupHoldEnd { State.reset with image := some emptyImage })).link l).notice = false := by decide

/-- The hold with an image that fails its check, with a good one, and with a write cut off by the reset. -/
theorem wit_StartUp :
    State.reset.phase = .hold .powerOn ∧ State.reset.image = none ∧
      ({ State.reset with image := some emptyImage } : State).image = some emptyImage ∧
      (∀ i, State.reset.store ≠ .writing i) ∧
      ({ State.reset with store := .writing emptyImage } : State).store = .writing emptyImage :=
  ⟨rfl, rfl, rfl, fun i h => (by cases h), rfl⟩

/-! ### Numbers the spec works out -/

/-- What the newest entry of an outcome's journal says. -/
def lastEntry (o : Host.Outcome State Fault Refusal) : Option Draft := (stateOf o).journal.getLast?.map (·.what)

/-- The body of the frame S0 sends after an outcome. -/
def answer (o : Host.Outcome State Fault Refusal) : Option (List Byte) :=
  ((stateOf o).link .s0).sending.map (·.body)

/-- The example of R192. -/
theorem test_check_bytes : checkBytes [2, 20, 7, 0, 200] = [229, 56] := by decide

/-- The example of R192 as a frame the part sends: start byte, length, type, tag, body and the two sums. -/
theorem test_frame_sent :
    (linked busy { receiver := .hunting, waiting := [], notice := false
                   sending := some { role := .reply, type := 20, tag := 7, body := [0, 200] } }).onWire .s0 =
      [0xA5, 2, 20, 7, 0, 200, 229, 56] := by decide

/-- The example of R51: base 3, step 10. -/
theorem test_escalation :
    escalated 3 10 (9 * 60 + 59) = 3 ∧ escalated 3 10 (10 * 60) = 2 ∧ escalated 3 10 (19 * 60 + 59) = 2 ∧
      escalated 3 10 (20 * 60) = 1 := by decide

/-- Chapter 08, "a short cycle": the first SET_FLASH is clamped to 75, 75, 37, 4. -/
theorem test_flash_clamped : answer (exec (.setFlash .s0 1 [75, 80, 60, 4]) busy) = some [0, 0, 75, 75, 37, 4] := by
  decide

/-- Chapter 08, "a short cycle": the positions the patterns light. -/
theorem test_patterns :
    let f : Flash := ⟨75, 30, 37, 4⟩
    (List.range 75).filter (fun q => Pattern.lit f q .altFirst) = (List.range 33).map (· + 4) ∧
      (List.range 75).filter (fun q => Pattern.lit f q .altSecond) = (List.range 33).map (· + 41) ∧
      (List.range 75).filter (fun q => Pattern.lit f q .flash) = List.range 30 := by decide

/-- Chapter 03, "a desk floods and recovers", at 240: figure 133 and sum 30 give 177 and the flag, with FLOOD_ON (177,
160). -/
theorem test_flood_sets :
    let o := exec .loadUpdate { loaded 30 133 false with tick := ⟨true, true, true⟩ }
    ((stateOf o).loadOf (.desk .d0) = ⟨0, 177, true⟩) ∧
      lastEntry o = some { kind := .floodOn, desk := some .d0, d1 := some 177, d2 := some 160 } := by decide

/-- Chapter 03, the same, at 540: figure 105 falls to 92 and the flag clears, with FLOOD_OFF (92, 96). -/
theorem test_flood_clears :
    let o := exec .loadUpdate { loaded 0 105 true with tick := ⟨true, true, true⟩ }
    ((stateOf o).loadOf (.desk .d0) = ⟨0, 92, false⟩) ∧
      lastEntry o = some { kind := .floodOff, desk := some .d0, d1 := some 92, d2 := some 96 } := by decide

/-- Chapter 03, "escalation in one list": the list at 7150. -/
theorem test_list_order :
    let p (st : PointState) (active : Bool) (base step : Nat) : Point :=
      { pointIn st active with base := base, step := step, effective := base }
    let s := { part attended [(101, p (.unack 6900) true 2 5), (102, p (.unack 7000) true 1 0),
      (103, p (.rtnUnack 6560) false 3 10), (104, p (.acked 6000) true 1 0), (105, p (.unack 7100) true 2 0)] with
        runSeconds := 7150 }
    (s.attentionList (.desk .d0)).map (·.1) = [102, 101, 105, 103, 104] := by decide

/-- R166: with the factory schedule day 812, second 30000 is in shift (812, 0), day 813, second 3000 in (812, 2). -/
theorem test_current_shift :
    currentShift [21600, 50400, 79200] ⟨812, 30000⟩ = (812, 0) ∧
      currentShift [21600, 50400, 79200] ⟨813, 3000⟩ = (812, 2) := by decide

/-- Chapter 09, "marks through an evening", at 510: a second to 79200 fires start 2. -/
theorem test_shift_start :
    lastEntry (exec .secondEvent { busy with mill := some ⟨⟨812, 79199⟩, ⟨812, 50400⟩⟩ }) =
      some { kind := .shiftStart, d1 := some 2, d2 := some 1 } := by decide

/-- Chapter 09, the same, at 900: a mark 3 seconds back in STRICT is false, TIME_FALSE (516, 3). -/
theorem test_false_mark :
    lastEntry (exec (.timeMark .s0 1 (be 2 812 ++ be 3 79617)) { busy with mill := some ⟨⟨812, 79620⟩, ⟨812, 79200⟩⟩ }) =
      some { kind := .timeFalse, d1 := some 516, d2 := some 3 } := by decide +kernel

/-- Chapter 09, the same, at 1000: a step forward of 28287 seconds, TIME_STEP (3, 28287), then SHIFT_START (0, 1). -/
theorem test_step_forward :
    let o := exec (.timeMark .s0 1 (be 2 813 ++ be 3 21605))
      { busy with mill := some ⟨⟨812, 79718⟩, ⟨812, 79200⟩⟩, markMode := .follow }
    (stateOf o).journal.map (·.what) =
        [{ kind := .timeStep, d1 := some 3, d2 := some 28287 }, { kind := .shiftStart, d1 := some 0, d2 := some 1 }] ∧
      (stateOf o).mill = some ⟨⟨813, 21605⟩, ⟨813, 21600⟩⟩ := by decide +kernel

/-- Chapter 09, the same, at 1100: a step back of 28305 seconds, TIME_STEP (515, 28305). -/
theorem test_step_back :
    lastEntry (exec (.timeMark .s0 1 (be 2 812 ++ be 3 79800))
      { busy with mill := some ⟨⟨813, 21705⟩, ⟨813, 21600⟩⟩, markMode := .follow }) =
        some { kind := .timeStep, d1 := some 515, d2 := some 28305 } := by decide +kernel

/-- Chapter 09, the same, at 540: the pulse at 79230 moves 30 seconds forward, PULSE (30, 1). -/
theorem test_pulse :
    let o := exec .minutePulse { busy with mill := some ⟨⟨812, 79230⟩, ⟨812, 79200⟩⟩ }
    (stateOf o).millNow = some ⟨812, 79260⟩ ∧ lastEntry o = some { kind := .pulse, d1 := some 30, d2 := some 1 } := by
  decide

/-- Chapter 04, "a key with a weak battery", at 366: key 70401 in slot B is KEY_IN (257, 4865). -/
theorem test_key_in :
    let r : SixBytes := { b0 := 1, b1 := 0x13, b2 := 1, b3 := 3, b4 := 1, b5 := 0 - (1 + 0x13 + 1 + 3 + 1) }
    recordKey r = 70401 ∧
      ((stateOf (exec (.readComplete .d0 .b r) (reads .vacant Slot.atReset))).journal.head?.map (·.what)) =
        some { kind := .keyIn, desk := some .d0, d1 := some 257, d2 := some 4865 } := by decide

/-- Chapter 01, "one point through an upset", at 5400: SET_POINT to base priority 3 in ACKED gives effective 2. -/
theorem test_reprioritised :
    let p : Point := { pointIn (.acked 4320) true with step := 15, effective := 1 }
    ((stateOf (exec (.setPoint .s0 1 [1, 156, 1, 3, 15, 1]) { part attended [(412, p)] with runSeconds := 5400 })).point
      412).map (·.effective) = some 2 := by decide

/-- R55: in LOCAL the frame that revokes the outgoing operator also leaves LOCAL, and the point of an unowned area, base
priority 2, goes to the room; its forced re-alarm has added its weight to D0, where the handover was. -/
theorem test_takeover_leaving_local :
    let o := exec (.clearOperator .s0 1 [1]) { review with command := .lost .s0 500, owners := [] }
    ((stateOf o).loadOf (.desk .d0)).w = 2 ∧ ((stateOf o).loadOf .room).w = 0 ∧ (stateOf o).target 1 = .room ∧
      ((stateOf o).point 6).map (·.state) = some (.unack 480) := by decide

/-- Chapter 11, "a change of server", at 22: LINK_LOST (0, 10). -/
theorem test_link_lost :
    lastEntry (exec .linkLost { busy with runSeconds := 700 }) =
      some { kind := .linkLost, d1 := some 0, d2 := some 10 } := by decide

/-- Chapter 11, the same, at 33: TAKE_COMMAND on the other link outside LOCAL is REFUSED(NOT_LOCAL). -/
theorem test_take_refused :
    answer (exec (.takeCommand .s0 1 []) { busy with command := .latched .s1 700 }) = some [4, 13] := by decide

/-- Chapter 08, "sharing the horn", at 4: D1's count reaches its hold of 3 and the horn passes to D4. -/
theorem test_horn_passes :
    let s := { busy with
      position := 99, owners := [(1, .d1), (2, .d4)]
      desks := { busy.desks with d1 := { DeskUnit.atReset 1 with hornHold := 3 }, d4 := DeskUnit.atReset 4 }
      points := [(5, pointIn (.unack 540) true), (6, { pointIn (.unack 540) true with area := 2 }),
        (7, { pointIn (.unack 540) true with area := 3 })]
      horn := { owner := some (.desk .d1), count := 2
                requests := ⟨⟨false, true, false, false, true, false⟩, false⟩, output := some 1 } }
    (stateOf (exec .cycleStart s)).horn.owner = some (.desk .d4) ∧
      (stateOf (exec .cycleStart s)).horn.output = some 4 := by decide

/-- R198: the reset input asserted, the supply coming up, and the input released: the hold has the last cause. -/
theorem test_reset_overlap :
    let held := stateOf (exec .powerOn (stateOf (exec .resetPin busy)))
    held.phase = .inReset .powerOn ∧ (stateOf (exec .startupHoldEnd held)).phase = .inReset .powerOn ∧
      (stateOf (exec .resetEnd held)).phase = .hold .powerOn := by decide

set_option maxRecDepth 8000 in
/-- R180, R199: RESTART is the first entry, and STORE_INVALID the second when the image fails its check. -/
theorem test_start_up :
    ((stateOf (exec .startupHoldEnd State.reset)).journal.map (fun e => (e.seq, e.what))) =
      [(1, { kind := .restart, d1 := some 1 }), (2, { kind := .storeInvalid })] := by decide

end Sys2Proof.Tests
end

section
/-! PROOFS. SET_POINT and CLEAR_POINT on the command link (R17 to R20, R24): what the configuration of a point does to
its record, then the statements O9, O10 and O12. -/

namespace Sys2Proof.Machine

/-! ### The point table, read -/

@[simp] theorem State.point_putPoint_self (s : State) (t : Tag) (p : Point) : (s.putPoint t p).point t = some p := by
  simp [State.point, State.putPoint]

@[simp] theorem listening_point (l : Link) (s : State) (t : Tag) : (s.listening l).point t = s.point t := by
  simp [State.point]

/-! ### Standing in a list -/

/-- Where a point stands depends on its state and on whether it is record-only (R6). -/
theorem standing_congr {p q : Point} (hst : q.state = p.state) (hb : q.base ≤ 3 ↔ p.base ≤ 3) :
    q.standing = p.standing := by
  simp only [Point.standing, hst, hb]

theorem unlisted_eq_self {p : Point} (h : p.silenced = true → p.standing.isSome = true) : p.unlisted = p := by
  by_cases hs : p.standing.isSome = true
  · simp [Point.unlisted, hs]
  · have hsil : p.silenced = false := by simpa using mt h hs
    simp [Point.unlisted, hs, ← hsil]

theorem Point.Lawful.standing_of_silenced {p : Point} (h : p.Lawful) : p.silenced = true → p.standing.isSome = true := by
  obtain ⟨-, -, -, -, -, -, hsil, -⟩ := h
  exact hsil

/-! ### Changes of a record that keep its state -/

/-- A change that keeps a point's state and takes it out of no list is the writing of its record alone (R10, R21). -/
theorem changePoint_of_kept {old new : Point} (hst : new.state = old.state)
    (hstand : old.standing.isSome = true → new.standing.isSome = true) (tag : Tag) (s : State) :
    changePoint tag old new s = s.putPoint tag new.unlisted := by
  have hstays : (old.standing.isSome && new.standing.isNone) = false :=
    Bool.and_eq_false_imp.2 fun h => by rw [← Option.not_isSome, hstand h]; rfl
  simp [changePoint, changePointAt, hst, hstays]

/-- A point whose area is given again is placed nowhere else (R23). -/
theorem moveArea_same {s : State} {t : Tag} {p : Point} (h : s.point t = some p) :
    moveArea t p.area s = s.putPoint t p := by
  simp [moveArea, h]

/-- A change of neither the state nor the area that leaves a point standing where it stood writes its record alone. -/
theorem moveArea_changePoint_of_kept {old new : Point} {a : Area} (ha : new.area = a) (hst : new.state = old.state)
    (hstand : new.standing = old.standing) (hsil : new.silenced = true → old.standing.isSome = true) (tag : Tag)
    (s : State) : moveArea tag a (changePoint tag old new s) = s.putPoint tag new := by
  have hlisted : new.unlisted = new := unlisted_eq_self (by rw [hstand]; exact hsil)
  rw [changePoint_of_kept hst (by rw [hstand]; exact id), hlisted, ← ha,
    moveArea_same (State.point_putPoint_self s tag new), State.putPoint_put]

/-! ### Base priority and step -/

/-- Base priority or step changed within 1 to 3: the effective priority alone follows (R20). -/
theorem withBase_of_changed {p : Point} {base step : Nat} (hp : p.base ≤ 3) (hb : base ≤ 3)
    (hne : base ≠ p.base ∨ step ≠ p.step) (now : Word32) :
    p.withBase now base step = { p with base := base, step := step, effective := p.reprioritised now base step } := by
  have hchanged : ¬(base = p.base ∧ step = p.step) := fun ⟨h1, h2⟩ => hne.elim (· h1) (· h2)
  simp only [Point.withBase, hp, hb, and_self, if_true, hchanged, if_false]

/-- An unacknowledged point takes the escalation formula of its age (R20, R51). -/
theorem reprioritised_unacknowledged {p : Point} {τ : Word32} (h : p.state = .unack τ ∨ p.state = .rtnUnack τ)
    (now : Word32) (base step : Nat) :
    p.reprioritised now base step = if step = 0 then base else max 1 (base - (now - τ).toNat / 60 / step) := by
  rcases h with h | h <;> simp only [Point.reprioritised, Point.age, h] <;> rfl

theorem reprioritised_acked {p : Point} {τ : Word32} (h : p.state = .acked τ) (now : Word32) (base step : Nat) :
    p.reprioritised now base step = max 1 (base - (p.base - p.effective)) := by
  simp only [Point.reprioritised, h]

theorem reprioritised_normal {p : Point} (h : p.state = .normal) (now : Word32) (base step : Nat) :
    p.reprioritised now base step = base := by
  simp only [Point.reprioritised, h]

theorem reprioritised_shelved {p : Point} {expiry : Word32} {op : OpIndex} (h : p.state = .shelved expiry op)
    (now : Word32) (base step : Nat) : p.reprioritised now base step = base := by
  simp only [Point.reprioritised, h]

/-! ### SET_POINT -/

theorem moveArea_quiet (t : Tag) (a : Area) (s : State) : s.Quiet (moveArea t a s) := by
  simp only [moveArea]
  split
  · split
    · split
      · exact ((putPoint_quiet t _ s).trans (tellTarget_quiet _ _ _ _)).trans (takeIn_quiet _ _ _)
      · exact (putPoint_quiet t _ s).trans (tellTarget_quiet _ _ _ _)
    · exact putPoint_quiet t _ s
  · exact State.Quiet.refl s

theorem applySetPoint_quiet (t : Tag) (c : StoredPoint) (s : State) : s.Quiet (applySetPoint t c s) := by
  simp only [applySetPoint]
  split
  · exact putPoint_quiet t _ s
  · exact (changePoint_quiet t _ _ s).trans (moveArea_quiet t _ _)

theorem applySetPoint_absent {s : State} {t : Tag} (h : s.point t = none) (c : StoredPoint) :
    applySetPoint t c s = s.putPoint t (newPoint c) := by
  simp only [applySetPoint, h]

/-- Base priority or step changed within 1 to 3 and the area given again: the record is written, and nothing else is
done (R19, R20). -/
theorem applySetPoint_reprioritised {s : State} {t : Tag} {p : Point} {c : StoredPoint} (h : s.point t = some p)
    (hl : p.Lawful) (hp : p.base ≤ 3) (hb : c.base ≤ 3) (hne : c.base ≠ p.base ∨ c.step ≠ p.step)
    (ha : c.area = p.area) :
    applySetPoint t c s = s.putPoint t
      { p with origin := .configured, base := c.base, step := c.step, shelvable := c.shelvable
               effective := p.reprioritised s.runSeconds c.base c.step } := by
  simp only [applySetPoint, h, withBase_of_changed hp hb hne, ha]
  apply moveArea_changePoint_of_kept
  case ha => rfl
  case hst => rfl
  case hstand => exact standing_congr rfl (iff_of_true hb hp)
  case hsil => exact hl.standing_of_silenced

/-- A SET_POINT whose body passes its check is applied and answered OK (R17). -/
theorem exec_setPoint_applied {s : State} {l : Link} (h : s.commands l) (tag : Byte) (t : Tag) (a : Area)
    {base step : Nat} (shelvable : Bool) (h1 : 1 ≤ base) (h4 : base ≤ 4) (hstep : step ≤ 255) :
    exec (.setPoint l tag (be 2 t.val ++ [byte a.val, byte base, byte step, yesNo shelvable])) s =
      .next ((applySetPoint t { area := a, base := base, step := min 120 step, shelvable := shelvable }
        (s.listening l)).replies l 1 tag 0 0 []) := by
  have hphase (c : StoredPoint) : (applySetPoint t c (s.listening l)).phase ≠ .closing := by
    simp [(applySetPoint_quiet t c _).phase, h.1.1]
  simp only [exec, execSetPoint, takeSetPoint, readSetPoint_be t a shelvable h1 h4 hstep]
  exact congrArg _ (takeFrame_command h 1 tag _ rfl (hphase _) rfl)

/-! ### CLEAR_POINT -/

/-- CLEAR_POINT is answered as its rule serves it (R24). -/
theorem exec_clearPoint_served {s u : State} {l : Link} (h : s.commands l) (tag : Byte) {t : Tag} {a : Answer}
    {status reason : Byte} (hs : serveClearPoint t (s.listening l) = (u, a)) (hu : u.phase = s.phase)
    (ha : a.body = [status, reason]) :
    exec (.clearPoint l tag (be 2 t.val)) s = .next (u.replies l 2 tag status reason []) := by
  simp only [exec, execClearPoint, takeClearPoint, readTag_be]
  exact congrArg _ (takeFrame_command h 2 tag _ hs (by simp [hu, h.1.1]) ha)

theorem serveClearPoint_absent {s : State} {t : Tag} (h : s.point t = none) : serveClearPoint t s = (s, .ok []) := by
  simp only [serveClearPoint, h, accepted]

theorem serveClearPoint_normal {s : State} {t : Tag} {p : Point} (h : s.point t = some p) (hn : p.state = .normal) :
    serveClearPoint t s = ({ s with points := tableErase s.points t }, .ok []) := by
  simp only [serveClearPoint, h, hn, if_true, accepted]

theorem serveClearPoint_refused {s : State} {t : Tag} {p : Point} (h : s.point t = some p) (hn : p.state ≠ .normal) :
    serveClearPoint t s = (s, .refused .wrongState) := by
  simp only [serveClearPoint, h, hn, if_false]

/-! ### The statements -/

/-- Settles O10: within base priorities 1 to 3 the point keeps its state and its standing, so SET_POINT writes its
record and tells nobody; the effective priority then follows by cases of the state. -/
theorem setPointReprioritises : Obligations.SetPointReprioritises := by
  intro s l tag t p base sent shelvable hcom hpoint hl hp h1 h3 hsent step hne
  rw [exec_setPoint_applied hcom tag t p.area shelvable h1 (by omega) hsent,
    applySetPoint_reprioritised (by simpa using hpoint) hl hp h3 hne rfl, listening_runSeconds]
  cases hst : p.state with
  | unack τ => rw [reprioritised_unacknowledged (.inl hst)]
  | rtnUnack τ => rw [reprioritised_unacknowledged (.inr hst)]
  | acked τ => rw [reprioritised_acked hst]
  | normal => rw [reprioritised_normal hst]
  | shelved expiry op => rw [reprioritised_shelved hst]

/-- Settles O9: an absent slot takes the new record whole. -/
theorem setPointCreates : Obligations.SetPointCreates := by
  intro s l tag t a base step shelvable hcom h1 h4 hstep hnone
  rw [exec_setPoint_applied hcom tag t a shelvable h1 h4 hstep, applySetPoint_absent (by simpa using hnone)]
  rfl

/-- Settles O12, by the three cases of CLEAR_POINT's rule. -/
theorem clearPointRemoves : Obligations.ClearPointRemoves := by
  intro s l tag t hcom
  have hkept : (s.listening l).point t = s.point t := listening_point l s t
  refine ⟨fun p hpoint hnormal => ?_, fun p hpoint hother => ?_, fun hnone => ?_⟩
  · rw [← listening_points l s]
    exact exec_clearPoint_served hcom tag (serveClearPoint_normal (hkept.trans hpoint) hnormal) (listening_phase l s) rfl
  · exact exec_clearPoint_served hcom tag (serveClearPoint_refused (hkept.trans hpoint) hother) (listening_phase l s) rfl
  · exact exec_clearPoint_served hcom tag (serveClearPoint_absent (hkept.trans hnone)) (listening_phase l s) rfl

end Sys2Proof.Machine
end

section
/-! PROOFS. The routing target of an area (R36): one equation for each of the four orders, then the statement O16. -/

namespace Sys2Proof.Machine

/-! ### The desks, ascending -/

theorem allDesks_getElem_code (d : Desk) : ∃ h : d.code < allDesks.length, allDesks[d.code] = d := by
  cases d <;> exact ⟨by decide, rfl⟩

theorem code_allDesks_getElem : ∀ (i : Nat) (h : i < allDesks.length), allDesks[i].code = i := by decide

/-- A search of the desks finds the lowest-numbered one that passes, because each desk stands at its own code. -/
theorem allDesks_find?_lowest {p : Desk → Bool} {d : Desk} (hd : p d = true)
    (hlow : ∀ e : Desk, e.code < d.code → p e = false) : allDesks.find? p = some d := by
  obtain ⟨hlen, hget⟩ := allDesks_getElem_code d
  refine List.find?_eq_some_iff_getElem.2 ⟨hd, d.code, hlen, hget, fun j hj => ?_⟩
  have hcode : allDesks[j].code = j := code_allDesks_getElem j (hj.trans hlen)
  simp [hlow allDesks[j] (by rwa [hcode])]

/-! ### Which desks have a holder -/

theorem DeskState.hasHolder_iff (st : DeskState) : st.hasHolder = true ↔
    (∃ k, st = .attended k) ∨ (∃ k h, st = .handoverOpen k h) ∨ ∃ k h inc, st = .handoverReview k h inc := by
  cases st <;> simp [DeskState.hasHolder]

/-! ### The orders of the routing target -/

theorem target_of_owner {s : State} {a : Area} {d : Desk} (h : s.owner a = some d) : s.target a = .desk d := by
  simp only [State.target, h]

theorem target_of_unowned {s : State} {a : Area} (h : s.owner a = none) : s.target a = s.unownedTarget := by
  simp only [State.target, h]

theorem unownedTarget_of_supervisor {s : State} {d : Desk} (hsup : s.supervisor = some d)
    (hd : s.hasHolder d = true) : s.unownedTarget = .desk d := by
  have hfilter : s.supervisor.filter s.hasHolder = some d := Option.filter_eq_some_iff.2 ⟨hsup, hd⟩
  simp only [State.unownedTarget, hfilter]

section NoSupervisor
variable {s : State} (hsup : ∀ d, s.supervisor = some d → s.hasHolder d = false)
include hsup

theorem supervisor_filter_hasHolder : s.supervisor.filter s.hasHolder = none :=
  Option.filter_eq_none_iff.2 fun d hd => by simp [hsup d hd]

theorem unownedTarget_of_lowest {d : Desk} (hloc : s.isLocal = true) (hd : s.hasHolder d = true)
    (hlow : ∀ e : Desk, e.code < d.code → s.hasHolder e = false) : s.unownedTarget = .desk d := by
  have hfind : allDesks.find? s.hasHolder = some d := allDesks_find?_lowest hd hlow
  simp only [State.unownedTarget, supervisor_filter_hasHolder hsup, hloc, Bool.true_and, hfind]

theorem unownedTarget_of_none (h : s.isLocal = false ∨ ∀ d, s.hasHolder d = false) : s.unownedTarget = .room := by
  have hnone (d : Desk) : (s.isLocal && s.hasHolder d) = false := by
    rcases h with hloc | hno
    · simp [hloc]
    · simp [hno d]
  have hfind : allDesks.find? (fun d => s.isLocal && s.hasHolder d) = none :=
    List.find?_eq_none.2 fun d _ => by simp [hnone d]
  simp only [State.unownedTarget, supervisor_filter_hasHolder hsup, hfind]

end NoSupervisor

/-! ### The statement -/

/-- Settles O16, order by order. -/
theorem routingTarget : Obligations.RoutingTarget := by
  refine ⟨fun s d => DeskState.hasHolder_iff (s.unit d).state, fun s a =>
    ⟨fun d howner => target_of_owner howner, fun hnone => ?_⟩⟩
  rw [target_of_unowned hnone]
  exact ⟨fun d hsup hd => unownedTarget_of_supervisor hsup hd, fun hsup =>
    ⟨fun d hloc hd hlow => unownedTarget_of_lowest hsup hloc hd hlow, unownedTarget_of_none hsup⟩⟩

end Sys2Proof.Machine
end

section
/-! PROOFS. What a step can do, said once: the operations that a command is made of, and that every step is a chain of
them. The laws that every step keeps are then proved operation by operation. -/

namespace Sys2Proof.Machine

/-! ### The operations -/

/-- An operation of the alarm engine, the area map or the desk units, which `State.Quiet` describes: it leaves the
settings, the operator table, the clocks and the frames on the links alone. -/
inductive State.QuietOp : State → State → Prop
  | enter (w : Draft) (s : State) : QuietOp s (enter w s)
  | setPending (c : AttnClass) (s : State) : QuietOp s (setPending c s)
  | raiseNotice (s : State) : QuietOp s (raiseNotice s)
  | reroute (before s : State) : QuietOp s (reroute before s)
  | putPoint (t : Tag) {p : Point} (h : p.Lawful) (s : State) : QuietOp s (s.putPoint t p)
  | erasePoint (t : Tag) (s : State) : QuietOp s { s with points := tableErase s.points t }
  | setPoint (t : Tag) {c : StoredPoint} (h1 : 1 ≤ c.base) (h4 : c.base ≤ 4) (hs : c.step ≤ 120) (s : State) :
      QuietOp s (applySetPoint t c s)
  | activeFrame {t : Tag} {p : Point} {s : State} (h : (t, p) ∈ s.points) : QuietOp s (activeFrame t p s)
  | clearFrame {t : Tag} {p : Point} {s : State} (h : (t, p) ∈ s.points) : QuietOp s (clearFrame t p s)
  | acknowledge (d : Desk) (op : OpIndex) {t : Tag} {p : Point} {s : State} (h : (t, p) ∈ s.points) :
      QuietOp s (acknowledge d op t p s)
  | shelve {t : Tag} {p : Point} (expiry : Word32) (op : OpIndex) {s : State} (h : (t, p) ∈ s.points) :
      QuietOp s (shelvePoint t p expiry op s)
  | returnFromShelf {t : Tag} {p : Point} {s : State} (h : (t, p) ∈ s.points) (hs : p.isShelved = true) :
      QuietOp s (returnFromShelf t p s)
  | silence (d : Desk) (op : OpIndex) (s : State) : QuietOp s (silenceDesk d op s)
  | escalate (s : State) : QuietOp s { s with points := tableMap (fun _ p => p.escalate s.runSeconds) s.points }
  | assignArea (x : Area × Option Desk) (s : State) : QuietOp s (serveAssignArea x s).1
  | abort (d : Desk) (reason : AbortReason) (s : State) : QuietOp s (abortHandover d reason s)
  | commit {d : Desk} {k : SlotId} {h : Handover} {inc : OpIndex} {s : State}
      (hst : (s.unit d).state = .handoverReview k h inc) : QuietOp s (commitHandover d k h inc s)
  | brief (d : Desk) (inc : OpIndex) (t : Tag) (how : Nat) (s : State) : QuietOp s (briefEntry d inc t how s)
  | dues (due : Desk → Option DueMark) (s : State) :
      QuietOp s { s with desks := PerDesk.of (fun d => { s.unit d with due := due d }) }
  | outOfService (d : Desk) (s : State) : QuietOp s (takeOutOfService d s)
  | intoService {d : Desk} {s : State} (h : (s.unit d).state = .outOfService) : QuietOp s (returnToService d s)
  | contacts (d : Desk) (k : SlotId) {v : Slot} {s : State} (h : v.state = (s.slot d k).state) :
      QuietOp s (s.putSlot d k v)
  | closeContact (d : Desk) (k : SlotId) (c : Contact) (s : State) : QuietOp s (closeContact d k c s)
  | removal (d : Desk) (k : SlotId) (c : Contact) (s : State) :
      QuietOp s (removalOf d k (s.slot d k).state (moveContact d k c false (s.slot d k).state.afterOpen s))
  | slotWork {d : Desk} {k : SlotId} {st : SlotState} {s : State}
      (hold : (s.slot d k).state = .settling ∨ ∃ b n f, (s.slot d k).state = .reading b n f) (hst : st.result? = none) :
      QuietOp s (s.putSlotState d k st)
  | keyIn {d : Desk} {k : SlotId} {bat : Battery} {n : Nat} {f : Option ReadFailure} (r : SixBytes) {s : State}
      (h : (s.slot d k).state = .reading bat n f) : QuietOp s (keyIn d k bat r s)

/-- An operation of the blocks: a quiet one, or one that changes a setting, a clock, an intake link, the loads, the
operator table, the store or the annunciator, opens a handover or accepts a RESET. None changes a link but for its
notice-waiting mark. -/
inductive State.Work : State → State → Prop
  | quiet {s t : State} (h : s.QuietOp t) : Work s t
  /-- The fields on which no law rests. -/
  | loose (runSeconds : Word32) (tick : TickWork) (mill : Option MillClock) (markMode : MarkMode) (timeHold : Bool)
      (supervisor : Option Desk) (attention : Attention) (command : CommandState) (pending : List Instr) (s : State) :
      Work s { s with runSeconds := runSeconds, tick := tick, mill := mill, markMode := markMode, timeHold := timeHold
                      supervisor := supervisor, attention := attention, command := command, pending := pending }
  | limits {x : Limits} (h : x.Lawful) (s : State) :
      Work s { s with limits := { x with flood := s.limits.flood }, heldFlood := some x.flood }
  | adoptFlood (s : State) : Work s (adoptFlood s)
  | staged {f : Flash} (h : f.Lawful) (s : State) : Work s { s with staged := some f }
  | schedule {x : List Nat} (h : scheduleOk x = true) (s : State) : Work s { s with schedule := x }
  | updateLoad (t : Target) (s : State) : Work s (updateLoad t s)
  | opening {d : Desk} {k : SlotId} {op : OpIndex} {s : State} (h : mayOpen d s = .ok (k, op)) :
      Work s (openHandover d k op s)
  | intake (l : EventLink) {v : IntakeLink} {s : State}
      (h : s.IntakeLawful → v.queue.length ≤ 8 ∧ (v.holdLine = true ↔ v.queue.length = 8)) : Work s (s.putEventLink l v)
  | config (d : Desk) (home : AreaSet) {tone hornHold : Nat} (h : tone ≤ 7 ∧ 1 ≤ hornHold ∧ hornHold ≤ 15) (s : State) :
      Work s (s.putUnit d { s.unit d with home := home, tone := tone, hornHold := hornHold })
  | cycleStart (s : State) : Work s (cycleStart s)
  | tickOn {s : State} (h : s.position + 1 < s.flash.c) : Work s { s with position := s.position + 1 }
  | store (st : StoreState) (im : Option Image) {s : State}
      (h : ∀ i, im = some i ∨ st = .writing i → i ∈ s.images ∨ i = s.snapshot) : Work s { s with store := st, image := im }
  | setOperator (i : OpIndex) (r : OperatorRecord) (s : State) : Work s (applySetOperator i r s)
  | clearOperator (i : OpIndex) (s : State) : Work s (serveClearOperator i s).1
  | closing {s : State} (h : s.phase = .running) : Work s { s with phase := .closing }

/-- An operation of the part: one of the blocks, one of a link, or a reset. -/
inductive State.Move : State → State → Prop
  | work {s t : State} (h : s.Work t) : Move s t
  | receiver (l : Link) (r : Receiver) (s : State) : Move s (setReceiver l r s)
  | opportunity (l : Link) (s : State) : Move s (takeOpportunity l s)
  | offer (l : Link) {f : OutFrame} {s : State} (h4 : f.role.holdsPlace = true → (s.link l).taken < 4)
      (hb : f.role = .busyReply → (s.link l).busyUnsent = false) : Move s (s.putLink l ((s.link l).offer f))
  | sent (l : Link) (s : State) : Move s (takeOpportunity l (s.putLink l { s.link l with sending := none }))
  | hello (cause : ResetCause) (s : State) : Move s (sendHello cause s)
  | phase (p : Phase) (input : Bool) {s : State} (h : s.ResetLawful → input = true → ∃ c, p = .inReset c) :
      Move s { s with phase := p, resetInput := input }
  | reset (p : Phase) (input : Bool) {s : State} (h : s.ResetLawful → input = true → ∃ c, p = .inReset c) :
      Move s { resetTo p s with resetInput := input }
  | load (p : Phase) {s : State} (h : s.ResetLawful → s.resetInput = true → ∃ c, p = .inReset c) :
      Move s (loadStore (resetTo p s))

/-- A chain of operations of the blocks. -/
abbrev State.Works : State → State → Prop := Relation.ReflTransGen State.Work

/-- A chain of operations of the part. -/
abbrev State.Moves : State → State → Prop := Relation.ReflTransGen State.Move

theorem State.QuietOp.works {s t : State} (h : s.QuietOp t) : s.Works t := .single (.quiet h)

theorem State.Work.works {s t : State} (h : s.Work t) : s.Works t := .single h

theorem State.Works.moves {s t : State} (h : s.Works t) : s.Moves t := Relation.ReflTransGen.mono (fun _ _ => State.Move.work) _ _ h

theorem State.Move.moves {s t : State} (h : s.Move t) : s.Moves t := .single h

theorem State.Works.then {s t u : State} (h : s.Works t) (k : t.QuietOp u) : s.Works u := h.tail (.quiet k)

/-- Working through a list, each item a chain of operations. -/
theorem foldl_works {α : Type} {f : State → α → State} (h : ∀ (s : State) a, s.Works (f s a)) (l : List α) (s : State) :
    s.Works (l.foldl f s) := by
  induction l generalizing s with
  | nil => exact .refl
  | cons a rest ih => exact (h s a).trans (ih (f s a))

/-! ### What the operations leave of the links and the phase -/

theorem erasePoint_quiet (t : Tag) (s : State) : s.Quiet { s with points := tableErase s.points t } :=
  ⟨rfl, fun _ => rfl, rfl, id, fun h => tableErase_wf h _, id, fun _ => ⟨rfl, rfl, id⟩, fun _ => ⟨rfl, rfl, rfl, rfl⟩,
    fun _ => id, fun _ => id⟩

theorem raiseNotice_quiet (s : State) : s.Quiet (raiseNotice s) :=
  ⟨rfl, fun l => by cases l <;> rfl, rfl, id, id, id, fun _ => ⟨rfl, rfl, id⟩, fun _ => ⟨rfl, rfl, rfl, rfl⟩,
    fun _ => id, fun _ => id⟩

theorem dues_quiet (due : Desk → Option DueMark) (s : State) :
    s.Quiet { s with desks := PerDesk.of (fun d => { s.unit d with due := due d }) } := by
  have hu : ∀ d, State.unit { s with desks := PerDesk.of (fun d => { s.unit d with due := due d }) } d =
      { s.unit d with due := due d } := fun d => PerDesk.get_of _ d
  refine ⟨rfl, fun _ => rfl, rfl, id, id, id, fun _ => ⟨rfl, rfl, id⟩, fun d => ?_, fun d => ?_, fun d => ?_⟩
  · rw [hu]; exact ⟨rfl, rfl, rfl, rfl⟩
  · rw [hu]; exact id
  · simp only [State.inHandover, hu]; exact id

theorem serveAssignArea_quiet (x : Area × Option Desk) (s : State) : s.Quiet (serveAssignArea x s).1 := by
  simp only [serveAssignArea]
  split
  · exact .refl s
  · split
    · simp only [accepted]
      split
      · exact changeOwner_quiet _ _ s
      · exact .refl s
    · split
      · exact .refl s
      · split
        · simp only [accepted]
          split
          · exact .refl s
          · exact changeOwner_quiet _ _ s
        · exact .refl s

theorem moveContact_quiet (d : Desk) (k : SlotId) (c : Contact) (closed : Bool) (st : SlotState) (s : State) :
    s.Quiet (moveContact d k c closed st s) := putSlot_quiet d k _ s

theorem closeContact_quiet (d : Desk) (k : SlotId) (c : Contact) (s : State) : s.Quiet (closeContact d k c s) := by
  simp only [closeContact]
  split
  · exact .refl s
  · exact moveContact_quiet d k c true _ s

theorem removalOf_quiet (d : Desk) (k : SlotId) (old : SlotState) (s : State) : s.Quiet (removalOf d k old s) := by
  simp only [removalOf]
  split
  case h_2 r => exact (enter_quiet _ s).trans (loseKey_quiet d k r .removal _)
  case h_1 => exact enter_quiet _ s
  case h_3 => exact enter_quiet _ s
  case h_4 => exact enter_quiet _ s
  all_goals exact .refl s

theorem keyIn_quiet (d : Desk) (k : SlotId) (bat : Battery) (r : SixBytes) (s : State) : s.Quiet (keyIn d k bat r s) :=
  ((putSlot_quiet d k _ s).trans (enter_quiet _ _)).trans (signOnCheck_quiet d k _ _ _)

/-- A quiet operation is quiet. -/
theorem State.QuietOp.quiet {s t : State} (h : s.QuietOp t) : s.Quiet t := by
  cases h with
  | enter w => exact enter_quiet w s
  | setPending c => exact setPending_quiet c s
  | raiseNotice => exact raiseNotice_quiet s
  | reroute before => exact reroute_quiet before s
  | putPoint x _ => exact putPoint_quiet x _ s
  | erasePoint x => exact erasePoint_quiet x s
  | setPoint x _ _ _ => exact applySetPoint_quiet x _ s
  | activeFrame _ => exact activeFrame_quiet _ _ s
  | clearFrame _ => exact clearFrame_quiet _ _ s
  | acknowledge d op _ => exact acknowledge_quiet d op _ _ s
  | shelve expiry op _ => exact shelvePoint_quiet _ _ expiry op s
  | returnFromShelf _ _ => exact returnFromShelf_quiet _ _ s
  | silence d op => exact silenceDesk_quiet d op s
  | escalate => exact mapPoints_quiet _ s
  | assignArea x => exact serveAssignArea_quiet x s
  | abort d reason => exact abortHandover_quiet d reason s
  | commit _ => exact commitHandover_quiet _ _ _ _ s
  | brief d inc x how => exact briefEntry_quiet d inc x how s
  | dues due => exact dues_quiet due s
  | outOfService d => exact takeOutOfService_quiet d s
  | intoService _ => exact returnToService_quiet _ s
  | contacts d k _ => exact putSlot_quiet d k _ s
  | closeContact d k c => exact closeContact_quiet d k c s
  | removal d k c => exact (moveContact_quiet d k c false _ s).trans (removalOf_quiet d k _ _)
  | slotWork _ _ => exact putSlot_quiet _ _ _ s
  | keyIn r _ => exact keyIn_quiet _ _ _ r s

end Sys2Proof.Machine
end

section
namespace Sys2Proof.Machine

/-! ### Updates that no law rests on -/

theorem command_work (c : CommandState) (s : State) : s.Work { s with command := c } :=
  .loose s.runSeconds s.tick s.mill s.markMode s.timeHold s.supervisor s.attention c s.pending s

theorem mill_work (m : Option MillClock) (s : State) : s.Work { s with mill := m } :=
  .loose s.runSeconds s.tick m s.markMode s.timeHold s.supervisor s.attention s.command s.pending s

theorem attention_work (a : Attention) (s : State) : s.Work { s with attention := a } :=
  .loose s.runSeconds s.tick s.mill s.markMode s.timeHold s.supervisor a s.command s.pending s

theorem supervisor_work (d : Option Desk) (s : State) : s.Work { s with supervisor := d } :=
  .loose s.runSeconds s.tick s.mill s.markMode s.timeHold d s.attention s.command s.pending s

theorem tick_work (x : TickWork) (s : State) : s.Work { s with tick := x } :=
  .loose s.runSeconds x s.mill s.markMode s.timeHold s.supervisor s.attention s.command s.pending s

theorem pending_work (p : List Instr) (s : State) : s.Work { s with pending := p } :=
  .loose s.runSeconds s.tick s.mill s.markMode s.timeHold s.supervisor s.attention s.command p s

/-! ### The time base -/

theorem markDue_eq (now : Word32) (u : DeskUnit) : markDue now u = { u with due := (markDue now u).due } := by
  simp only [markDue]
  split <;> rfl

theorem markDues_quietOp (now : Word32) (s : State) :
    s.QuietOp { s with desks := PerDesk.of (fun d => markDue now (s.unit d)) } := by
  have hdue : (fun d => markDue now (s.unit d)) = fun d => { s.unit d with due := (markDue now (s.unit d)).due } :=
    funext fun d => markDue_eq now _
  rw [hdue]
  exact .dues _ s

theorem fireBoundary_works (m : Nat) (s : State) : s.Works (fireBoundary m s) :=
  ((mill_work _ s).works.then (.enter _ _)).then (markDues_quietOp _ _)

theorem fireCrossed_works (range : Nat × Nat) (s : State) : s.Works (fireCrossed range s) := by
  rw [fireCrossed_eq]
  exact foldl_works (fun s m => fireBoundary_works m s) _ s

/-- An entry made or not. -/
theorem optEntry_works (e : Option Draft) (s : State) :
    s.Works (match e with | some w => enter w s | none => s) := by
  cases e with
  | none => exact .refl
  | some w => exact (State.QuietOp.enter w s).works

theorem moveForward_works (c : MillClock) (d : Nat) (e : Option Draft) (s : State) :
    s.Works (moveForward c d e s) :=
  ((mill_work _ s).works.trans (optEntry_works e _)).trans (fireCrossed_works _ _)

theorem takeMark_works (c : MillClock) (t : MillTime) (d : Int) (cls : MarkClass) (e : Option Draft) (s : State) :
    s.Works (takeMark c t d cls e s).1 := by
  simp only [takeMark]
  split
  · exact (mill_work _ s).works.trans (optEntry_works e _)
  · exact moveForward_works c _ e s

theorem keepTime_works (d : Int) (cls : MarkClass) (s : State) : s.Works (keepTime d cls s).1 :=
  (State.QuietOp.enter _ s).works

theorem timeMark_works (t : MillTime) (s : State) : s.Works (timeMark t s).1 := by
  simp only [timeMark]
  split
  · simp only [markUnset]
    split
    · exact (State.QuietOp.enter { kind := .timeSet, d1 := some 257 } s).works
    · exact (mill_work _ s).works.then (.enter { kind := .timeSet, d1 := some 1 } _)
  · simp only [markSet]
    split
    · exact keepTime_works _ _ s
    · split
      · exact keepTime_works _ _ s
      all_goals exact takeMark_works _ t _ _ _ s

theorem secondEvent_works (s : State) : s.Works (secondEvent s) := by
  have h0 : s.Works { s with runSeconds := s.runSeconds + 1 } :=
    (State.Work.loose (s.runSeconds + 1) s.tick s.mill s.markMode s.timeHold s.supervisor s.attention s.command s.pending
      s).works
  have h1 : ∀ s, State.Works s (advanceMill s) := fun s => by
    simp only [advanceMill]
    split
    · exact moveForward_works _ 1 none s
    · exact .refl
  have h2 : ∀ s, State.Works s (handTick s) := fun s => by
    simp only [handTick]
    split
    · exact (tick_work _ s).works
    · exact .refl
  exact (h0.trans (h1 _)).trans (h2 _)

theorem minutePulse_works (s : State) : s.Works (minutePulse s) := by
  simp only [minutePulse]
  split
  · split
    · exact .refl
    · simp only [roundMinute]
      split
      · exact .refl
      · split
        · exact (mill_work _ s).works.then (.enter _ _)
        · exact moveForward_works _ _ _ s
  · exact .refl

theorem checkLate_works (d : Desk) (s : State) : s.Works (checkLate d s) := by
  simp only [checkLate]
  split
  · split
    · rename_i m _ _
      refine State.Works.then (State.QuietOp.works ?_) (.enter _ _)
      have : s.putUnit d { s.unit d with due := some { m with late := true } } =
          { s with desks := PerDesk.of (fun e => { s.unit e with
              due := if e = d then some { m with late := true } else (s.unit e).due }) } := by
        simp only [State.putUnit]
        congr 1
        apply PerDesk.ext_get
        intro e
        rw [PerDesk.get_set, PerDesk.get_of]
        by_cases he : e = d
        · simp [he]
        · simp [he, State.unit]
      rw [this]
      exact .dues _ s
    · exact .refl
  · exact .refl

theorem dueLate_works (s : State) : s.Works (dueLate s) := by
  simp only [dueLate]
  split
  · exact (tick_work _ s).works.trans (foldl_works (fun s d => checkLate_works d s) _ _)
  · exact .refl

/-! ### The alarm engine and the load monitor -/

theorem refuseAck_quietOp (d : Desk) (t : Option Tag) (reason : Reason) (how : Nat) (s : State) :
    s.QuietOp (refuseAck d t reason how s) := .enter _ s

theorem serveAck_works (x : Desk × Tag) (s : State) : s.Works (serveAck x s).1 := by
  have hrefused : ∀ e, s.Works (ackRefusal x.1 x.2 e s).1 := fun e => (refuseAck_quietOp _ _ _ _ s).works
  simp only [serveAck]
  split
  · exact hrefused _
  · split
    · exact hrefused _
    · split
      · exact hrefused _
      · split
        · rename_i hp _ _
          exact (State.QuietOp.acknowledge _ _ (tableGet_mem hp)).works
        · exact hrefused _

/-- The items of an attention list are records of the point table (R44). -/
theorem mem_insertItem {b : Item → Item → Bool} {x e : Item} {l : List Item} :
    e ∈ insertItem b x l ↔ e = x ∨ e ∈ l := by
  induction l with
  | nil => simp [insertItem]
  | cons y rest ih =>
    simp only [insertItem]
    split
    · simp only [List.mem_cons, ih]; tauto
    · simp only [List.mem_cons]

theorem mem_sortItems {b : Item → Item → Bool} {e : Item} {l : List Item} : e ∈ sortItems b l ↔ e ∈ l := by
  induction l with
  | nil => simp [sortItems]
  | cons x rest ih => simp [sortItems, mem_insertItem, ih]

theorem mem_attentionList {s : State} {t : Target} {e : Item} :
    e ∈ s.attentionList t ↔ e ∈ s.points ∧ s.standsAt t e.2 = true := by
  simp [State.attentionList, mem_sortItems]

end Sys2Proof.Machine
end

section
namespace Sys2Proof.Machine

/-! ### Alarms: buttons and shelving -/

theorem ackPress_works (d : Desk) (s : State) : s.Works (ackPress d s) := by
  simp only [ackPress]
  split
  · exact (refuseAck_quietOp _ _ _ _ s).works
  · split
    · exact .refl
    · rename_i h
      have hmem := (mem_attentionList.1 (List.mem_of_find?_eq_some h)).1
      split
      · exact (State.QuietOp.acknowledge _ _ hmem).works
      · exact (refuseAck_quietOp _ _ _ _ s).works

theorem serveSilence_works (d : Desk) (s : State) : s.Works (serveSilence d s).1 := by
  simp only [serveSilence]
  split
  · exact .refl
  · exact (State.QuietOp.silence d _ s).works

theorem silencePress_works (d : Desk) (s : State) : s.Works (silencePress d s) := by
  simp only [silencePress]
  split
  · exact .refl
  · exact (State.QuietOp.silence d _ s).works

theorem shelfTests_ok {d : Desk} {t : Tag} {s : State} {op : OpIndex} {p : Point} (h : shelfTests d t s = .ok (op, p)) :
    s.point t = some p := by
  simp only [shelfTests] at h
  split at h
  · cases h
  · split at h
    · cases h
    · split at h
      · cases h; assumption
      · cases h

theorem enter_mem_points {t : Tag} {p : Point} {s : State} (h : s.point t = some p) (w : Draft) :
    (t, p) ∈ (enter w s).points := by
  rw [enter_points]
  exact tableGet_mem h

theorem serveShelve_works (x : Desk × Tag × Nat) (s : State) : s.Works (serveShelve x s).1 := by
  simp only [serveShelve]
  split
  · exact .refl
  · rename_i hp
    split
    · exact .refl
    · split
      · exact .refl
      · split
        · exact .refl
        · exact (State.QuietOp.enter _ s).works.then (.shelve _ _ (enter_mem_points (shelfTests_ok hp) _))

theorem serveUnshelve_works (x : Desk × Tag) (s : State) : s.Works (serveUnshelve x s).1 := by
  simp only [serveUnshelve]
  split
  · exact .refl
  · rename_i hp
    split
    · rename_i hst
      exact (State.QuietOp.enter _ s).works.then
        (.returnFromShelf (enter_mem_points (shelfTests_ok hp) _) (by simp [Point.isShelved, hst]))
    all_goals exact .refl

theorem shelfExpiry_works (t : Tag) (s : State) : s.Works (shelfExpiry t s) := by
  simp only [shelfExpiry]
  split
  · rename_i hp
    split
    · rename_i hst
      split
      · exact (State.QuietOp.enter _ s).works.then
          (.returnFromShelf (enter_mem_points hp _) (by simp [Point.isShelved, hst]))
      · exact .refl
    all_goals exact .refl
  · exact .refl

theorem escalation_works (s : State) : s.Works (escalation s) := by
  simp only [escalation]
  split
  · exact (State.QuietOp.escalate s).works.tail (tick_work _ _)
  · exact .refl

theorem loadUpdate_works (s : State) : s.Works (loadUpdate s) := by
  simp only [loadUpdate]
  split
  · exact ((tick_work _ s).works.tail (.adoptFlood _)).trans (foldl_works (fun s t => (State.Work.updateLoad t s).works) _ _)
  · exact .refl

/-! ### Attention control -/

theorem serveAttnControl_works (x : ClassSet × Bool × ClearMode) (s : State) : s.Works (serveAttnControl x s).1 := by
  simp only [serveAttnControl]
  split
  · exact (attention_work _ s).works.then (.raiseNotice _)
  · exact (attention_work _ s).works

theorem clearPending_works (classes : ClassSet) (s : State) : s.Works (clearPending classes s) :=
  (attention_work _ s).works

theorem serveStatus_works (l : Link) (s : State) : s.Works (serveStatus l () s).1 := by
  simp only [serveStatus]
  split
  · exact clearPending_works _ s
  · exact .refl

/-! ### Handovers -/

theorem abort_works (d : Desk) (reason : AbortReason) (s : State) : s.Works (abortHandover d reason s) :=
  (State.QuietOp.abort d reason s).works

theorem serveHandoverOpen_works (d : Desk) (s : State) : s.Works (serveHandoverOpen d s).1 := by
  simp only [serveHandoverOpen]
  split
  · exact .refl
  · exact (State.Work.opening (by assumption)).works

theorem serveHandoverCancel_works (d : Desk) (s : State) : s.Works (serveHandoverCancel d s).1 := by
  simp only [serveHandoverCancel]
  split
  · exact .refl
  · exact abort_works d _ s

theorem mayCommit_ok {d : Desk} {s : State} {k : SlotId} {h : Handover} {inc : OpIndex}
    (hc : mayCommit d s = .ok (k, h, inc)) :
    (s.unit d).state = .handoverReview k h inc ∧ (unbriefed h.carried).isEmpty = true := by
  simp only [mayCommit] at hc
  split at hc
  · cases hc
  · split at hc
    · split at hc
      · cases hc; exact ⟨by assumption, by assumption⟩
      · cases hc
    · cases hc

theorem serveHandoverCommit_works (d : Desk) (s : State) : s.Works (serveHandoverCommit d s).1 := by
  simp only [serveHandoverCommit]
  split
  · exact .refl
  · rename_i hc
    exact (State.QuietOp.commit (mayCommit_ok hc).1).works

theorem serveBrief_works (x : Desk × Tag) (s : State) : s.Works (serveBrief x s).1 := by
  simp only [serveBrief]
  split
  · split
    · dsimp only
      split
      · exact .refl
      · exact (State.QuietOp.brief _ _ _ _ s).works
    · exact .refl
  all_goals exact .refl

theorem handPress_works (d : Desk) (s : State) : s.Works (handPress d s) := by
  simp only [handPress]
  split
  · simp only [pressToOpen]
    split
    · exact (State.Work.opening (by assumption)).works
    · exact .refl
  · simp only [pressToCancel]
    split
    · exact abort_works d _ s
    · exact .refl
  · split
    · exact (State.QuietOp.brief _ _ _ _ s).works
    · simp only [pressToCommit]
      split
      · rename_i hc
        exact (State.QuietOp.commit (mayCommit_ok hc).1).works
      · exact .refl
  all_goals exact .refl

theorem handoverTimeout_works (d : Desk) (s : State) : s.Works (handoverTimeout d s) := by
  simp only [handoverTimeout]
  split
  · split
    · exact abort_works d _ s
    · exact .refl
  · exact .refl

/-! ### Points and intake -/

theorem serveClearPoint_works (t : Tag) (s : State) : s.Works (serveClearPoint t s).1 := by
  simp only [serveClearPoint]
  split
  · exact .refl
  · split
    · exact (State.QuietOp.erasePoint t s).works
    · exact .refl

theorem badFrame_works (l : EventLink) (reason : BadFrame) (tag : Option Tag) (seq : Option Nat) (s : State) :
    s.Works (badFrame l reason tag seq s) :=
  (State.QuietOp.enter _ s).works

theorem intakeFrame_works (l : EventLink) (bytes : List Byte) (s : State) : s.Works (intakeFrame l bytes s) := by
  simp only [intakeFrame]
  split
  · exact badFrame_works l _ _ _ s
  · split
    · rename_i f _ hlen
      have hdepth : Config.intakeDepth = 8 := rfl
      simp only [queueFrame]
      split
      · rename_i h8
        exact State.Works.then (State.Work.intake l fun _ => ⟨by simp; omega, by simp [h8, hdepth]⟩).works (.enter _ _)
      · rename_i h8
        refine (State.Work.intake l fun hs => ⟨by simp; omega, ?_⟩).works
        exact iff_of_false (fun hh => by have := (hs l).2.1 hh; omega) (by simpa [hdepth] using h8)
    · exact badFrame_works l _ _ _ s

theorem applyFrame_works (t : Tag) (isActive : Bool) (s : State) : s.Works (applyFrame t isActive s) := by
  simp only [applyFrame]
  split
  · rename_i hp
    split
    · exact (State.QuietOp.activeFrame (tableGet_mem hp)).works
    · exact (State.QuietOp.clearFrame (tableGet_mem hp)).works
  · exact .refl

theorem provisionalPoint_lawful (a : Area) : (provisionalPoint a).Lawful := by
  simp [provisionalPoint, Point.Lawful, Point.unacknowledged]

theorem resolveFrame_works (l : EventLink) (f : SixBytes) (t : Tag) (isActive : Bool) (s : State) :
    s.Works (resolveFrame l f t isActive s) := by
  simp only [resolveFrame]
  split
  · split
    · exact (State.QuietOp.enter _ s).works.trans (applyFrame_works t isActive _)
    · exact applyFrame_works t isActive s
  · split
    · exact ((State.QuietOp.putPoint t (provisionalPoint_lawful _) s).works.then (.enter _ _)).trans
        (applyFrame_works t isActive _)
    · exact badFrame_works l _ _ _ s

theorem compareSequence_works (l : EventLink) (received : Byte) (s : State) : s.Works (compareSequence l received s) := by
  simp only [compareSequence]
  refine Relation.ReflTransGen.tail (?_ : s.Works _) (.intake l fun h => h l)
  split
  · exact .refl
  · split
    · exact .refl
    · exact (State.QuietOp.enter _ s).works

theorem checkFrame_works (l : EventLink) (f : SixBytes) (s : State) : s.Works (checkFrame l f s) := by
  simp only [checkFrame]
  split
  · refine (compareSequence_works l f.b4 s).trans ?_
    split
    · exact badFrame_works l _ _ _ _
    · split
      · exact badFrame_works l _ _ _ _
      · exact resolveFrame_works l f _ _ _
  · exact badFrame_works l _ _ _ s

theorem intakeTake_works (l : EventLink) (s : State) : s.Works (intakeTake l s) := by
  simp only [intakeTake]
  split
  · rename_i f rest hq
    have h8 : s.IntakeLawful → rest.length ≤ 8 ∧ (false = true ↔ rest.length = 8) := fun h => by
      have := (h l).1
      rw [hq, List.length_cons] at this
      exact ⟨by omega, by simp; omega⟩
    exact (State.Work.intake l h8).works.trans (checkFrame_works l f _)
  · exact .refl

/-! ### Settings, the store and the operator table -/

theorem applySetDesk_works {f : SetDeskFields} (h : f.tone ≤ 7 ∧ 1 ≤ f.hornHold ∧ f.hornHold ≤ 15) (s : State) :
    s.Works (applySetDesk f s) := by
  have hservice : s.Works (setService f.desk f.inService s) := by
    simp only [setService]
    split
    · split
      · exact .refl
      · exact (State.QuietOp.outOfService _ s).works
    · rename_i hout
      split
      · exact (State.QuietOp.intoService (by simpa [State.inService] using hout)).works
      · exact .refl
  have hsup : ∀ s, State.Works s (setSupervisor f.desk f.supervisor s) := fun s => by
    simp only [setSupervisor]
    split
    · exact (supervisor_work _ s).works
    · split
      · exact (supervisor_work _ s).works
      · exact .refl
  exact (hservice.trans (hsup _)).tail (.config _ _ h _)

theorem serveSetDesk_works {f : SetDeskFields} (h : f.tone ≤ 7 ∧ 1 ≤ f.hornHold ∧ f.hornHold ≤ 15) (s : State) :
    s.Works (serveSetDesk f s).1 := by
  simp only [serveSetDesk]
  split
  · exact .refl
  · exact applySetDesk_works h s

theorem serveSetOperator_works (x : OpIndex × OperatorRecord) (s : State) : s.Works (serveSetOperator x s).1 := by
  simp only [serveSetOperator]
  split
  · exact .refl
  · exact (State.Work.setOperator _ _ s).works

theorem serveStoreSave_works (s : State) : s.Works (serveStoreSave () s).1 := by
  have h : ∀ i, s.image = some i ∨ StoreState.writing s.snapshot = .writing i → i ∈ s.images ∨ i = s.snapshot := by
    rintro i (h | h)
    · exact .inl (by simp [State.images, h])
    · cases h; exact .inr rfl
  simp only [serveStoreSave]
  split
  · exact .refl
  all_goals exact (State.Work.store _ _ h).works

theorem storeWriteComplete_works (agrees : Bool) (s : State) : s.Works (storeWriteComplete agrees s) := by
  simp only [storeWriteComplete]
  split
  · rename_i image hw
    refine State.Works.then ?_ (.enter _ _)
    split
    · refine (State.Work.store .valid (some image) fun i h => .inl ?_).works
      obtain h | h := h <;> cases h
      simp [State.images, hw]
    · exact (State.Work.store .invalid none fun i h => by obtain h | h := h <;> cases h).works
  all_goals exact .refl

theorem serveSchedule_works {x : List Nat × MarkMode × Bool} (h : scheduleOk x.1 = true) (s : State) :
    s.Works (serveSchedule x s).1 :=
  (State.Work.loose s.runSeconds s.tick s.mill x.2.1 x.2.2 s.supervisor s.attention s.command s.pending s).works.tail
    (.schedule h _)

/-! ### The annunciator and the key slots -/

theorem cycleStartEvent_works (s : State) : s.Works (cycleStartEvent s) := by
  simp only [cycleStartEvent]
  split
  · exact (State.Work.cycleStart s).works
  · exact .refl

theorem flashTick_works (s : State) : s.Works (flashTick s) := by
  simp only [flashTick]
  split
  · exact (State.Work.cycleStart s).works
  · exact (State.Work.tickOn (by omega)).works

theorem setPin_quietOp (d : Desk) (k : SlotId) (c : Contact) (closed : Bool) (s : State) :
    s.QuietOp (setPin d k c closed s) := .contacts d k rfl

theorem openContact_works (d : Desk) (k : SlotId) (c : Contact) (s : State) : s.Works (openContact d k c s) := by
  simp only [openContact]
  split
  · exact (State.QuietOp.removal d k c s).works.then (.reroute s _)
  · exact .refl

theorem settleEnd_works (d : Desk) (k : SlotId) (x y : Bool) (s : State) : s.Works (settleEnd d k x y s) := by
  simp only [settleEnd]
  split
  · rename_i hset
    simp only [sampleBattery]
    split
    · exact (State.QuietOp.slotWork (.inl hset) rfl).works.then (.enter _ _)
    · exact (State.QuietOp.slotWork (.inl hset) rfl).works.then (.enter _ _)
    · exact (State.QuietOp.slotWork (.inl hset) rfl).works
  · exact .refl

theorem failRead_works {d : Desk} {k : SlotId} {bat : Battery} {n : Nat} {f : Option ReadFailure} {s : State}
    (h : (s.slot d k).state = .reading bat n f) (cause : ReadFailure) : s.Works (failRead d k bat n cause s) := by
  simp only [failRead]
  split
  · exact (State.QuietOp.slotWork (.inr ⟨_, _, _, h⟩) rfl).works
  · exact (State.QuietOp.slotWork (.inr ⟨_, _, _, h⟩) rfl).works.then (.enter _ _)

theorem readComplete_works (d : Desk) (k : SlotId) (r : SixBytes) (s : State) : s.Works (readComplete d k r s) := by
  simp only [readComplete]
  split
  · rename_i h
    split
    · exact (State.QuietOp.keyIn r h).works.then (.reroute s _)
    · exact failRead_works h _
  · exact .refl

theorem readTimeout_works (d : Desk) (k : SlotId) (s : State) : s.Works (readTimeout d k s) := by
  simp only [readTimeout]
  split
  · exact failRead_works (by assumption) _
  · exact .refl

/-! ### The command link -/

theorem latchOn_works (l : Link) (how : Nat) (s : State) : s.Works (latchOn l how s) :=
  (command_work _ s).works.then (.enter _ _)

theorem heard_works (l : Link) (s : State) : s.Works (heard l s) := by
  simp only [heard]
  split
  · split
    · exact (command_work _ s).works
    · exact .refl
  · split
    · exact (command_work _ s).works.then (.enter _ _)
    · exact .refl
  · exact .refl

theorem latch_works {l : Link} {s s' : State} (h : latch l s = some s') : s.Works s' := by
  simp only [latch] at h
  split at h
  · cases h; exact latchOn_works l 1 s
  · split at h
    · cases h; exact heard_works l s
    · cases h

theorem linkLost_works (s : State) : s.Works (linkLost s) := by
  simp only [linkLost]
  split
  · split
    · exact ((command_work _ s).works.then (.enter _ _)).then (.reroute s _)
    · exact .refl
  all_goals exact .refl

end Sys2Proof.Machine
end

section
namespace Sys2Proof.Machine

/-! ### What a body that is read gives (R17, R59, R146, R161, R166, R202, R203) -/

theorem readSetPoint_range {body : List Byte} {x : Tag × StoredPoint} (h : readSetPoint body = some x) :
    1 ≤ x.2.base ∧ x.2.base ≤ 4 ∧ x.2.step ≤ 120 := by
  simp only [readSetPoint] at h
  split at h
  · split at h
    · split at h
      · rename_i hb
        cases h
        exact ⟨hb.1, hb.2, Nat.min_le_left _ _⟩
      · cases h
    · cases h
  · cases h

theorem readSetDesk_range {body : List Byte} {f : SetDeskFields} (h : readSetDesk body = some f) :
    f.tone ≤ 7 ∧ 1 ≤ f.hornHold ∧ f.hornHold ≤ 15 := by
  simp only [readSetDesk] at h
  split at h
  · rename_i hlen
    split at h
    · cases h
      exact ⟨hlen.2, by simp only [clamp]; omega, by simp only [clamp]; omega⟩
    · cases h
  · cases h

theorem readLimits_lawful {body : List Byte} {x : Limits} (h : readLimits body = some x) : x.Lawful := by
  simp only [readLimits] at h
  split at h
  · split at h
    · rename_i hlt
      cases h
      simp only [Limits.Lawful, clamp] at hlt ⊢
      omega
    · cases h
  · cases h

theorem clampFlash_lawful (c df da g : Nat) : (clampFlash c df da g).Lawful := by
  simp only [Flash.Lawful, clampFlash, clamp]
  omega

theorem readFlash_lawful {body : List Byte} {f : Flash} (h : readFlash body = some f) : f.Lawful := by
  simp only [readFlash] at h
  split at h
  · cases h; exact clampFlash_lawful _ _ _ _
  · cases h

theorem readSchedule_ok {body : List Byte} {x : List Nat × MarkMode × Bool} (h : readSchedule body = some x) :
    scheduleOk x.1 = true := by
  simp only [readSchedule] at h
  split at h
  · split at h
    · split at h
      · cases h; assumption
      · cases h
    · cases h
  · cases h

/-! ### Taking a frame -/

/-- A request's rule that works by the operations of the blocks, in a part that runs. -/
def Serve.Moving (serve : Serve) : Prop :=
  ∀ s : State, s.phase = .running → s.Works (serve s).1

theorem served_moving {α : Type} {read : Option α} {serve : α → Serve} (h : ∀ x, read = some x → (serve x).Moving) :
    (served read serve).Moving := by
  intro s hs
  simp only [served]
  split
  · exact h _ rfl s hs
  · exact .refl

theorem readOut_moving (body : State → List Byte) : (readOut body).Moving := fun _ _ => .refl

theorem enter_phase_of {s t : State} {w : Draft} (h : t.phase = s.phase) : (enter w t).phase = s.phase := by
  rw [enter_phase, h]

theorem heard_phase (l : Link) (s : State) : (heard l s).phase = s.phase := by
  simp only [heard]
  split
  · split <;> rfl
  · split
    · exact enter_phase_of rfl
    · rfl
  · rfl

theorem latch_phase {l : Link} {s s' : State} (h : latch l s = some s') : s'.phase = s.phase := by
  simp only [latch] at h
  split at h
  · cases h; exact enter_phase_of rfl
  · split at h
    · cases h; exact heard_phase l s
    · cases h

theorem reroute_phase (b s : State) : (reroute b s).phase = s.phase := (reroute_quiet b s).phase

theorem asQuery_moving (l : Link) {serve : Serve} (h : serve.Moving) : (asQuery l serve).Moving := fun s hs =>
  ((heard_works l s).then (.reroute s _)).trans (h _ (by rw [reroute_phase, heard_phase, hs]))

theorem asCommand_moving (l : Link) {serve : Serve} (h : serve.Moving) : (asCommand l serve).Moving := by
  intro s hs
  simp only [asCommand]
  split
  · rename_i hl
    exact ((latch_works hl).then (.reroute s _)).trans (h _ (by rw [reroute_phase, latch_phase hl, hs]))
  · exact .refl

theorem asRoutingCommand_moving (l : Link) {serve : Serve} (h : serve.Moving) : (asRoutingCommand l serve).Moving := by
  intro s hs
  simp only [asRoutingCommand]
  split
  · rename_i hl
    dsimp only
    exact State.Works.then ((latch_works hl).trans (h _ (by rw [latch_phase hl, hs]))) (.reroute s _)
  · exact .refl

theorem serveTakeCommand_works (l : Link) (body : List Byte) (s : State) : s.Works (serveTakeCommand l body s).1 := by
  simp only [serveTakeCommand, served, accepted]
  split
  · rename_i hl
    have hlatched := (latch_works hl).then (.reroute s _)
    split
    all_goals
      dsimp only
      exact hlatched
  · split
    · simp only [moveLatch]
      split
      · dsimp only
        exact (latchOn_works l 2 s).then (.reroute s _)
      · exact .refl
    · exact .refl

/-! ### The links while the blocks work -/

/-- What the operations of the blocks leave of a link: all but its notice-waiting mark. -/
def State.LinksKept (s t : State) : Prop :=
  ∀ l, t.link l = { s.link l with notice := (t.link l).notice }

theorem updateLoad_linksKept (t : Target) (s : State) : s.LinksKept (updateLoad t s) := by
  have hput : ∀ v, State.LinksKept s (s.putLoad t v) := fun v l => rfl
  have hent : ∀ v w, State.LinksKept s (enter w (s.putLoad t v)) := fun v w l => (enter_quiet w _).links l
  simp only [updateLoad]
  split
  · split
    · exact hent _ _
    · exact hput _
  · split
    · cases t with
      | room => exact hent _ _
      | desk d =>
        intro l
        rw [(abortHandover_quiet d .flood _).links l, (enter_quiet _ _).links l]
        rfl
    · exact hput _

theorem State.Quiet.linksKept {s t : State} (h : s.Quiet t) : s.LinksKept t := h.links

theorem putDeskState_state (s : State) (d : Desk) (st : DeskState) : ((s.putDeskState d st).unit d).state = st := by
  simp [State.putDeskState]

/-- The record of a handover opened by a holder (R118, R121). -/
def State.openRecord (s : State) (d : Desk) (op : OpIndex) : Handover :=
  { outgoing := op, openedAt := s.runSeconds, limitExpiry := later s.runSeconds (60 * s.limits.handoverLimit)
    carried := s.toCarry d }

/-- A companion put to the qualification at a desk in HANDOVER_OPEN (R122). -/
theorem companionAtOpening_quiet {d : Desk} {k : SlotId} {h : Handover} {s : State}
    (hst : (s.unit d).state = .handoverOpen k h) : s.Quiet (companionAtOpening d k h s) := by
  simp only [companionAtOpening]
  split
  · split
    · split
      · refine ((setResult_quiet _ _ _ _).trans (putDeskState_quiet ?_ ?_)).trans (enter_quiet _ _) <;>
          rw [setResult_state, hst]
        · exact id
        · exact fun _ => rfl
      · exact .refl _
    · exact .refl _
  · exact .refl _

/-- An opening puts the desk in HANDOVER_OPEN with that record; what follows is quiet (R121, R122). -/
theorem openHandover_quiet (d : Desk) (k : SlotId) (op : OpIndex) (s : State) :
    (s.putDeskState d (.handoverOpen k (s.openRecord d op))).Quiet (openHandover d k op s) :=
  (enter_quiet _ _).trans (companionAtOpening_quiet (by rw [enter_unit, putDeskState_state]; rfl))

theorem operatorChanged_quiet (i : OpIndex) (place : Option (Desk × SlotId)) (d1 d2 : Nat) (s : State) :
    s.Quiet (operatorChanged i place d1 d2 s) := enter_quiet _ s

theorem applyConsequence_quiet (d : Desk) (k : SlotId) (i : OpIndex) (new : OperatorRecord) (c : Consequence)
    (s : State) : s.Quiet (applyConsequence d k i new c s) := by
  cases c with
  | nothing => exact .refl s
  | ends reason => exact revoke_quiet d k reason s
  | releases => exact releaseOutside_quiet d new.areas s
  | disqualifies => exact (setResult_quiet d k _ s).trans (incomingLeaves_quiet d k 5 _)

/-- A SET_OPERATOR writes the record; what follows is quiet (R83). -/
theorem applySetOperator_quiet (i : OpIndex) (r : OperatorRecord) (s : State) :
    State.Quiet { s with operators := tablePut s.operators i r } (applySetOperator i r s) := by
  simp only [applySetOperator]
  split
  · exact operatorChanged_quiet _ _ _ _ _
  · split
    · exact operatorChanged_quiet _ _ _ _ _
    · exact State.Quiet.trans (operatorChanged_quiet _ _ _ _ _) (applyConsequence_quiet _ _ _ _ _ _)

theorem serveClearOperator_quiet (i : OpIndex) (s : State) :
    (serveClearOperator i s).1 = s ∨
      State.Quiet { s with operators := tableErase s.operators i } (serveClearOperator i s).1 := by
  simp only [serveClearOperator]
  split
  · exact .inl rfl
  · right
    split
    · exact operatorChanged_quiet _ _ _ _ _
    · exact (operatorChanged_quiet _ _ _ _ _).trans (revoke_quiet _ _ _ _)

theorem adoptFlood_linksKept (s : State) : s.LinksKept (adoptFlood s) := by
  simp only [adoptFlood]
  split <;> exact fun _ => rfl

theorem State.Work.linksKept {s t : State} (h : s.Work t) : s.LinksKept t := by
  cases h with
  | quiet h => exact h.quiet.links
  | adoptFlood => exact adoptFlood_linksKept s
  | updateLoad x => exact updateLoad_linksKept x s
  | opening h => exact (openHandover_quiet _ _ _ s).links
  | setOperator i r => exact (applySetOperator_quiet i r s).links
  | clearOperator i =>
    obtain h | h := serveClearOperator_quiet i s
    · rw [h]; exact fun _ => rfl
    · exact h.links
  | _ => exact fun _ => rfl

theorem State.LinksKept.trans {s t u : State} (h : s.LinksKept t) (k : t.LinksKept u) : s.LinksKept u := fun l => by
  rw [k l, h l]

theorem State.Works.linksKept {s t : State} (h : s.Works t) : s.LinksKept t := by
  induction h with
  | refl => exact fun _ => rfl
  | tail _ hw ih => exact ih.trans hw.linksKept

theorem State.LinksKept.taken {s t : State} (h : s.LinksKept t) (l : Link) : (t.link l).taken = (s.link l).taken := by
  rw [h l]; rfl

theorem State.LinksKept.busyUnsent {s t : State} (h : s.LinksKept t) (l : Link) :
    (t.link l).busyUnsent = (s.link l).busyUnsent := by
  rw [h l]; rfl

/-- An opportunity to send adds no taken frame and no BUSY reply (R187). -/
theorem opportunity_filter (classes : ClassSet) (l : SupLink) {f : OutFrame → Bool}
    (hf : f (attentionFrame classes) = false) :
    ((l.opportunity classes).unsent.filter f).length = (l.unsent.filter f).length := by
  obtain ⟨receiver, sending, waiting, notice⟩ := l
  cases sending with
  | some x => rfl
  | none =>
    have hstart : ∀ n : Bool, (SupLink.mk receiver none waiting n).startWaiting.unsent = waiting := by
      cases waiting <;> exact fun _ => rfl
    have hunsent : (SupLink.mk receiver none waiting notice).unsent = waiting := rfl
    simp only [SupLink.opportunity, hunsent]
    split
    · rfl
    · split
      · split
        · simp [SupLink.unsent, hf]
        · rw [hstart]
      · rw [hstart]

theorem opportunity_taken (classes : ClassSet) (l : SupLink) : (l.opportunity classes).taken = l.taken :=
  opportunity_filter classes l rfl

theorem opportunity_busyCount (classes : ClassSet) (l : SupLink) : (l.opportunity classes).busyCount = l.busyCount :=
  opportunity_filter classes l rfl

end Sys2Proof.Machine
end

section
namespace Sys2Proof.Machine

/-! ### The part's own moves -/

theorem takeFrame_moves (l : Link) (type tag : Byte) {serve : Serve} (h : serve.Moving) (s : State) :
    s.Moves (takeFrame l type tag serve s) := by
  simp only [takeFrame]
  split
  · rename_i hrun
    have h0 : s.Moves (setReceiver l .hunting s) := (State.Move.receiver l .hunting s).moves
    generalize hs1 : setReceiver l .hunting s = s1 at h0
    have hphase : s1.phase = .running := by rw [← hs1]; exact hrun
    have hopp : s1.Moves (takeOpportunity l s1) := (State.Move.opportunity l s1).moves
    have hlink : (takeOpportunity l s1).link l = (s1.link l).opportunity s1.noticeClasses :=
      State.link_putLink_self s1 l _
    split
    · rename_i h4
      have hw := h (takeOpportunity l s1) hphase
      refine ((h0.trans hopp).trans hw.moves).tail (.offer l (fun _ => ?_) fun hr => ?_)
      · rw [hw.linksKept.taken, hlink, opportunity_taken]
        exact h4
      · simp only [replyFrame] at hr
        split at hr <;> cases hr
    · split
      · exact h0
      · rename_i hbusy
        have hw : (takeOpportunity l s1).Works (reroute (takeOpportunity l s1) (heard l (takeOpportunity l s1))) :=
          (heard_works l _).then (.reroute _ _)
        refine ((h0.trans hopp).trans hw.moves).tail (.offer l (fun hr => by simp [replyFrame, FrameRole.holdsPlace] at hr)
          fun _ => ?_)
        rw [hw.linksKept.busyUnsent, hlink, busyUnsent_eq, opportunity_busyCount, ← busyUnsent_eq]
        simpa using hbusy
  · exact .refl

theorem handOn_moves (l : Link) (type tag : Byte) (body : List Byte) (s : State) :
    s.Moves (handOn l type tag body s) := by
  have hq {α : Type} (ty : Byte) (read : Option α) (b : α → State → List Byte) :
      s.Moves (takeFrame l ty tag (asQuery l (served read fun x => readOut (b x))) s) :=
    takeFrame_moves l ty tag (asQuery_moving l (served_moving fun _ _ => readOut_moving _)) s
  have hc {α : Type} (ty : Byte) {read : Option α} {serve : α → Serve}
      (h : ∀ x, read = some x → ∀ s, State.Works s (serve x s).1) :
      s.Moves (takeFrame l ty tag (asCommand l (served read serve)) s) :=
    takeFrame_moves l ty tag (asCommand_moving l (served_moving fun x hx s _ => h x hx s)) s
  have hr {α : Type} (ty : Byte) {read : Option α} {serve : α → Serve}
      (h : ∀ x, read = some x → ∀ s, State.Works s (serve x s).1) :
      s.Moves (takeFrame l ty tag (asRoutingCommand l (served read serve)) s) :=
    takeFrame_moves l ty tag (asRoutingCommand_moving l (served_moving fun x hx s _ => h x hx s)) s
  simp only [handOn]
  split
  · exact hc 1 fun x hx s =>
      have ⟨h1, h4, hstep⟩ := readSetPoint_range hx
      (State.QuietOp.setPoint x.1 h1 h4 hstep s).works
  · exact hc 2 fun x _ s => serveClearPoint_works x s
  · exact hr 3 fun x _ s => (State.QuietOp.assignArea x s).works
  · exact hr 4 fun x _ s => serveSetOperator_works x s
  · exact hr 5 fun x _ s => (State.Work.clearOperator x s).works
  · exact hc 6 fun x _ s => serveAck_works x s
  · exact hc 7 fun x _ s => serveSilence_works x s
  · exact hc 8 fun x _ s => serveShelve_works x s
  · exact hc 9 fun x _ s => serveUnshelve_works x s
  · exact hc 10 fun x _ s => serveHandoverOpen_works x s
  · exact hc 11 fun x _ s => serveHandoverCancel_works x s
  · exact hc 12 fun x _ s => serveHandoverCommit_works x s
  · exact hc 13 fun x _ s => serveBrief_works x s
  · exact hc 14 fun x _ s => timeMark_works x s
  · exact hc 15 fun x hx s => serveSchedule_works (readSchedule_ok hx) s
  · exact hr 16 fun x hx s => serveSetDesk_works (readSetDesk_range hx) s
  · exact hc 17 fun x hx s => (State.Work.limits (readLimits_lawful hx) s).works
  · exact hc 18 fun x hx s => (State.Work.staged (readFlash_lawful hx) s).works
  · exact hc 19 fun x _ s => serveAttnControl_works x s
  · exact hc 20 fun x _ s => clearPending_works x s
  · exact hc 21 fun _ _ s => serveStoreSave_works s
  · exact takeFrame_moves l 22 tag (fun s _ => serveTakeCommand_works l body s) s
  · exact takeFrame_moves l 23 tag (asCommand_moving l (served_moving fun _ _ _ hs => (State.Work.closing hs).works)) s
  · exact takeFrame_moves l 32 tag (asQuery_moving l (served_moving fun _ _ s _ => serveStatus_works l s)) s
  · exact hq 33 _ _
  · exact hq 34 _ _
  · exact hq 35 _ _
  · exact hq 36 _ _
  · exact hq 37 _ _
  · exact hq 38 _ _
  · exact takeFrame_moves l type tag (asQuery_moving l fun _ _ => .refl) s

theorem collected_moves (l : Link) (bytes : List Byte) (s : State) : s.Moves (collected l bytes s) := by
  have hrec : ∀ r, s.Moves (setReceiver l r s) := fun r => (State.Move.receiver l r s).moves
  simp only [collected]
  split
  · split
    · exact hrec _
    · split
      · simp only [frameEnds]
        split
        · split
          · exact (hrec _).trans (handOn_moves l _ _ _ _)
          · exact hrec _
        · exact hrec _
      · exact hrec _
  · exact hrec _

theorem receiveByte_moves (l : Link) (b : Byte) (s : State) : s.Moves (receiveByte l b s) := by
  simp only [receiveByte]
  split
  · split
    · exact (State.Move.receiver l _ s).moves
    · exact .refl
  · exact collected_moves l _ s

theorem frameSendComplete_moves {l : Link} {s : State} (hw : s.works = true) : s.Moves (frameSendComplete l s) := by
  simp only [frameSendComplete]
  split
  · split
    · refine (State.Move.reset (.hold .resetCommand) s.resetInput fun hl hi => ?_).moves
      obtain ⟨c, hc⟩ := hl hi
      simp [State.works, hc] at hw
    · exact (State.Move.sent l s).moves
  · exact .refl

theorem attention_moves (l : Link) (s : State) : s.Moves (attention l s) := by
  simp only [attention]
  split
  · exact (State.Move.opportunity l s).moves
  · exact .refl

/-! ### Resets and start-up -/

theorem powerOn_moves (s : State) : s.Moves (powerOn s) := by
  exact (State.Move.reset (if s.resetInput then .inReset .powerOn else .hold .powerOn) s.resetInput
    fun _ hi => ⟨_, if_pos hi⟩).moves

theorem supplyLow_moves (s : State) : s.Moves (supplyLow s) := by
  simp only [supplyLow]
  split
  · rename_i hp
    refine (State.Move.phase (.hold .supplyLow) s.resetInput fun hl hi => ?_).moves
    obtain ⟨c, hc⟩ := hl hi
    rw [hp] at hc
    cases hc
  · exact (State.Move.phase (.inReset .supplyLow) s.resetInput fun _ _ => ⟨_, rfl⟩).moves
  all_goals exact (State.Move.reset (.inReset .supplyLow) s.resetInput fun _ _ => ⟨_, rfl⟩).moves

theorem resetEnd_moves (s : State) : s.Moves (resetEnd s) := by
  simp only [resetEnd]
  split
  · exact (State.Move.phase (.hold _) false fun _ hf => by cases hf).moves
  all_goals exact .refl

theorem restartEntries_works (cause : ResetCause) (s : State) : s.Works (restartEntries cause s) := by
  simp only [restartEntries]
  split
  · exact (State.QuietOp.enter _ s).works.then (.enter _ _)
  · exact (State.QuietOp.enter _ s).works

theorem senseSlot_works (s : State) (place : Desk × SlotId) : s.Works (senseSlot s place) := by
  have h : ∀ c s, State.Works s (senseContact place.1 place.2 c s) := fun c s => by
    simp only [senseContact]
    split
    · exact (State.QuietOp.closeContact _ _ c s).works
    · exact .refl
  exact (h .c1 s).trans (h .c2 _)

theorem startupHoldEnd_moves (s : State) : s.Moves (startupHoldEnd s) := by
  simp only [startupHoldEnd]
  split
  · rename_i cause hp
    have hload : s.Moves (loadStore (resetTo .running s)) := by
      refine (State.Move.load .running fun hl hi => ?_).moves
      obtain ⟨c, hc⟩ := hl hi
      rw [hp] at hc
      cases hc
    have hsense := foldl_works senseSlot_works slotPlaces (loadStore (resetTo .running s))
    have hrun := (hsense.tail (.cycleStart _)).trans (restartEntries_works cause _)
    exact (hload.trans (State.Works.moves hrun)).tail (.hello cause _)
  all_goals exact .refl

/-! ### Every command -/

theorem whileWorking_moves {event : State → State} {s : State} (h : s.works = true → s.Moves (event s)) :
    s.Moves (whileWorking event s) := by
  simp only [whileWorking]
  split
  · rename_i hw; exact h hw
  · exact .refl

/-- A command of the blocks' own, run while they work. -/
theorem whileWorking_works {event : State → State} (h : ∀ s, State.Works s (event s)) (s : State) :
    s.Moves (whileWorking event s) :=
  whileWorking_moves fun _ => (h s).moves

/-- Every command is a chain of the part's operations. -/
theorem exec_moves {i : Instr} {s t : State} (h : exec i s = .next t) : s.Moves t := by
  cases i <;> injection h with h <;> subst h
  case setPoint l tag body => exact handOn_moves l 1 tag body s
  case clearPoint l tag body => exact handOn_moves l 2 tag body s
  case assignArea l tag body => exact handOn_moves l 3 tag body s
  case setOperator l tag body => exact handOn_moves l 4 tag body s
  case clearOperator l tag body => exact handOn_moves l 5 tag body s
  case ack l tag body => exact handOn_moves l 6 tag body s
  case silence l tag body => exact handOn_moves l 7 tag body s
  case shelve l tag body => exact handOn_moves l 8 tag body s
  case unshelve l tag body => exact handOn_moves l 9 tag body s
  case handoverOpen l tag body => exact handOn_moves l 10 tag body s
  case handoverCancel l tag body => exact handOn_moves l 11 tag body s
  case handoverCommit l tag body => exact handOn_moves l 12 tag body s
  case brief l tag body => exact handOn_moves l 13 tag body s
  case timeMark l tag body => exact handOn_moves l 14 tag body s
  case setSchedule l tag body => exact handOn_moves l 15 tag body s
  case setDesk l tag body => exact handOn_moves l 16 tag body s
  case setLimits l tag body => exact handOn_moves l 17 tag body s
  case setFlash l tag body => exact handOn_moves l 18 tag body s
  case attnControl l tag body => exact handOn_moves l 19 tag body s
  case attnClear l tag body => exact handOn_moves l 20 tag body s
  case storeSave l tag body => exact handOn_moves l 21 tag body s
  case takeCommand l tag body => exact handOn_moves l 22 tag body s
  case reset l tag body => exact handOn_moves l 23 tag body s
  case status l tag body => exact handOn_moves l 32 tag body s
  case pointRead l tag body => exact handOn_moves l 33 tag body s
  case listRead l tag body => exact handOn_moves l 34 tag body s
  case journalRead l tag body => exact handOn_moves l 35 tag body s
  case deskRead l tag body => exact handOn_moves l 36 tag body s
  case operatorRead l tag body => exact handOn_moves l 37 tag body s
  case timeRead l tag body => exact handOn_moves l 38 tag body s
  case unacceptedTypeFrame l type tag body => exact takeFrame_moves l type tag (asQuery_moving l fun _ _ => .refl) s
  case frameCheckFailed l => exact whileWorking_moves fun _ => (State.Move.receiver l _ s).moves
  case frameByteGapTimeout l => exact whileWorking_moves fun _ => (State.Move.receiver l _ s).moves
  case frameSendComplete l => exact whileWorking_moves frameSendComplete_moves
  case attention l => exact whileWorking_moves fun _ => attention_moves l s
  case linkLost => exact whileWorking_works linkLost_works s
  case intakeFrame l bytes => exact whileWorking_works (intakeFrame_works l bytes) s
  case intakeTake l => exact whileWorking_works (intakeTake_works l) s
  case secondEvent => exact whileWorking_works secondEvent_works s
  case escalation => exact whileWorking_works escalation_works s
  case loadUpdate => exact whileWorking_works loadUpdate_works s
  case dueLate => exact whileWorking_works dueLate_works s
  case minutePulse => exact whileWorking_works minutePulse_works s
  case shelfExpiry t => exact whileWorking_works (shelfExpiry_works t) s
  case handoverTimeout d => exact whileWorking_works (handoverTimeout_works d) s
  case storeWriteComplete agrees => exact whileWorking_works (storeWriteComplete_works agrees) s
  case flashTick => exact whileWorking_works flashTick_works s
  case cycleStart => exact whileWorking_works cycleStartEvent_works s
  case contactClose d k c =>
    exact (setPin_quietOp d k c true s).works.moves.trans
      (whileWorking_works (fun s => (State.QuietOp.closeContact d k c s).works) _)
  case contactOpen d k c =>
    exact (setPin_quietOp d k c false s).works.moves.trans (whileWorking_works (openContact_works d k c) _)
  case settleEnd d k x y => exact whileWorking_works (settleEnd_works d k x y) s
  case readComplete d k r => exact whileWorking_works (readComplete_works d k r) s
  case readTimeout d k => exact whileWorking_works (readTimeout_works d k) s
  case ackPress d => exact whileWorking_works (ackPress_works d) s
  case silencePress d => exact whileWorking_works (silencePress_works d) s
  case handPress d => exact whileWorking_works (handPress_works d) s
  case powerOn => exact powerOn_moves s
  case supplyLow => exact supplyLow_moves s
  case resetPin => exact (State.Move.reset (.inReset .resetPin) true fun _ _ => ⟨_, rfl⟩).moves
  case startupHoldEnd => exact startupHoldEnd_moves s
  case receiverTakesByte l b => exact whileWorking_moves fun _ => receiveByte_moves l b s
  case resetEnd => exact resetEnd_moves s

/-- Every step is a chain of the part's operations. -/
theorem step_moves {s t : State} (h : step s = .next t) : s.Moves t := by
  simp only [step] at h
  split at h
  · exact (pending_work _ s).works.moves.trans (exec_moves h)
  · cases h; exact .refl

/-- A law that every operation of the part keeps is kept by every step. -/
theorem step_keeps {P : State → Prop} (hP : ∀ s t : State, s.Move t → P s → P t) {s t : State} (hs : P s)
    (h : step s = .next t) : P t := by
  have hm := step_moves h
  clear h
  induction hm with
  | refl => exact hs
  | tail _ hm ih => exact hP _ _ hm ih

end Sys2Proof.Machine
end

section
/-! PROOFS. The laws of what is stored, of the settings, of flood and handover, and of the links: every operation of the
part keeps them, and so every step (O3, O4, O5, O6). -/

namespace Sys2Proof.Machine

/-! ### Quiet operations, field by field -/

theorem State.Quiet.images {s t : State} (h : s.Quiet t) : t.images = s.images := by
  have hstore : t.store = s.store := by rw [h.rest]
  have himage : t.image = s.image := by rw [h.rest]
  simp only [State.images, hstore, himage]

theorem State.Quiet.eventLink {s t : State} (h : s.Quiet t) (l : EventLink) : t.eventLink l = s.eventLink l := by
  rw [h.rest]; rfl

theorem carriedLawful_iff {s : State} : s.CarriedLawful ↔ ∀ d, (s.unit d).state.CarriedOk := by
  refine forall_congr' fun d => ?_
  simp only [State.carried, DeskState.CarriedOk]
  cases (s.unit d).state.handover? <;> simp

/-! ### What a reset and a load leave -/

theorem resetTo_unit (p : Phase) (s : State) (d : Desk) :
    (resetTo p s).unit d = keepPins (State.reset.unit d) (s.unit d) := PerDesk.get_of _ d

theorem resetTo_state (p : Phase) (s : State) (d : Desk) : ((resetTo p s).unit d).state = .vacant := by
  rw [resetTo_unit]; cases d <;> rfl

theorem resetTo_image_mem {p : Phase} {s : State} {i : Image} (h : (resetTo p s).image = some i) : i ∈ s.images := by
  have himage : (resetTo p s).image = match s.store with
      | .writing _ => none
      | .valid | .invalid => s.image := rfl
  rw [himage] at h
  simp only [State.images]
  split at h
  · cases h
  all_goals simp [h]

theorem resetTo_images {p : Phase} {s : State} {i : Image} (h : i ∈ (resetTo p s).images) : i ∈ s.images := by
  have himages : (resetTo p s).images = (resetTo p s).image.toList ++ [] := rfl
  rw [himages, List.append_nil, Option.mem_toList] at h
  exact resetTo_image_mem h

/-- The store gives the settings of the image, or of the factory (R200). -/
theorem loadStore_eq (s : State) : ∃ image st, loadStore s = { loadImage image s with store := st } ∧
    (s.image = some image ∨ image = factoryImage) ∧ (st = .valid ∨ st = .invalid) := by
  simp only [loadStore]
  split
  · rename_i i hi
    exact ⟨i, .valid, rfl, .inl hi, .inl rfl⟩
  · exact ⟨factoryImage, .invalid, rfl, .inr rfl, .inr rfl⟩

theorem loadImage_unit (image : Image) (s : State) (d : Desk) :
    (loadImage image s).unit d = loadDesk (image.desks.get d) (s.unit d) := PerDesk.get_of _ d

theorem loadDesk_handover (c : StoredDesk) (u : DeskUnit) : (loadDesk c u).state.handover? = none := by
  simp only [loadDesk]
  split <;> rfl

/-- An image that the part holds, or the factory's, is what a load takes its settings from. -/
theorem loadStore_resetTo_eq (p : Phase) (s : State) : ∃ image st,
    loadStore (resetTo p s) = { loadImage image (resetTo p s) with store := st } ∧
    (image ∈ s.images ∨ image = factoryImage) ∧ (st = .valid ∨ st = .invalid) := by
  obtain ⟨image, st, he, hi, hst⟩ := loadStore_eq (resetTo p s)
  exact ⟨image, st, he, hi.imp_left resetTo_image_mem, hst⟩

theorem loaded_images {image : Image} {st : StoreState} (hst : st = .valid ∨ st = .invalid) (s : State) :
    State.images { loadImage image s with store := st } = s.image.toList := by
  obtain rfl | rfl := hst <;> simp [State.images, loadImage]

/-! ### Loads and openings -/

theorem nextLoad_le (w l : Nat) : nextLoad w l ≤ 4095 := Nat.min_le_left _ _

/-- The update of a target's load: the new figure with no sum and a flag, then quiet work (R56, R58). -/
theorem updateLoad_quiet (x : Target) (s : State) : ∃ flood,
    (s.putLoad x { w := 0, l := nextLoad (s.loadOf x).w (s.loadOf x).l, flood := flood }).Quiet (updateLoad x s) := by
  simp only [updateLoad]
  split
  · split
    · exact ⟨_, enter_quiet _ _⟩
    · exact ⟨_, .refl _⟩
  · split
    · cases x with
      | room => exact ⟨_, enter_quiet _ _⟩
      | desk d => exact ⟨_, (enter_quiet _ _).trans (abortHandover_quiet d .flood _)⟩
    · exact ⟨_, .refl _⟩

/-- What the tests of an opening grant (R120). -/
theorem mayOpen_ok {d : Desk} {s : State} {k : SlotId} {op : OpIndex} (h : mayOpen d s = .ok (k, op)) :
    (s.unit d).state = .attended k ∧ (s.loadOf (.desk d)).flood = false ∧ (s.toCarry d).length ≤ 32 ∧
      ∃ r, s.holderRecord d = some (op, r) := by
  simp only [mayOpen] at h
  split at h
  · cases h
  · rename_i hh
    split at h
    · cases h
    · rename_i hk
      cases h
      have hcarried : Config.carriedDepth = 32 := rfl
      simp only [holderWith] at hh
      simp only [openTests] at hk
      split at hh
      · cases hh
      · rename_i hrec
        split at hh
        · split at hk
          · split at hk
            · cases hk
            · split at hk
              · cases hk
              · rename_i hst hflood hlen
                cases hk
                cases hh
                exact ⟨hst, by simpa using hflood, by omega, _, hrec⟩
          · cases hk
        · cases hh

theorem insertItem_perm (b : Item → Item → Bool) (x : Item) (l : List Item) : (insertItem b x l).Perm (x :: l) := by
  induction l with
  | nil => exact .refl _
  | cons y rest ih =>
    simp only [insertItem]
    split
    · exact (ih.cons y).trans (.swap x y rest)
    · exact .refl _

theorem sortItems_perm (b : Item → Item → Bool) (l : List Item) : (sortItems b l).Perm l := by
  induction l with
  | nil => exact .refl _
  | cons x rest ih => exact (insertItem_perm b x _).trans (ih.cons x)

theorem tableWf_nodup {n : Nat} {α : Type} {t : Table n α} (h : tableWf t = true) : (t.map (·.1)).Nodup := by
  induction t with
  | nil => simp
  | cons e rest ih =>
    obtain ⟨hlt, hrest⟩ := tableWf_cons.1 h
    rw [List.map_cons, List.nodup_cons]
    refine ⟨fun hmem => ?_, ih hrest⟩
    obtain ⟨e', he', heq⟩ := List.mem_map.1 hmem
    exact absurd (hlt e' he') (by rw [heq]; exact lt_irrefl _)

theorem attentionList_nodup {s : State} (h : tableWf s.points = true) (x : Target) :
    ((s.attentionList x).map (·.1)).Nodup := by
  refine (((sortItems_perm _ _).map (·.1)).nodup_iff).2 ?_
  exact (tableWf_nodup h).sublist (List.filter_sublist.map _)

/-- What an opening carries names no point twice (R119, R121). -/
theorem toCarry_nodup {s : State} (h : tableWf s.points = true) (d : Desk) : ((s.toCarry d).map (·.tag)).Nodup := by
  have hsub : ((s.toCarry d).map (·.tag)).Sublist ((s.attentionList (.desk d)).map (·.1)) := by
    simp only [State.toCarry]
    generalize s.attentionList (.desk d) = l
    induction l with
    | nil => simp
    | cons e rest ih =>
      rw [List.filterMap_cons]
      split
      · exact ih.cons _
      · rename_i c hc
        have htag : c.tag = e.1 := by
          split at hc
          · split at hc
            · cases hc; rfl
            · cases hc
          · cases hc
        simpa [htag] using ih
  exact (attentionList_nodup h _).sublist hsub

/-! ### What is stored (O3) -/

/-- The laws of what is stored, together. -/
def State.StorageLawful (s : State) : Prop :=
  s.TablesLawful ∧ s.JournalLawful ∧ s.LoadLawful ∧ s.IntakeLawful ∧ s.CarriedLawful

theorem State.Quiet.storage {s t : State} (h : s.Quiet t) (hs : s.StorageLawful) : t.StorageLawful := by
  obtain ⟨⟨hp, hop, how, him⟩, hj, hl, hi, hc⟩ := hs
  refine ⟨⟨h.points hp, by rw [h.operators]; exact hop, h.owners how, by rw [h.images]; exact him⟩, h.journal hj,
    fun u => ?_, fun l => by rw [h.eventLink]; exact hi l, ?_⟩
  · obtain ⟨h1, -, h3⟩ := h.load u
    exact ⟨h3 (hl u).1, by rw [h1]; exact (hl u).2⟩
  · rw [carriedLawful_iff] at hc ⊢
    exact fun d => h.carried d (hc d)

theorem storedPoints_wf {s : State} (h : tableWf s.points = true) : tableWf s.storedPoints = true := by
  simp only [State.storedPoints]
  exact tableMap_wf (tableWf_filter h _) _

theorem snapshot_tables {s : State} (h : s.TablesLawful) :
    tableWf s.snapshot.points = true ∧ tableWf s.snapshot.operators = true :=
  ⟨storedPoints_wf h.1, h.2.1⟩

theorem adoptFlood_storage {s : State} (hs : s.StorageLawful) : (adoptFlood s).StorageLawful := by
  simp only [adoptFlood]
  split <;> exact hs

theorem cycleStart_unit (s : State) (d : Desk) :
    (cycleStart s).unit d = { s.unit d with lamps := chooseLamps s d } := PerDesk.get_of _ d

theorem mem_images_put {s : State} {st : StoreState} {im : Option Image} {i : Image}
    (h : i ∈ State.images { s with store := st, image := im }) : im = some i ∨ st = .writing i := by
  simp only [State.images, List.mem_append, Option.mem_toList] at h
  refine h.imp id fun h => ?_
  split at h
  · simp only [List.mem_singleton] at h
    rw [h]
  all_goals cases h

theorem State.Work.storage {s t : State} (h : s.Work t) (hs : s.StorageLawful) : t.StorageLawful := by
  have hs' := hs
  obtain ⟨⟨hp, hop, how, him⟩, hj, hl, hi, hc⟩ := hs'
  rw [carriedLawful_iff] at hc
  cases h with
  | quiet h => exact h.quiet.storage hs
  | adoptFlood => exact adoptFlood_storage hs
  | updateLoad x =>
    obtain ⟨flood, hq⟩ := updateLoad_quiet x s
    refine hq.storage ⟨⟨hp, hop, how, him⟩, hj, fun u => ?_, hi, carriedLawful_iff.2 hc⟩
    rw [State.loadOf_putLoad]
    split
    · exact ⟨Nat.zero_le _, nextLoad_le _ _⟩
    · exact hl u
  | opening h =>
    obtain ⟨-, -, hlen, -⟩ := mayOpen_ok h
    refine (openHandover_quiet _ _ _ s).storage ⟨⟨hp, hop, how, him⟩, hj, hl, hi, carriedLawful_iff.2 fun e => ?_⟩
    simp only [State.putDeskState, State.unit_putUnit]
    split
    · intro x hx
      cases hx
      exact ⟨hlen, toCarry_nodup hp _⟩
    · exact hc e
  | intake l h =>
    refine ⟨⟨hp, hop, how, him⟩, hj, hl, fun m => ?_, carriedLawful_iff.2 hc⟩
    simp only [State.eventLink, State.putEventLink, PerEventLink.get_set]
    split
    · exact h hi
    · exact hi m
  | config d home h =>
    refine ⟨⟨hp, hop, how, him⟩, hj, hl, hi, carriedLawful_iff.2 fun e => ?_⟩
    rw [State.unit_putUnit]
    split
    · rename_i he; rw [he] at *; exact hc d
    · exact hc e
  | cycleStart =>
    refine ⟨⟨hp, hop, how, him⟩, hj, hl, hi, carriedLawful_iff.2 fun e => ?_⟩
    rw [cycleStart_unit]
    exact hc e
  | store st im h =>
    refine ⟨⟨hp, hop, how, fun i hi => ?_⟩, hj, hl, hi, carriedLawful_iff.2 hc⟩
    obtain hi | rfl := h i (mem_images_put hi)
    · exact him i hi
    · exact snapshot_tables ⟨hp, hop, how, him⟩
  | setOperator i r =>
    exact (applySetOperator_quiet i r s).storage ⟨⟨hp, tablePut_wf hop i r, how, him⟩, hj, hl, hi, carriedLawful_iff.2 hc⟩
  | clearOperator i =>
    obtain h | h := serveClearOperator_quiet i s
    · rw [h]; exact hs
    · exact h.storage ⟨⟨hp, tableErase_wf hop i, how, him⟩, hj, hl, hi, carriedLawful_iff.2 hc⟩
  | _ => exact hs

/-- After a reset only the images are left of what was stored. -/
theorem resetTo_storage {p : Phase} {input : Bool} {s : State}
    (him : ∀ i ∈ s.images, tableWf i.points = true ∧ tableWf i.operators = true) :
    State.StorageLawful { resetTo p s with resetInput := input } := by
  refine ⟨⟨rfl, rfl, rfl, fun i hi => him i (resetTo_images (p := p) hi)⟩, ⟨Nat.zero_le _, rfl⟩, fun t => ?_, fun l => ?_,
    carriedLawful_iff.2 fun d => ?_⟩
  · cases t with
    | room => exact ⟨Nat.zero_le _, Nat.zero_le _⟩
    | desk d => cases d <;> exact ⟨Nat.zero_le _, Nat.zero_le _⟩
  · cases l <;> exact ⟨Nat.zero_le _, iff_of_false Bool.false_ne_true (Nat.zero_ne_add_one 7)⟩
  · have hst : (State.unit { resetTo p s with resetInput := input } d).state = .vacant := resetTo_state p s d
    rw [hst]
    intro x hx
    cases hx

theorem loadStore_resetTo_storage (p : Phase) {s : State}
    (him : ∀ i ∈ s.images, tableWf i.points = true ∧ tableWf i.operators = true) :
    (loadStore (resetTo p s)).StorageLawful := by
  obtain ⟨-, hj, hl, hi, -⟩ := resetTo_storage (p := p) (input := s.resetInput) him
  obtain ⟨image, st, he, himage, hst⟩ := loadStore_resetTo_eq p s
  have hwf : tableWf image.points = true ∧ tableWf image.operators = true := by
    obtain h | rfl := himage
    · exact him image h
    · exact ⟨rfl, rfl⟩
  rw [he]
  refine ⟨⟨tableMap_wf hwf.1 fun _ c => newPoint c, hwf.2, rfl, fun i hi => ?_⟩, hj, hl, hi, carriedLawful_iff.2 fun d => ?_⟩
  · rw [loaded_images hst, Option.mem_toList] at hi
    exact him i (resetTo_image_mem hi)
  · have hunit : State.unit { loadImage image (resetTo p s) with store := st } d =
        loadDesk (image.desks.get d) ((resetTo p s).unit d) := loadImage_unit image _ d
    rw [hunit]
    intro x hx
    rw [loadDesk_handover] at hx
    cases hx

theorem State.Move.storage {s t : State} (h : s.Move t) (hs : s.StorageLawful) : t.StorageLawful := by
  cases h with
  | work h => exact h.storage hs
  | reset p input _ => exact resetTo_storage hs.1.2.2.2
  | load p _ => exact loadStore_resetTo_storage p hs.1.2.2.2
  | _ => exact hs

/-- Settles O3: every operation of the part keeps the laws of what is stored. -/
theorem stepKeepsStorage : Obligations.StepKeepsStorage := fun _ _ hs h =>
  step_keeps (P := State.StorageLawful) (fun _ _ => State.Move.storage) hs h

/-! ### The settings, the flash cycle and the horn (O4) -/

/-- The laws of the settings, the flash cycle and the horn, together. -/
def State.RangesLawful (s : State) : Prop :=
  s.FlashLawful ∧ s.SettingsLawful ∧ s.HornLawful

theorem State.Quiet.ranges {s t : State} (h : s.Quiet t) (hs : s.RangesLawful) : t.RangesLawful := by
  obtain ⟨⟨hflash, hstaged, hfim, hpos⟩, ⟨hlim, hheld, hsched, hdesk, hsim⟩, hcount, hout⟩ := hs
  have himages := h.images
  have hunit : ∀ d, (t.unit d).tone ≤ 7 ∧ 1 ≤ (t.unit d).hornHold ∧ (t.unit d).hornHold ≤ 15 := fun d => by
    obtain ⟨-, htone, hhold, -⟩ := h.config d
    rw [htone, hhold]
    exact hdesk d
  rw [← himages] at hfim hsim
  refine ⟨⟨?_, ?_, hfim, ?_⟩, ⟨?_, ?_, ?_, hunit, hsim⟩, ?_, ?_⟩ <;> rw [h.rest] <;> assumption

theorem snapshot_flash {s : State} (h : s.FlashLawful) : s.snapshot.flash.Lawful := by
  obtain ⟨hflash, hstaged, -, -⟩ := h
  have he : s.snapshot.flash = s.staged.getD s.flash := rfl
  rw [he]
  cases hst : s.staged with
  | none => exact hflash
  | some f => exact hstaged f hst

theorem snapshot_limits {s : State} (h : s.SettingsLawful) : s.snapshot.limits.Lawful := by
  obtain ⟨hlim, hheld, -, -, -⟩ := h
  have he : s.snapshot.limits = { s.limits with flood := s.heldFlood.getD s.limits.flood } := rfl
  rw [he]
  cases hst : s.heldFlood with
  | none => exact hlim
  | some f => exact hheld f hst

theorem snapshot_desk (s : State) (d : Desk) : s.snapshot.desks.get d = s.storedDesk d := PerDesk.get_of _ d

theorem adoptFlood_ranges {s : State} (hs : s.RangesLawful) : (adoptFlood s).RangesLawful := by
  obtain ⟨hf, ⟨hlim, hheld, hsched, hdesk, hsim⟩, hh⟩ := hs
  simp only [adoptFlood]
  split
  · rename_i p hp
    exact ⟨hf, ⟨hheld p hp, fun _ h => (by cases h), hsched, hdesk, hsim⟩, hh⟩
  · exact ⟨hf, ⟨hlim, hheld, hsched, hdesk, hsim⟩, hh⟩

theorem countUp_le {h : Horn} (hc : h.count ≤ 15) : countUp h ≤ 15 := by
  simp only [countUp]
  split
  · split
    · exact Nat.min_le_left _ _
    · exact hc
  · exact hc

/-- The horn sounds for an owner with a request (R160). -/
theorem hornOutput_isSome (s : State) (owner : Option Target) (requests : PerTarget Bool) :
    (hornOutput s owner requests).isSome = true ↔ ∃ t, owner = some t ∧ requests.get t = true := by
  cases owner with
  | none => simp [hornOutput]
  | some t => by_cases hr : requests.get t = true <;> simp [hornOutput, hr]

theorem arbitrate_horn {s : State} (h : s.horn.count ≤ 15) : (arbitrate s).count ≤ 15 ∧
    ((arbitrate s).output.isSome = true ↔ ∃ t, (arbitrate s).owner = some t ∧ (arbitrate s).requests.get t = true) := by
  refine ⟨?_, hornOutput_isSome s _ _⟩
  have hcount : (arbitrate s).count = if (arbitrate s).owner = s.horn.owner then countUp s.horn else 0 := rfl
  rw [hcount]
  split
  · exact countUp_le h
  · exact Nat.zero_le _

theorem State.Work.ranges {s t : State} (h : s.Work t) (hs : s.RangesLawful) : t.RangesLawful := by
  have hs' := hs
  obtain ⟨hF, hS, hH⟩ := hs'
  have hF' := hF
  have hS' := hS
  obtain ⟨hflash, hstaged, hfim, hpos⟩ := hF'
  obtain ⟨hlim, hheld, hsched, hdesk, hsim⟩ := hS'
  cases h with
  | quiet h => exact h.quiet.ranges hs
  | limits h =>
    refine ⟨hF, ⟨?_, fun p hp => ?_, hsched, hdesk, hsim⟩, hH⟩
    · simp only [Limits.Lawful] at h hlim ⊢
      omega
    · cases hp
      exact h
  | adoptFlood => exact adoptFlood_ranges hs
  | staged h => exact ⟨⟨hflash, fun f hf => by cases hf; exact h, hfim, hpos⟩, hS, hH⟩
  | schedule h => exact ⟨hF, ⟨hlim, hheld, h, hdesk, hsim⟩, hH⟩
  | updateLoad x =>
    obtain ⟨flood, hq⟩ := updateLoad_quiet x s
    exact hq.ranges hs
  | opening h =>
    refine (openHandover_quiet _ _ _ s).ranges ⟨hF, ⟨hlim, hheld, hsched, fun e => ?_, hsim⟩, hH⟩
    simp only [State.putDeskState, State.unit_putUnit]
    split
    · exact hdesk _
    · exact hdesk e
  | config d home h =>
    refine ⟨hF, ⟨hlim, hheld, hsched, fun e => ?_, hsim⟩, hH⟩
    rw [State.unit_putUnit]
    split
    · exact h
    · exact hdesk e
  | cycleStart =>
    have hnow : (s.staged.getD s.flash).Lawful := snapshot_flash hF
    refine ⟨⟨hnow, fun _ h => (by cases h), hfim, Nat.lt_of_lt_of_le (by decide : 0 < 20) hnow.1⟩,
      ⟨hlim, hheld, hsched, fun e => ?_, hsim⟩, arbitrate_horn hH.1⟩
    rw [cycleStart_unit]
    exact hdesk e
  | tickOn h => exact ⟨⟨hflash, hstaged, hfim, h⟩, hS, hH⟩
  | store st im h =>
    refine ⟨⟨hflash, hstaged, fun i hi => ?_, hpos⟩, ⟨hlim, hheld, hsched, hdesk, fun i hi => ?_⟩, hH⟩
    · obtain hi | rfl := h i (mem_images_put hi)
      · exact hfim i hi
      · exact snapshot_flash hF
    · obtain hi | rfl := h i (mem_images_put hi)
      · exact hsim i hi
      · refine ⟨snapshot_limits hS, hsched, fun d => ?_⟩
        rw [snapshot_desk]
        exact hdesk d
  | setOperator i r => exact (applySetOperator_quiet i r s).ranges hs
  | clearOperator i =>
    obtain h | h := serveClearOperator_quiet i s
    · rw [h]; exact hs
    · exact h.ranges hs
  | _ => exact hs

theorem factory_ranges : factoryImage.flash.Lawful ∧ factoryImage.limits.Lawful ∧
    scheduleOk factoryImage.schedule = true ∧ ∀ d, (factoryImage.desks.get d).tone ≤ 7 ∧
      1 ≤ (factoryImage.desks.get d).hornHold ∧ (factoryImage.desks.get d).hornHold ≤ 15 := by
  refine ⟨by simp [factoryImage, Flash.Lawful], by simp [factoryImage, Limits.Lawful], rfl, fun d => ?_⟩
  cases d <;> decide

theorem reset_config (d : Desk) : (State.reset.unit d).tone ≤ 7 ∧ 1 ≤ (State.reset.unit d).hornHold ∧
    (State.reset.unit d).hornHold ≤ 15 := by
  cases d <;> decide

theorem reset_horn : State.reset.HornLawful := by
  refine ⟨Nat.zero_le _, iff_of_false (by decide) ?_⟩
  rintro ⟨t, h, -⟩
  cases h

theorem resetTo_ranges {p : Phase} {input : Bool} {s : State} (hs : s.RangesLawful) :
    State.RangesLawful { resetTo p s with resetInput := input } := by
  obtain ⟨⟨-, -, hfim, -⟩, ⟨-, -, -, -, hsim⟩, -⟩ := hs
  obtain ⟨hf, hl, hsc, -⟩ := factory_ranges
  refine ⟨⟨hf, fun _ h => (by cases h), fun i hi => hfim i (resetTo_images (p := p) hi), (by decide : 0 < 100)⟩,
    ⟨hl, fun _ h => (by cases h), hsc, fun d => ?_, fun i hi => hsim i (resetTo_images (p := p) hi)⟩, reset_horn⟩
  have hunit : State.unit { resetTo p s with resetInput := input } d = keepPins (State.reset.unit d) (s.unit d) :=
    resetTo_unit p s d
  rw [hunit]
  exact reset_config d

theorem loadStore_resetTo_ranges (p : Phase) {s : State} (hs : s.RangesLawful) :
    (loadStore (resetTo p s)).RangesLawful := by
  obtain ⟨⟨-, -, hfim, -⟩, ⟨-, -, -, -, hsim⟩, -⟩ := hs
  obtain ⟨image, st, he, himage, hst⟩ := loadStore_resetTo_eq p s
  have hlawful : image.flash.Lawful ∧ image.limits.Lawful ∧ scheduleOk image.schedule = true ∧ ∀ d,
      (image.desks.get d).tone ≤ 7 ∧ 1 ≤ (image.desks.get d).hornHold ∧ (image.desks.get d).hornHold ≤ 15 := by
    obtain h | rfl := himage
    · exact ⟨hfim image h, hsim image h⟩
    · exact factory_ranges
  obtain ⟨hf, hl, hsc, hd⟩ := hlawful
  have him : ∀ i ∈ State.images { loadImage image (resetTo p s) with store := st }, i ∈ s.images := fun i hi => by
    rw [loaded_images hst, Option.mem_toList] at hi
    exact resetTo_image_mem hi
  rw [he]
  refine ⟨⟨hf, fun _ h => (by cases h), fun i hi => hfim i (him i hi), Nat.lt_of_lt_of_le (by decide : 0 < 20) hf.1⟩,
    ⟨hl, fun _ h => (by cases h), hsc, fun d => ?_, fun i hi => hsim i (him i hi)⟩, reset_horn⟩
  have hunit : State.unit { loadImage image (resetTo p s) with store := st } d =
      loadDesk (image.desks.get d) ((resetTo p s).unit d) := loadImage_unit image _ d
  rw [hunit]
  exact hd d

theorem State.Move.ranges {s t : State} (h : s.Move t) (hs : s.RangesLawful) : t.RangesLawful := by
  cases h with
  | work h => exact h.ranges hs
  | reset p input _ => exact resetTo_ranges hs
  | load p _ => exact loadStore_resetTo_ranges p hs
  | _ => exact hs

/-- Settles O4: every operation of the part keeps the settings in their ranges and the horn in its law. -/
theorem stepKeepsSettings : Obligations.StepKeepsSettings := fun _ _ hs h =>
  step_keeps (P := State.RangesLawful) (fun _ _ => State.Move.ranges) hs h

/-! ### Flood and handover (O5) -/

theorem State.Quiet.floodLawful {s t : State} (h : s.Quiet t) (hs : s.FloodLawful) : t.FloodLawful := fun d hd => by
  rw [(h.load (.desk d)).2.1]
  exact hs d (h.handover d hd)

/-- An abort leaves a desk in no handover (R134). -/
theorem abortHandover_out (d : Desk) (reason : AbortReason) (s : State) :
    (abortHandover d reason s).inHandover d = false := by
  simp only [abortHandover, State.inHandover]
  split
  · rw [putDeskState_state]; rfl
  · rw [putDeskState_state]; rfl
  · cases hst : (s.unit d).state with
    | handoverOpen k h => exact absurd hst (by simp_all)
    | handoverReview k h op => exact absurd hst (by simp_all)
    | _ => rfl

@[simp] theorem enter_loadOf (w : Draft) (s : State) (x : Target) : (enter w s).loadOf x = s.loadOf x := by
  simp [State.loadOf]

/-- At the desk itself: a flag newly set ends the handover there, and one that was set finds none (R58, R61, R137). -/
theorem updateLoad_floodLawful {s : State} (x : Target) (hs : s.FloodLawful) : (updateLoad x s).FloodLawful := by
  intro e he
  obtain ⟨flood, hq⟩ := updateLoad_quiet x s
  have hin : s.inHandover e = true := hq.handover e he
  by_cases hx : x = .desk e
  · subst hx
    simp only [updateLoad] at he ⊢
    rw [if_neg (by simp [hs e hin])] at he ⊢
    split at he
    · exact absurd he (by rw [abortHandover_out]; decide)
    · rename_i hlow
      rw [if_neg hlow, State.loadOf_putLoad_self]
  · rw [(hq.load (.desk e)).2.1, State.loadOf_putLoad, if_neg (Ne.symm hx)]
    exact hs e hin

theorem State.Work.floodLawful {s t : State} (h : s.Work t) (hs : s.FloodLawful) : t.FloodLawful := by
  cases h with
  | quiet h => exact h.quiet.floodLawful hs
  | adoptFlood =>
    simp only [Sys2Proof.Machine.adoptFlood]
    split <;> exact hs
  | updateLoad x => exact updateLoad_floodLawful x hs
  | @opening d k op _ h =>
    obtain ⟨-, hflood, -, -⟩ := mayOpen_ok h
    refine (openHandover_quiet _ _ _ s).floodLawful fun e he => ?_
    by_cases hed : e = d
    · rw [hed]; exact hflood
    · simp only [State.inHandover, State.putDeskState, State.unit_putUnit, if_neg hed] at he
      exact hs e he
  | config d home h =>
    intro e he
    refine hs e ?_
    simp only [State.inHandover, State.unit_putUnit] at he ⊢
    split at he
    · rename_i hed; rw [hed]; exact he
    · exact he
  | cycleStart =>
    intro e he
    simp only [State.inHandover, cycleStart_unit] at he
    exact hs e he
  | setOperator i r => exact (applySetOperator_quiet i r s).floodLawful hs
  | clearOperator i =>
    obtain h | h := serveClearOperator_quiet i s
    · rw [h]; exact hs
    · exact h.floodLawful hs
  | _ => exact hs

theorem State.Move.floodLawful {s t : State} (h : s.Move t) (hs : s.FloodLawful) : t.FloodLawful := by
  cases h with
  | work h => exact h.floodLawful hs
  | reset p input _ =>
    intro d hd
    have hst : (State.unit { resetTo p s with resetInput := input } d).state = .vacant := resetTo_state p s d
    simp [State.inHandover, hst, DeskState.handover?] at hd
  | load p _ =>
    obtain ⟨image, st, he, -, -⟩ := loadStore_resetTo_eq p s
    intro d hd
    have hunit : (loadStore (resetTo p s)).unit d = loadDesk (image.desks.get d) ((resetTo p s).unit d) := by
      rw [he]; exact loadImage_unit image _ d
    simp [State.inHandover, hunit, loadDesk_handover] at hd
  | _ => exact hs

/-- Settles O5: a flag that is set ends the handover there, and an opening needs it clear. -/
theorem stepKeepsFloodOutOfHandover : Obligations.StepKeepsFloodOutOfHandover := fun _ _ hs h =>
  step_keeps (P := State.FloodLawful) (fun _ _ => State.Move.floodLawful) hs h

/-! ### Links and the reset input (O6) -/

/-- The law of one link (R193). -/
def SupLink.Lawful (l : SupLink) : Prop :=
  l.taken ≤ 4 ∧ l.busyCount ≤ 1 ∧ (l.sending = none → l.waiting = [])

theorem State.LinksKept.links {s t : State} (h : s.LinksKept t) (hs : s.LinksLawful) : t.LinksLawful := fun l => by
  rw [h l]; exact hs l

/-- An update of one link keeps the law if that link keeps it. -/
theorem putLink_links {s : State} {l : Link} {v : SupLink} (hs : s.LinksLawful) (hv : v.Lawful) :
    (s.putLink l v).LinksLawful := by
  intro m
  rw [State.link_putLink]
  split
  · exact hv
  · exact hs m

/-- After its opportunity a link that sends nothing has nothing waiting (R187, R193). -/
theorem opportunity_idle {classes : ClassSet} {l : SupLink} (h : (l.opportunity classes).sending = none) :
    (l.opportunity classes).waiting = [] := by
  have hstart : ∀ l : SupLink, l.sending = none → l.startWaiting.sending = none → l.startWaiting.waiting = [] := by
    intro l _ h
    cases hw : l.waiting with
    | nil => simp only [SupLink.startWaiting, hw]
    | cons f rest => simp [SupLink.startWaiting, hw] at h
  simp only [SupLink.opportunity] at h ⊢
  split at h
  · rename_i hs; rw [h] at hs; cases hs
  · rename_i hs
    rw [if_neg hs]
    have hnone : l.sending = none := by simpa using hs
    split at h
    · rename_i hn
      rw [if_pos hn]
      split at h
      · cases h
      · rename_i hc
        rw [if_neg hc]
        exact hstart _ hnone h
    · rename_i hn
      rw [if_neg hn]
      exact hstart _ hnone h

theorem opportunity_lawful (classes : ClassSet) {l : SupLink} (ht : l.taken ≤ 4) (hb : l.busyCount ≤ 1) :
    (l.opportunity classes).Lawful :=
  ⟨by rwa [opportunity_taken], by rwa [opportunity_busyCount], opportunity_idle⟩

/-- Taking the frame being sent off a link leaves no more frames on it. -/
theorem unsent_sent_sublist (l : SupLink) : ({ l with sending := none } : SupLink).unsent.Sublist l.unsent :=
  List.sublist_append_right _ _

theorem offer_unsent (f : OutFrame) {l : SupLink} (h : l.sending = none → l.waiting = []) :
    (l.offer f).unsent = l.unsent ++ [f] := by
  simp only [SupLink.offer, SupLink.unsent]
  cases hs : l.sending with
  | some x => simp
  | none => simp [h hs]

theorem offer_lawful {f : OutFrame} {l : SupLink} (hl : l.Lawful) (h4 : f.role.holdsPlace = true → l.taken < 4)
    (hb : f.role = .busyReply → l.busyUnsent = false) : (l.offer f).Lawful := by
  obtain ⟨ht, hbusy, hidle⟩ := hl
  refine ⟨?_, ?_, fun h => ?_⟩
  · simp only [SupLink.taken, offer_unsent f hidle, List.filter_append, List.length_append] at *
    by_cases hp : f.role.holdsPlace = true
    · simpa [hp] using h4 hp
    · simpa [hp] using ht
  · rw [busyUnsent_eq] at hb
    simp only [SupLink.busyCount, offer_unsent f hidle, List.filter_append, List.length_append] at *
    by_cases hp : f.role = .busyReply
    · simpa [hp] using hb hp
    · simpa [hp] using hbusy
  · simp only [SupLink.offer] at h ⊢
    split at h
    · rename_i hs; rw [h] at hs; cases hs
    · cases h

theorem State.Move.linksLawful {s t : State} (h : s.Move t) (hs : s.LinksLawful) : t.LinksLawful := by
  cases h with
  | work h => exact h.linksKept.links hs
  | receiver l r => exact putLink_links hs (hs l)
  | opportunity l => exact putLink_links hs (opportunity_lawful _ (hs l).1 (hs l).2.1)
  | offer l h4 hb => exact putLink_links hs (offer_lawful (hs l) h4 hb)
  | sent l =>
    have hput : ∀ m, ((s.putLink l { s.link l with sending := none }).link m).taken ≤ 4 ∧
        ((s.putLink l { s.link l with sending := none }).link m).busyCount ≤ 1 := fun m => by
      rw [State.link_putLink]
      split
      · exact ⟨((unsent_sent_sublist _).filter _).length_le.trans (hs l).1,
          ((unsent_sent_sublist _).filter _).length_le.trans (hs l).2.1⟩
      · exact ⟨(hs m).1, (hs m).2.1⟩
    intro m
    by_cases hm : m = l
    · subst hm
      have hlink := State.link_putLink_self (s.putLink m { s.link m with sending := none }) m
        (((s.putLink m { s.link m with sending := none }).link m).opportunity s.noticeClasses)
      have := opportunity_lawful s.noticeClasses (hput m).1 (hput m).2
      rw [← hlink] at this
      exact this
    · simp only [takeOpportunity, State.link_putLink, if_neg hm]
      exact hs m
  | hello cause =>
    intro m
    have hone : ∀ l : SupLink, l.Lawful → ({ l with sending := some (helloFrame cause (decide (s.store = .valid))) } :
        SupLink).Lawful := fun l hl =>
      ⟨(((List.sublist_append_right _ _).filter _).length_le.trans hl.1 :
          (l.waiting.filter fun f => f.role.holdsPlace).length ≤ 4),
        (((List.sublist_append_right _ _).filter _).length_le.trans hl.2.1 :
          (l.waiting.filter fun f => decide (f.role = .busyReply)).length ≤ 1), fun h => by cases h⟩
    cases m with
    | s0 => exact hone _ (hs .s0)
    | s1 => exact hone _ (hs .s1)
  | phase p input _ => exact hs
  | reset p input _ => intro l; cases l <;> exact ⟨Nat.zero_le _, Nat.zero_le _, fun _ => rfl⟩
  | load p _ =>
    obtain ⟨image, st, he, -, -⟩ := loadStore_resetTo_eq p s
    rw [he]
    intro l
    cases l <;> exact ⟨Nat.zero_le _, Nat.zero_le _, fun _ => rfl⟩

theorem State.Quiet.resetInput {s t : State} (h : s.Quiet t) : t.resetInput = s.resetInput := by rw [h.rest]

theorem State.Quiet.resetLawful {s t : State} (h : s.Quiet t) (hs : s.ResetLawful) : t.ResetLawful := by
  intro hi
  rw [h.phase]
  exact hs (by rwa [h.resetInput] at hi)

theorem State.Work.resetLawful {s t : State} (h : s.Work t) (hs : s.ResetLawful) : t.ResetLawful := by
  cases h with
  | quiet h => exact h.quiet.resetLawful hs
  | adoptFlood =>
    simp only [Sys2Proof.Machine.adoptFlood]
    split <;> exact hs
  | updateLoad x =>
    obtain ⟨flood, hq⟩ := updateLoad_quiet x s
    exact hq.resetLawful hs
  | opening h => exact (openHandover_quiet _ _ _ s).resetLawful hs
  | setOperator i r => exact (applySetOperator_quiet i r s).resetLawful hs
  | clearOperator i =>
    obtain h | h := serveClearOperator_quiet i s
    · rw [h]; exact hs
    · exact h.resetLawful hs
  | closing h =>
    intro hi
    obtain ⟨c, hc⟩ := hs hi
    rw [h] at hc
    cases hc
  | _ => exact hs

theorem State.Move.resetLawful {s t : State} (h : s.Move t) (hs : s.ResetLawful) : t.ResetLawful := by
  cases h with
  | work h => exact h.resetLawful hs
  | phase p input h => exact h hs
  | reset p input h => exact h hs
  | load p h =>
    obtain ⟨image, st, he, -, -⟩ := loadStore_resetTo_eq p s
    rw [he]
    exact h hs
  | _ => exact hs

/-- Settles O6: a link is added to while it has room and never left idle with frames waiting, and no operation takes
the part out of reset while the reset input is asserted. -/
theorem stepKeepsLinks : Obligations.StepKeepsLinks :=
  ⟨fun _ _ hs h => step_keeps (P := State.LinksLawful) (fun _ _ => State.Move.linksLawful) hs h,
    fun _ _ hs h => step_keeps (P := State.ResetLawful) (fun _ _ => State.Move.resetLawful) hs h⟩

end Sys2Proof.Machine
end

section
/-! PROOFS. Work at one desk: what the operations of a desk unit leave alone beside that desk, the ownership table and
the journal. -/

namespace Sys2Proof.Machine

/-- From `s` to `t` only desk `d`, the ownership table, the journal, the attention flags and the links may differ. -/
structure State.AtDesk (d : Desk) (s t : State) : Prop where
  rest : t = { s with owners := t.owners, desks := t.desks, journal := t.journal, nextSeq := t.nextSeq
                      attention := t.attention, links := t.links }
  others : ∀ e, e ≠ d → t.unit e = s.unit e

namespace State.AtDesk

theorem refl (d : Desk) (s : State) : AtDesk d s s := ⟨rfl, fun _ _ => rfl⟩

theorem trans {d : Desk} {s t u : State} (h : AtDesk d s t) (k : AtDesk d t u) : AtDesk d s u where
  rest := by
    have h1 := h.rest
    have h2 := k.rest
    rw [h1] at h2
    exact h2
  others e he := by rw [k.others e he, h.others e he]

theorem foldl {α : Type} {d : Desk} {f : State → α → State} (h : ∀ (s : State) a, AtDesk d s (f s a)) (l : List α)
    (s : State) : AtDesk d s (l.foldl f s) := by
  induction l generalizing s with
  | nil => exact refl d s
  | cons a rest ih => exact (h s a).trans (ih (f s a))

variable {d : Desk} {s t : State} (h : AtDesk d s t)
include h

theorem phase : t.phase = s.phase := by rw [h.rest]
theorem runSeconds : t.runSeconds = s.runSeconds := by rw [h.rest]
theorem points : t.points = s.points := by rw [h.rest]
theorem operators : t.operators = s.operators := by rw [h.rest]
theorem supervisor : t.supervisor = s.supervisor := by rw [h.rest]
theorem load : t.load = s.load := by rw [h.rest]
theorem limits : t.limits = s.limits := by rw [h.rest]
theorem command : t.command = s.command := by rw [h.rest]
theorem mill : t.mill = s.mill := by rw [h.rest]

end State.AtDesk

/-! ### The plain updates -/

theorem enter_atDesk (d : Desk) (w : Draft) (s : State) : s.AtDesk d (enter w s) :=
  ⟨by obtain ⟨p, n0, n1, h⟩ := enter_eq w s; rw [h], fun e _ => enter_unit w s e⟩

theorem putUnit_atDesk (d : Desk) (u : DeskUnit) (s : State) : s.AtDesk d (s.putUnit d u) :=
  ⟨rfl, fun e he => by rw [State.unit_putUnit, if_neg he]⟩

theorem setOwner_atDesk (d : Desk) (a : Area) (o : Option Desk) (s : State) : s.AtDesk d (s.setOwner a o) := by
  cases o <;> exact ⟨rfl, fun _ _ => rfl⟩

theorem putDeskState_atDesk (d : Desk) (st : DeskState) (s : State) : s.AtDesk d (s.putDeskState d st) :=
  putUnit_atDesk d _ s

theorem putSlot_atDesk (d : Desk) (k : SlotId) (v : Slot) (s : State) : s.AtDesk d (s.putSlot d k v) :=
  putUnit_atDesk d _ s

theorem setResult_atDesk (d : Desk) (k : SlotId) (r : SignOn) (s : State) : s.AtDesk d (s.setResult d k r) :=
  putUnit_atDesk d _ s

theorem clearDue_atDesk (d : Desk) (s : State) : s.AtDesk d (clearDue d s) := putUnit_atDesk d _ s

theorem mapCarried_atDesk (d : Desk) (f : List Carried → List Carried) (s : State) : s.AtDesk d (s.mapCarried d f) :=
  putUnit_atDesk d _ s

/-! ### The carried list and the abort -/

theorem abortHandover_atDesk (d : Desk) (reason : AbortReason) (s : State) :
    s.AtDesk d (abortHandover d reason s) := by
  simp only [abortHandover]
  split
  · exact (enter_atDesk d _ s).trans (putDeskState_atDesk d _ _)
  · exact ((setResult_atDesk d _ _ s).trans (enter_atDesk d _ _)).trans (putDeskState_atDesk d _ _)
  · exact .refl d s

theorem carryEntry_atDesk (d : Desk) (tag : Tag) (st : Standing) (s : State) : s.AtDesk d (carryEntry d tag st s) := by
  simp only [carryEntry]
  split
  · exact mapCarried_atDesk d _ s
  · split
    · exact mapCarried_atDesk d _ s
    · exact abortHandover_atDesk d _ s

theorem dropCarried_atDesk (d : Desk) (gone : Tag → Bool) (s : State) : s.AtDesk d (dropCarried d gone s) :=
  mapCarried_atDesk d _ s

theorem tellDesk_atDesk (d : Desk) (tag : Tag) (st : Option Standing) (s : State) : s.AtDesk d (tellDesk d tag st s) := by
  cases st with
  | none => simp only [tellDesk]; exact dropCarried_atDesk d _ s
  | some st =>
    cases st with
    | unack =>
      simp only [tellDesk]
      split
      · exact carryEntry_atDesk d tag .unack s
      · exact .refl d s
    | rtnUnack => exact mapCarried_atDesk d _ s
    | acked => exact mapCarried_atDesk d _ s

theorem takeIn_atDesk (d : Desk) (item : Item) (s : State) : s.AtDesk d (takeIn d item s) := by
  simp only [takeIn]
  split
  · split
    · exact carryEntry_atDesk d _ _ s
    · exact .refl d s
  · exact .refl d s

/-! ### Ownership -/

theorem changeOwner_atDesk (d : Desk) (a : Area) (o : Option Desk) (s : State) : s.AtDesk d (changeOwner a o s) :=
  (setOwner_atDesk d a o s).trans (enter_atDesk d _ _)

theorem releaseOutside_atDesk (d : Desk) (kept : AreaSet) (s : State) : s.AtDesk d (releaseOutside d kept s) :=
  .foldl (fun s a => changeOwner_atDesk d a none s) _ s

theorem claimHome_atDesk (d : Desk) (permitted : AreaSet) (s : State) : s.AtDesk d (claimHome d permitted s) := by
  unfold claimHome
  generalize allAreas = l
  refine .foldl (fun s' a => ?_) l s
  split
  · exact changeOwner_atDesk d a _ s'
  · exact .refl d s'

/-! ### Signing on -/

theorem gainHolder_atDesk (d : Desk) (k : SlotId) (op : OpIndex) (permitted : AreaSet) (d2 : Nat) (s : State) :
    s.AtDesk d (gainHolder d k op permitted d2 s) :=
  ((((setResult_atDesk d k _ s).trans (putDeskState_atDesk d _ _)).trans (clearDue_atDesk d _)).trans
    (enter_atDesk d _ _)).trans (claimHome_atDesk d permitted _)

theorem signOnCompanion_atDesk (d : Desk) (k : SlotId) (op : OpIndex) (nq : Bool) (s : State) :
    s.AtDesk d (signOnCompanion d k op nq s) :=
  (setResult_atDesk d k _ s).trans (enter_atDesk d _ _)

theorem acceptKey_atDesk (d : Desk) (k : SlotId) (op : OpIndex) (r : OperatorRecord) (s : State) :
    s.AtDesk d (acceptKey d k op r s) := by
  simp only [acceptKey]
  split
  · split
    · exact gainHolder_atDesk d k op _ _ s
    · exact signOnCompanion_atDesk d k op _ s
  · split
    · exact (((setResult_atDesk d k _ s).trans (putDeskState_atDesk d _ _)).trans (enter_atDesk d _ _)).trans
        (enter_atDesk d _ _)
    · exact signOnCompanion_atDesk d k op _ s
  all_goals exact signOnCompanion_atDesk d k op _ s

theorem refuseKey_atDesk (d : Desk) (k : SlotId) (op : Option OpIndex) (reason : KeyRefusal) (s : State) :
    s.AtDesk d (refuseKey d k op reason s) :=
  (setResult_atDesk d k _ s).trans (enter_atDesk d _ _)

theorem signOnCheck_atDesk (d : Desk) (k : SlotId) (key : KeyNumber) (issue : Byte) (s : State) :
    s.AtDesk d (signOnCheck d k key issue s) := by
  simp only [signOnCheck]
  split
  · exact refuseKey_atDesk d k _ _ s
  · split
    · exact refuseKey_atDesk d k _ _ s
    · split
      · exact refuseKey_atDesk d k _ _ s
      · split
        · exact refuseKey_atDesk d k _ _ s
        · split
          · exact refuseKey_atDesk d k _ _ s
          · exact acceptKey_atDesk d k _ _ s

theorem keyIn_atDesk (d : Desk) (k : SlotId) (bat : Battery) (r : SixBytes) (s : State) :
    s.AtDesk d (keyIn d k bat r s) :=
  ((putSlot_atDesk d k _ s).trans (enter_atDesk d _ _)).trans (signOnCheck_atDesk d k _ _ _)

/-! ### The ends of a sign-on -/

/-- A desertion, before routing is worked out (R93). -/
theorem desert_atDesk (d : Desk) (k : SlotId) (op : OpIndex) (cause : LossCause) (s : State) :
    s.AtDesk d (desert d k op cause s) := by
  have h : ∀ w, s.AtDesk d (clearDue d ((releaseOutside d 0 (enter w (abortHandover d .holderLeft s))).putDeskState d
      .vacant)) := fun w =>
    ((((abortHandover_atDesk d _ s).trans (enter_atDesk d w _)).trans (releaseOutside_atDesk d 0 _)).trans
      (putDeskState_atDesk d _ _)).trans (clearDue_atDesk d _)
  simp only [desert]
  split
  · exact (h _).trans (gainHolder_atDesk d _ _ _ _ _)
  · exact h _

theorem incomingLeaves_atDesk (d : Desk) (k : SlotId) (cause : Nat) (s : State) :
    s.AtDesk d (incomingLeaves d k cause s) := by
  simp only [incomingLeaves]
  split
  · exact (putDeskState_atDesk d _ s).trans (enter_atDesk d _ _)
  · exact .refl d s

/-! ### The handover protocol and service -/

theorem commitHandover_atDesk (d : Desk) (k : SlotId) (h : Handover) (inc : OpIndex) (s : State) :
    s.AtDesk d (commitHandover d k h inc s) :=
  ((((setResult_atDesk d _ _ s).trans (setResult_atDesk d _ _ _)).trans (clearDue_atDesk d _)).trans
    (enter_atDesk d _ _)).trans (putDeskState_atDesk d _ _)

theorem briefEntry_atDesk (d : Desk) (inc : OpIndex) (tag : Tag) (how : Nat) (s : State) :
    s.AtDesk d (briefEntry d inc tag how s) := by
  simp only [briefEntry]
  exact (mapCarried_atDesk d _ s).trans (enter_atDesk d _ _)

theorem companionAtOpening_atDesk (d : Desk) (k : SlotId) (h : Handover) (s : State) :
    s.AtDesk d (companionAtOpening d k h s) := by
  simp only [companionAtOpening]
  split
  · split
    · split
      · exact ((setResult_atDesk d _ _ s).trans (putDeskState_atDesk d _ _)).trans (enter_atDesk d _ _)
      · exact .refl d s
    · exact .refl d s
  · exact .refl d s

theorem openHandover_atDesk (d : Desk) (k : SlotId) (op : OpIndex) (s : State) :
    s.AtDesk d (openHandover d k op s) :=
  ((putDeskState_atDesk d _ s).trans (enter_atDesk d _ _)).trans (companionAtOpening_atDesk d k _ _)

theorem mapSlots_atDesk (d : Desk) (f : SlotState → SlotState) (s : State) : s.AtDesk d (mapSlots d f s) :=
  (putSlot_atDesk d .a _ s).trans (putSlot_atDesk d .b _ _)

theorem signOffSlot_atDesk (d : Desk) (k : SlotId) (s : State) : s.AtDesk d (signOffSlot d k s) := by
  simp only [signOffSlot]
  split
  · exact enter_atDesk d _ s
  · exact .refl d s

theorem takeOutOfService_atDesk (d : Desk) (s : State) : s.AtDesk d (takeOutOfService d s) :=
  ((((((abortHandover_atDesk d _ s).trans (signOffSlot_atDesk d _ _)).trans (signOffSlot_atDesk d _ _)).trans
    (releaseOutside_atDesk d 0 _)).trans (putDeskState_atDesk d _ _)).trans (clearDue_atDesk d _)).trans
    (mapSlots_atDesk d _ _)

theorem returnToService_atDesk (d : Desk) (s : State) : s.AtDesk d (returnToService d s) :=
  (putDeskState_atDesk d _ s).trans (mapSlots_atDesk d _ _)

theorem serveAssignArea_atDesk (x : Area × Option Desk) (d : Desk) (s : State) :
    s.AtDesk d (serveAssignArea x s).1 := by
  simp only [serveAssignArea]
  split
  · exact .refl d s
  · split
    · simp only [accepted]
      split
      · exact changeOwner_atDesk d _ _ s
      · exact .refl d s
    · split
      · exact .refl d s
      · split
        · simp only [accepted]
          split
          · exact .refl d s
          · exact changeOwner_atDesk d _ _ s
        · exact .refl d s

end Sys2Proof.Machine
end

section
/-! PROOFS. The laws of the point records (O7): a record is written only lawful, and what happens at a desk, in the
area map or in the journal writes none. -/

namespace Sys2Proof.Machine

/-- Every record of the point table keeps its laws. -/
def State.PointsOk (s : State) : Prop := ∀ t p, (t, p) ∈ s.points → p.Lawful

/-- The laws of a record but for its silenced field. -/
def Point.Sound (p : Point) : Prop := Point.Lawful { p with silenced := false }

theorem Point.sound_iff (p : Point) : p.Sound ↔ 1 ≤ p.base ∧ p.base ≤ 4 ∧ p.step ≤ 120 ∧ p.repeats ≤ 255 ∧
    1 ≤ p.effective ∧ p.effective ≤ p.base ∧ (p.unacknowledged = true → p.base ≤ 3) ∧ (p.base = 4 → p.effective = 4) ∧
    (match p.state with
      | .normal => p.active = false ∧ p.effective = p.base
      | .unack _ | .acked _ => p.active = true
      | .rtnUnack _ => p.active = false
      | .shelved _ _ => p.effective = p.base) := by
  have hua : Point.unacknowledged { p with silenced := false } = p.unacknowledged := rfl
  simp only [Point.Sound, Point.Lawful, hua, Bool.false_eq_true, false_imp_iff, true_and] <;> rfl

theorem Point.lawful_iff (p : Point) : p.Lawful ↔ p.Sound ∧ (p.silenced = true → p.standing.isSome = true) := by
  rw [Point.sound_iff]
  simp only [Point.Lawful]
  tauto

theorem Point.Lawful.sound {p : Point} (h : p.Lawful) : p.Sound := (p.lawful_iff.1 h).1

/-- A sound record, silenced only while it stands in a list, is lawful (R6). -/
theorem Point.Sound.unlisted {p : Point} (h : p.Sound) : p.unlisted.Lawful := by
  simp only [Point.unlisted]
  split
  · rename_i hs
    exact p.lawful_iff.2 ⟨h, fun _ => hs⟩
  · exact h

/-- Whether a record is sound does not depend on its silenced field. -/
theorem Point.Sound.silenced {p : Point} (h : p.Sound) (b : Bool) : Point.Sound { p with silenced := b } := h

/-! ### Updates of the point table -/

theorem State.PointsOk.congr {s t : State} (h : t.points = s.points) (hs : s.PointsOk) : t.PointsOk := by
  simpa only [State.PointsOk, h] using hs

theorem State.AtDesk.pointsOk {d : Desk} {s t : State} (h : s.AtDesk d t) (hs : s.PointsOk) : t.PointsOk :=
  hs.congr h.points

theorem putPoint_pointsOk {s : State} (hs : s.PointsOk) (t : Tag) {p : Point} (hp : p.Lawful) :
    (s.putPoint t p).PointsOk := fun x q hq => by
  obtain h | h := mem_tablePut hq
  · cases h; exact hp
  · exact hs x q h

/-- A change of every record that keeps its laws. -/
theorem mapPoints_pointsOk {s : State} (hs : s.PointsOk) {f : Tag → Point → Point}
    (hf : ∀ t p, p.Lawful → (f t p).Lawful) : State.PointsOk { s with points := tableMap f s.points } := fun t p hp => by
  simp only [tableMap, List.mem_map] at hp
  obtain ⟨e, he, heq⟩ := hp
  cases heq
  exact hf e.1 e.2 (hs e.1 e.2 he)

theorem tellTarget_points (x : Target) (t : Tag) (st : Option Standing) (s : State) :
    (tellTarget x t st s).points = s.points := by
  cases x with
  | desk d => exact (tellDesk_atDesk d t st s).points
  | room => rfl

theorem changePointAt_points (x : Target) (t : Tag) (old new : Point) (s : State) :
    (changePointAt x t old new s).points = tablePut s.points t new.unlisted := by
  simp only [changePointAt]
  split
  · rw [tellTarget_points, enter_points]; rfl
  · split
    · rw [tellTarget_points]; rfl
    · rfl

theorem changePointAt_pointsOk {s : State} (hs : s.PointsOk) (x : Target) (t : Tag) (old : Point) {new : Point}
    (hn : new.Sound) : (changePointAt x t old new s).PointsOk :=
  (putPoint_pointsOk hs t hn.unlisted).congr (changePointAt_points x t old new s)

theorem changePoint_pointsOk {s : State} (hs : s.PointsOk) (t : Tag) (old : Point) {new : Point} (hn : new.Sound) :
    (changePoint t old new s).PointsOk := changePointAt_pointsOk hs _ t old hn

theorem arriveAt_pointsOk {s : State} (hs : s.PointsOk) (x : Target) (t : Tag) (old : Point) {new : Point}
    (hn : new.Sound) : (arriveAt x t old new s).PointsOk :=
  changePointAt_pointsOk (s := addWeight x (arrivalWeight new.base) s) hs x t old (hn.silenced _)

theorem arrive_pointsOk {s : State} (hs : s.PointsOk) (t : Tag) (old : Point) {new : Point}
    (hn : Point.Sound { new with state := .unack s.runSeconds, effective := new.base }) :
    (arrive t old new s).PointsOk := arriveAt_pointsOk hs _ t old hn

theorem enter_pointsOk {s : State} (hs : s.PointsOk) (w : Draft) : (enter w s).PointsOk := hs.congr (enter_points w s)

theorem autoAcknowledge_pointsOk {s : State} (hs : s.PointsOk) (t : Tag) (old : Point) {new : Point}
    (hn : ∀ τ, Point.Sound { new with state := .acked τ, effective := new.base }) :
    (autoAcknowledge t old new s).PointsOk := changePoint_pointsOk (enter_pointsOk hs _) t old (hn _)

/-! ### The records that the rules of points leave (R7 to R21) -/

section Records
variable {p : Point} (h : p.Lawful)
include h

theorem toNormal_sound (hp : p.active = false) : p.toNormal.Sound := by
  obtain ⟨⟨h1, h4, hs, hr, -⟩, -⟩ := p.lawful_iff.1 h
  rw [Point.sound_iff]
  simp only [Point.toNormal, Point.unacknowledged]
  exact ⟨h1, h4, hs, hr, h1, le_rfl, by simp, fun h => h, hp, trivial⟩

/-- The record an arrival leaves: an active point of base priority 1 to 3. -/
theorem arrival_sound (h3 : p.base ≤ 3) (τ : Word32) {r : Nat} (hr : r ≤ 255) :
    Point.Sound { p with active := true, repeats := r, state := .unack τ, effective := p.base } := by
  obtain ⟨⟨h1, h4, hs, -⟩, -⟩ := p.lawful_iff.1 h
  rw [Point.sound_iff]
  exact ⟨h1, h4, hs, hr, h1, le_rfl, fun _ => h3, fun h => h, rfl⟩

theorem autoAck_sound (τ : Word32) {r : Nat} (hr : r ≤ 255) :
    Point.Sound { p with active := true, repeats := r, state := .acked τ, effective := p.base } := by
  obtain ⟨⟨h1, h4, hs, -⟩, -⟩ := p.lawful_iff.1 h
  rw [Point.sound_iff]
  exact ⟨h1, h4, hs, hr, h1, le_rfl, fun h => by simp [Point.unacknowledged] at h, fun h => h, rfl⟩

theorem Point.Lawful.repeats : p.repeats ≤ 255 := h.2.2.2.1

/-- The record with its active field set, where that is in step with the state (R2). -/
theorem setActive_lawful (b : Bool) (hst : match p.state with
      | .normal | .rtnUnack _ => b = false
      | .unack _ | .acked _ => b = true
      | .shelved _ _ => True) : Point.Lawful { p with active := b } := by
  obtain ⟨h1, h4, hs, hr, he1, heb, hsil, hua, h4e, hold⟩ := h
  refine ⟨h1, h4, hs, hr, he1, heb, hsil, hua, h4e, ?_⟩
  dsimp only
  cases hp : p.state with
  | normal => simp only [hp] at hst hold; exact ⟨hst, hold.2⟩
  | unack τ => simpa [hp] using hst
  | acked τ => simpa [hp] using hst
  | rtnUnack τ => simpa [hp] using hst
  | shelved x o => simpa [hp] using hold

end Records

theorem Point.Lawful.base_of_unacknowledged {p : Point} (h : p.Lawful) (hu : p.unacknowledged = true) : p.base ≤ 3 := by
  obtain ⟨-, -, -, -, -, -, -, hua, -⟩ := h
  exact hua hu

theorem activeFrame_pointsOk {s : State} (hs : s.PointsOk) {t : Tag} {p : Point} (hp : (t, p) ∈ s.points) :
    (activeFrame t p s).PointsOk := by
  have hl := hs t p hp
  simp only [activeFrame]
  split
  · split
    · rename_i h3
      exact arrive_pointsOk hs t p (arrival_sound hl h3 _ (Nat.zero_le _))
    · exact autoAcknowledge_pointsOk hs t p fun τ => autoAck_sound hl τ (Nat.zero_le _)
  · rename_i τ hst
    have h3 := hl.base_of_unacknowledged (by simp [Point.unacknowledged, hst])
    rw [if_pos h3]
    exact arrive_pointsOk hs t p (arrival_sound hl h3 _ (Nat.min_le_left _ _))
  all_goals
    rename_i hst
    exact putPoint_pointsOk hs t (setActive_lawful hl true (by simp [hst]))

theorem clearFrame_pointsOk {s : State} (hs : s.PointsOk) {t : Tag} {p : Point} (hp : (t, p) ∈ s.points) :
    (clearFrame t p s).PointsOk := by
  have hl := hs t p hp
  obtain ⟨h1, h4, hstep, hr, he1, heb, -, -, h4e, -⟩ := id hl
  simp only [clearFrame]
  split
  · rename_i τ hst
    have h3 := hl.base_of_unacknowledged (by simp [Point.unacknowledged, hst])
    rw [if_pos h3]
    exact changePoint_pointsOk hs t p ((Point.sound_iff _).2 ⟨h1, h4, hstep, hr, he1, heb, fun _ => h3, h4e, rfl⟩)
  · refine changePoint_pointsOk hs t p ((Point.sound_iff _).2 ?_)
    exact ⟨h1, h4, hstep, hr, h1, le_rfl, fun h => by simp [Point.unacknowledged, Point.toNormal] at h, fun h => h, rfl, rfl⟩
  all_goals
    rename_i hst
    exact putPoint_pointsOk hs t (setActive_lawful hl false (by simp [hst]))

theorem acknowledged_sound {p : Point} (h : p.Lawful) (op : OpIndex) : (p.acknowledged op).Sound := by
  obtain ⟨h1, h4, hs, hr, he1, heb, -, -, h4e, hst⟩ := id h
  simp only [Point.acknowledged]
  split
  · rename_i hu
    simp only [hu] at hst
    exact (Point.sound_iff _).2 ⟨h1, h4, hs, hr, he1, heb, fun h => by simp [Point.unacknowledged] at h, h4e, hst⟩
  · rename_i hu
    simp only [hu] at hst
    exact (toNormal_sound h hst : p.toNormal.Sound)
  all_goals exact h.sound

theorem acknowledge_pointsOk {s : State} (hs : s.PointsOk) (d : Desk) (op : OpIndex) {t : Tag} {p : Point}
    (hp : (t, p) ∈ s.points) : (acknowledge d op t p s).PointsOk :=
  changePoint_pointsOk (enter_pointsOk hs _) t p (acknowledged_sound (hs t p hp) op)

theorem escalated_range {base : Nat} (h : 1 ≤ base) (step age : Nat) :
    1 ≤ escalated base step age ∧ escalated base step age ≤ base := by
  simp only [escalated]
  generalize age / 60 / step = steps
  split <;> omega

theorem forcedRealarm_pointsOk {s : State} (hs : s.PointsOk) (d : Desk) (t : Tag) : (forcedRealarm d t s).PointsOk := by
  simp only [forcedRealarm]
  split
  · rename_i p hp
    split
    · rename_i τ hst
      split
      · rename_i h3
        obtain ⟨h1, h4, hstep, hr, -, -, -, -, -, hact⟩ := hs t p (tableGet_mem hp)
        simp only [hst] at hact
        obtain ⟨he1, heb⟩ := escalated_range h1 p.step (p.age s.runSeconds)
        refine arriveAt_pointsOk hs _ t p ((Point.sound_iff _).2 ⟨h1, h4, hstep, hr, he1, heb, fun _ => h3, ?_, hact⟩)
        intro h; simp only at h; omega
      · exact hs
    · exact hs
  · exact hs

theorem shelvePoint_pointsOk {s : State} (hs : s.PointsOk) {t : Tag} {p : Point} (hp : (t, p) ∈ s.points)
    (expiry : Word32) (op : OpIndex) : (shelvePoint t p expiry op s).PointsOk := by
  obtain ⟨h1, h4, hstep, hr, -⟩ := hs t p hp
  exact changePoint_pointsOk hs t p ((Point.sound_iff _).2
    ⟨h1, h4, hstep, hr, h1, le_rfl, fun h => by simp [Point.unacknowledged] at h, fun h => h, rfl⟩)

theorem returnFromShelf_pointsOk {s : State} (hs : s.PointsOk) {t : Tag} {p : Point} (hp : (t, p) ∈ s.points) :
    (returnFromShelf t p s).PointsOk := by
  have hl := hs t p hp
  simp only [returnFromShelf]
  split
  · rename_i hact
    have he : p = { p with active := true, repeats := p.repeats } := by rw [← hact]
    split
    · rename_i h3
      rw [he]
      exact arrive_pointsOk hs t _ (arrival_sound hl h3 _ hl.repeats)
    · rw [he]
      exact autoAcknowledge_pointsOk hs t _ fun τ => autoAck_sound hl τ hl.repeats
  · rename_i hact
    exact changePoint_pointsOk hs t p (toNormal_sound hl (by simpa using hact))

/-! ### Changes of many records -/

/-- Clearing the silenced field of a lawful record. -/
theorem unsilenced_lawful {p : Point} (h : p.Lawful) : Point.Lawful { p with silenced := false } := h.sound

theorem reroute_points (before after : State) : (reroute before after).points = (clearMoved before after).points := by
  have hfold : ∀ (f : State → Desk → State), (∀ s d, State.AtDesk d s (f s d)) → ∀ (l : List Desk) (s : State),
      (l.foldl f s).points = s.points := fun f hf l => by
    induction l with
    | nil => exact fun _ => rfl
    | cons d rest ih => exact fun s => (ih (f s d)).trans (hf s d).points
  simp only [reroute]
  exact (hfold (fun s d => takeInMoved (movedItems before after) d s)
    (fun s d => .foldl (fun s e => takeIn_atDesk d e s) _ s) _ _).trans
    (hfold (fun s d => dropMoved before (movedItems before after) d s) (fun s d => dropCarried_atDesk d _ s) _ _)

theorem reroute_pointsOk {after : State} (hs : after.PointsOk) (before : State) : (reroute before after).PointsOk := by
  refine State.PointsOk.congr (reroute_points before after) (mapPoints_pointsOk hs fun _ p hp => ?_)
  split
  · exact unsilenced_lawful hp
  · exact hp

theorem silenceList_pointsOk {s : State} (hs : s.PointsOk) (x : Target) : (silenceList x s).PointsOk := by
  refine mapPoints_pointsOk hs fun _ p hp => ?_
  split
  · rename_i hsil
    simp only [State.silences, State.standsAt, Bool.and_eq_true] at hsil
    exact (Point.lawful_iff _).2 ⟨hp.sound, fun _ => hsil.1.1.1⟩
  · exact hp

theorem setPending_points (c : AttnClass) (s : State) : (setPending c s).points = s.points := by
  obtain ⟨_, _, _, h⟩ := setPending_eq c s
  rw [h]

theorem silenceDesk_pointsOk {s : State} (hs : s.PointsOk) (d : Desk) (op : OpIndex) : (silenceDesk d op s).PointsOk := by
  have h2 : State.PointsOk (if (s.roomSilenceCount d).isSome then silenceList .room (silenceList (.desk d) s)
      else silenceList (.desk d) s) := by
    split
    · exact silenceList_pointsOk (silenceList_pointsOk hs _) _
    · exact silenceList_pointsOk hs _
  simp only [silenceDesk]
  split
  · exact (enter_pointsOk h2 _).congr (setPending_points _ _)
  · exact enter_pointsOk h2 _

theorem escalate_lawful {p : Point} (h : p.Lawful) (now : Word32) : (p.escalate now).Lawful := by
  simp only [Point.escalate]
  split
  · rename_i hu
    obtain ⟨h1, h4, hs, hr, -, -, hsil, hua, -, hst⟩ := h
    obtain ⟨he1, heb⟩ := escalated_range h1 p.step (p.age now)
    refine ⟨h1, h4, hs, hr, he1, heb, hsil, hua, fun h => ?_, ?_⟩
    · simp only at h; omega
    · have hact := hu.2
      simp only [Point.unacknowledged] at hact
      dsimp only
      split <;> simp_all
  · exact h

/-! ### SET_POINT (R17 to R23) -/

theorem newPoint_lawful {c : StoredPoint} (h1 : 1 ≤ c.base) (h4 : c.base ≤ 4) (hs : c.step ≤ 120) :
    (newPoint c).Lawful :=
  ⟨h1, h4, hs, Nat.zero_le _, h1, le_rfl, fun h => (by cases h), fun h => (by cases h), fun h => h, rfl, rfl⟩

theorem reprioritised_range {p : Point} {base : Nat} (h1 : 1 ≤ base) (now : Word32) (step : Nat) :
    1 ≤ p.reprioritised now base step ∧ p.reprioritised now base step ≤ base := by
  simp only [Point.reprioritised]
  split
  · exact escalated_range h1 _ _
  · exact escalated_range h1 _ _
  all_goals omega

/-- A new base priority and step leave a sound record (R20, R21). -/
theorem withBase_sound {p : Point} (h : p.Lawful) (now : Word32) {base step : Nat} (h1 : 1 ≤ base) (h4 : base ≤ 4)
    (hs : step ≤ 120) : (p.withBase now base step).Sound := by
  obtain ⟨hp1, hp4, hps, hr, he1, heb, -, hua, h4e, hst⟩ := id h
  simp only [Point.withBase]
  split
  · rename_i h3
    split
    · rename_i hsame
      obtain ⟨rfl, rfl⟩ := hsame
      exact h.sound
    · obtain ⟨hr1, hrb⟩ := reprioritised_range (p := p) h1 now step
      refine (Point.sound_iff _).2 ⟨h1, h4, hs, hr, hr1, hrb, fun _ => h3.2, fun h => ?_, ?_⟩
      · simp only at h; omega
      · dsimp only
        cases hp : p.state <;> simp_all [Point.reprioritised]
  · split
    · split
      · rename_i τ hp
        simp only [hp] at hst
        exact (Point.sound_iff _).2 ⟨h1, h4, hs, hr, h1, le_rfl, fun h => by simp [Point.unacknowledged] at h,
          fun h => h, hst⟩
      · rename_i τ hp
        simp only [hp] at hst
        exact (Point.sound_iff _).2 ⟨h1, h4, hs, hr, h1, le_rfl, fun h => by simp [Point.unacknowledged] at h,
          fun h => h, hst, rfl⟩
      all_goals
        rename_i hp
        simp only [hp] at hst
        refine (Point.sound_iff _).2 ⟨h1, h4, hs, hr, h1, le_rfl, fun h => by simp [Point.unacknowledged, hp] at h,
          fun h => h, ?_⟩
        simp [hp, hst]
    · rename_i hp3
      have hnot : p.unacknowledged = false := Bool.eq_false_iff.2 fun hu => hp3 (hua hu)
      refine (Point.sound_iff _).2 ⟨h1, h4, hs, hr, h1, le_rfl, fun h => ?_, fun h => h, ?_⟩
      · have : p.unacknowledged = true := h
        rw [hnot] at this; cases this
      · dsimp only
        cases hp : p.state <;> simp_all [Point.unacknowledged]

theorem moveArea_pointsOk {s : State} (hs : s.PointsOk) (t : Tag) (a : Area) : (moveArea t a s).PointsOk := by
  simp only [moveArea]
  split
  · rename_i p hp
    have hl := hs t p (tableGet_mem hp)
    have hput : ∀ x st, (tellTarget x t st (s.putPoint t { p with area := a, silenced := false })).PointsOk :=
      fun x st => (putPoint_pointsOk hs t (p := { p with area := a, silenced := false }) (unsilenced_lawful hl)).congr
        (tellTarget_points x t st _)
    split
    · split
      · exact (takeIn_atDesk _ _ _).pointsOk (hput _ _)
      · exact hput _ _
    · exact putPoint_pointsOk hs t (p := { p with area := a }) hl
  · exact hs

theorem applySetPoint_pointsOk {s : State} (hs : s.PointsOk) (t : Tag) {c : StoredPoint} (h1 : 1 ≤ c.base)
    (h4 : c.base ≤ 4) (hstep : c.step ≤ 120) : (applySetPoint t c s).PointsOk := by
  simp only [applySetPoint]
  split
  · exact putPoint_pointsOk hs t (newPoint_lawful h1 h4 hstep)
  · rename_i p hp
    refine moveArea_pointsOk (changePoint_pointsOk hs t p ?_) t c.area
    exact withBase_sound (hs t p (tableGet_mem hp)) s.runSeconds h1 h4 hstep

/-! ### Every operation -/

theorem forcedTakeover_pointsOk {s : State} (hs : s.PointsOk) (d : Desk) (k : SlotId) (h : Handover) (inc : OpIndex)
    (cause : LossCause) : (forcedTakeover d k h inc cause s).PointsOk := by
  have h3 : ∀ w, (clearDue d ((enter w (s.setResult d k.other (.holder inc))).putDeskState d
      (.attended k.other))).PointsOk := fun w =>
    ((((setResult_atDesk d _ _ s).trans (enter_atDesk d w _)).trans (putDeskState_atDesk d _ _)).trans
      (clearDue_atDesk d _)).pointsOk hs
  have hfold : ∀ (l : List Tag) (u : State), u.PointsOk → (l.foldl (fun s' t => forcedRealarm d t s') u).PointsOk := by
    intro l
    induction l with
    | nil => exact fun _ h => h
    | cons t rest ih => exact fun u h => ih _ (forcedRealarm_pointsOk h d t)
  simp only [forcedTakeover]
  exact hfold _ _ (h3 _)

theorem loseKey_pointsOk {s : State} (hs : s.PointsOk) (d : Desk) (k : SlotId) (r : SignOn) (cause : LossCause) :
    (loseKey d k r cause s).PointsOk := by
  cases r with
  | refused _ => exact hs
  | companion op w => exact enter_pointsOk hs _
  | incoming op => exact (incomingLeaves_atDesk d k _ s).pointsOk hs
  | holder op =>
    cases hst : (s.unit d).state with
    | handoverReview hk h inc =>
      have h1 := forcedTakeover_pointsOk hs d k h inc cause
      unfold loseKey
      rw [hst]
      exact h1
    | _ =>
      have h1 := (desert_atDesk d k op cause s).pointsOk hs
      unfold loseKey
      rw [hst]
      exact h1

theorem revoke_pointsOk {s : State} (hs : s.PointsOk) (d : Desk) (k : SlotId) (reason : KeyRefusal) :
    (revoke d k reason s).PointsOk := by
  simp only [revoke]
  split
  · exact loseKey_pointsOk ((setResult_atDesk d k _ s).pointsOk hs) d k _ _
  · exact hs

theorem removalOf_pointsOk {s : State} (hs : s.PointsOk) (d : Desk) (k : SlotId) (old : SlotState) :
    (removalOf d k old s).PointsOk := by
  simp only [removalOf]
  split
  case h_2 r => exact loseKey_pointsOk (enter_pointsOk hs _) d k r _
  case h_1 => exact enter_pointsOk hs _
  case h_3 => exact enter_pointsOk hs _
  case h_4 => exact enter_pointsOk hs _
  all_goals exact hs

theorem closeContact_atDesk (d : Desk) (k : SlotId) (c : Contact) (s : State) : s.AtDesk d (closeContact d k c s) := by
  simp only [closeContact]
  split
  · exact .refl d s
  · exact putSlot_atDesk d k _ s

theorem State.QuietOp.pointsOk {s t : State} (h : s.QuietOp t) (hs : s.PointsOk) : t.PointsOk := by
  cases h with
  | enter w => exact enter_pointsOk hs w
  | setPending c => exact hs.congr (setPending_points c s)
  | raiseNotice => exact hs
  | reroute before => exact reroute_pointsOk hs before
  | putPoint x hp => exact putPoint_pointsOk hs x hp
  | erasePoint x => exact fun t p hp => hs t p (List.mem_filter.1 hp).1
  | setPoint x h1 h4 hstep => exact applySetPoint_pointsOk hs x h1 h4 hstep
  | activeFrame hp => exact activeFrame_pointsOk hs hp
  | clearFrame hp => exact clearFrame_pointsOk hs hp
  | acknowledge d op hp => exact acknowledge_pointsOk hs d op hp
  | shelve expiry op hp => exact shelvePoint_pointsOk hs hp expiry op
  | returnFromShelf hp _ => exact returnFromShelf_pointsOk hs hp
  | silence d op => exact silenceDesk_pointsOk hs d op
  | escalate => exact mapPoints_pointsOk hs fun _ _ hp => escalate_lawful hp _
  | assignArea x => exact (serveAssignArea_atDesk x .d0 s).pointsOk hs
  | abort d reason => exact (abortHandover_atDesk d reason s).pointsOk hs
  | commit _ => exact (commitHandover_atDesk _ _ _ _ s).pointsOk hs
  | brief d inc x how => exact (briefEntry_atDesk d inc x how s).pointsOk hs
  | dues due => exact hs
  | outOfService d => exact (takeOutOfService_atDesk d s).pointsOk hs
  | intoService _ => exact (returnToService_atDesk _ s).pointsOk hs
  | contacts d k _ => exact hs
  | closeContact d k c => exact (closeContact_atDesk d k c s).pointsOk hs
  | removal d k c => exact removalOf_pointsOk (s := moveContact d k c false _ s) hs d k _
  | slotWork _ _ => exact hs
  | keyIn r _ => exact (keyIn_atDesk _ _ _ r s).pointsOk hs

/-- The ranges of the stored records of an image (R17). -/
def Image.PointsOk (i : Image) : Prop := ∀ t c, (t, c) ∈ i.points → 1 ≤ c.base ∧ c.base ≤ 4 ∧ c.step ≤ 120

theorem snapshot_pointsOk {s : State} (hs : s.PointsOk) : s.snapshot.PointsOk := by
  intro t c hc
  have hc' : (t, c) ∈ s.storedPoints := hc
  simp only [State.storedPoints, tableMap, List.mem_map, List.mem_filter] at hc'
  obtain ⟨e, ⟨he, -⟩, heq⟩ := hc'
  cases heq
  obtain ⟨h1, h4, hstep, -⟩ := hs e.1 e.2 he
  exact ⟨h1, h4, hstep⟩

theorem applyConsequence_pointsOk {s : State} (hs : s.PointsOk) (d : Desk) (k : SlotId) (i : OpIndex)
    (new : OperatorRecord) (c : Consequence) : (applyConsequence d k i new c s).PointsOk := by
  cases c with
  | nothing => exact hs
  | ends reason => exact revoke_pointsOk hs d k reason
  | releases => exact (releaseOutside_atDesk d new.areas s).pointsOk hs
  | disqualifies => exact ((setResult_atDesk d k _ s).trans (incomingLeaves_atDesk d k 5 _)).pointsOk hs

theorem applySetOperator_pointsOk {s : State} (hs : s.PointsOk) (i : OpIndex) (r : OperatorRecord) :
    (applySetOperator i r s).PointsOk := by
  have hchanged : ∀ place d1 d2, (operatorChanged i place d1 d2 { s with operators := tablePut s.operators i r }).PointsOk :=
    fun place d1 d2 => enter_pointsOk (s := { s with operators := tablePut s.operators i r }) hs _
  simp only [applySetOperator]
  split
  · exact hchanged _ _ _
  · split
    · exact hchanged _ _ _
    · exact applyConsequence_pointsOk (hchanged _ _ _) _ _ _ _ _

theorem serveClearOperator_pointsOk {s : State} (hs : s.PointsOk) (i : OpIndex) : (serveClearOperator i s).1.PointsOk := by
  have hchanged : ∀ place d1 d2, (operatorChanged i place d1 d2 { s with operators := tableErase s.operators i }).PointsOk :=
    fun place d1 d2 => enter_pointsOk (s := { s with operators := tableErase s.operators i }) hs _
  simp only [serveClearOperator]
  split
  · exact hs
  · split
    · exact hchanged _ _ _
    · exact revoke_pointsOk (hchanged _ _ _) _ _ _

theorem updateLoad_points (x : Target) (s : State) : (updateLoad x s).points = s.points := by
  simp only [updateLoad]
  split
  · split
    · rw [enter_points]; rfl
    · rfl
  · split
    · cases x with
      | desk d => exact (abortHandover_atDesk d .flood _).points.trans (enter_points _ _)
      | room => exact enter_points _ _
    · rfl

theorem State.Work.pointsOk {s t : State} (h : s.Work t) (hs : s.PointsOk) : t.PointsOk := by
  cases h with
  | quiet h => exact h.pointsOk hs
  | adoptFlood =>
    simp only [Sys2Proof.Machine.adoptFlood]
    split <;> exact hs
  | updateLoad x => exact hs.congr (updateLoad_points x s)
  | opening h => exact (openHandover_atDesk _ _ _ s).pointsOk hs
  | setOperator i r => exact applySetOperator_pointsOk hs i r
  | clearOperator i => exact serveClearOperator_pointsOk hs i
  | _ => exact hs

/-- The operations of the blocks hold no image but one held already or the snapshot of the settings (R201). -/
theorem State.Work.images_mem {s t : State} (h : s.Work t) {i : Image} (hi : i ∈ t.images) :
    i ∈ s.images ∨ i = s.snapshot := by
  cases h with
  | quiet h => rw [h.quiet.images] at hi; exact .inl hi
  | adoptFlood =>
    simp only [Sys2Proof.Machine.adoptFlood] at hi
    split at hi <;> exact .inl hi
  | updateLoad x =>
    obtain ⟨flood, hq⟩ := updateLoad_quiet x s
    rw [hq.images] at hi
    exact .inl hi
  | opening h => rw [(openHandover_quiet _ _ _ s).images] at hi; exact .inl hi
  | store st im h => exact h i (mem_images_put hi)
  | setOperator j r => rw [(applySetOperator_quiet j r s).images] at hi; exact .inl hi
  | clearOperator j =>
    obtain h | h := serveClearOperator_quiet j s
    · rw [h] at hi; exact .inl hi
    · rw [h.images] at hi; exact .inl hi
  | _ => exact .inl hi

theorem State.Move.pointsLawful {s t : State} (h : s.Move t) (hs : s.PointsLawful) : t.PointsLawful := by
  obtain ⟨hp, him⟩ := hs
  cases h with
  | work h =>
    refine ⟨h.pointsOk hp, fun i hi => ?_⟩
    obtain hi | rfl := h.images_mem hi
    · exact him i hi
    · exact snapshot_pointsOk hp
  | reset p input _ => exact ⟨fun _ _ h => (by cases h), fun i hi => him i (resetTo_images (p := p) hi)⟩
  | load p _ =>
    obtain ⟨image, st, he, himage, hst⟩ := loadStore_resetTo_eq p s
    rw [he]
    refine ⟨fun x q hq => ?_, fun i hi => ?_⟩
    · have hq' : (x, q) ∈ tableMap (fun _ c => newPoint c) image.points := hq
      simp only [tableMap, List.mem_map] at hq'
      obtain ⟨e, he, heq⟩ := hq'
      cases heq
      obtain hi | rfl := himage
      · obtain ⟨h1, h4, hstep⟩ := him image hi e.1 e.2 he
        exact newPoint_lawful h1 h4 hstep
      · cases he
    · rw [loaded_images hst, Option.mem_toList] at hi
      exact him i (resetTo_image_mem hi)
  | _ => exact ⟨hp, him⟩

/-- Settles O7: every operation of the part writes lawful records. -/
theorem stepKeepsPoints : Obligations.StepKeepsPoints := fun _ _ _ hs h =>
  step_keeps (P := State.PointsLawful) (fun _ _ => State.Move.pointsLawful) hs h

end Sys2Proof.Machine
end

section
/-! PROOFS. What the operations of a desk unit make of the unit itself and of the ownership table, once for each. -/

namespace Sys2Proof.Machine

/-! ### Units and slots -/

@[simp] theorem DeskUnit.slot_setSlot_self (u : DeskUnit) (k : SlotId) (v : Slot) : (u.setSlot k v).slot k = v := by
  cases k <;> rfl

@[simp] theorem DeskUnit.slot_setSlot_other (u : DeskUnit) (k : SlotId) (v : Slot) :
    (u.setSlot k v).slot k.other = u.slot k.other := by
  cases k <;> rfl

@[simp] theorem DeskUnit.slot_setSlot_of_other (u : DeskUnit) (k : SlotId) (v : Slot) :
    (u.setSlot k.other v).slot k = u.slot k := by
  cases k <;> rfl

@[simp] theorem DeskUnit.setSlot_state (u : DeskUnit) (k : SlotId) (v : Slot) : (u.setSlot k v).state = u.state := by
  cases k <;> rfl

@[simp] theorem DeskUnit.setSlot_due (u : DeskUnit) (k : SlotId) (v : Slot) : (u.setSlot k v).due = u.due := by
  cases k <;> rfl

@[simp] theorem DeskUnit.setSlot_home (u : DeskUnit) (k : SlotId) (v : Slot) : (u.setSlot k v).home = u.home := by
  cases k <;> rfl

@[simp] theorem DeskUnit.setSlot_setSlot (u : DeskUnit) (k : SlotId) (v w : Slot) :
    (u.setSlot k v).setSlot k w = u.setSlot k w := by
  cases k <;> rfl

@[simp] theorem DeskUnit.setSlot_self (u : DeskUnit) (k : SlotId) : u.setSlot k (u.slot k) = u := by
  cases k <;> rfl

@[simp] theorem DeskUnit.slot_withState (u : DeskUnit) (st : DeskState) (due : Option DueMark) (k : SlotId) :
    DeskUnit.slot { u with state := st, due := due } k = u.slot k := by
  cases k <;> rfl

@[simp] theorem DeskUnit.slot_state (u : DeskUnit) (st : DeskState) (k : SlotId) :
    DeskUnit.slot { u with state := st } k = u.slot k := by
  cases k <;> rfl

@[simp] theorem DeskUnit.slot_due (u : DeskUnit) (due : Option DueMark) (k : SlotId) :
    DeskUnit.slot { u with due := due } k = u.slot k := by
  cases k <;> rfl

/-- Changing the desk state and the due mark commutes with changing a slot. -/
theorem DeskUnit.setSlot_withState (u : DeskUnit) (st : DeskState) (due : Option DueMark) (k : SlotId) (v : Slot) :
    DeskUnit.setSlot { u with state := st, due := due } k v = { u.setSlot k v with state := st, due := due } := by
  cases k <;> rfl

theorem SlotId.eq_or_other (k k' : SlotId) : k' = k ∨ k' = k.other := by
  cases k <;> cases k' <;> simp [SlotId.other]

@[simp] theorem SlotId.other_other (k : SlotId) : k.other.other = k := by cases k <;> rfl

theorem SlotId.other_ne (k : SlotId) : k.other ≠ k := by cases k <;> simp [SlotId.other]

/-- The unit with the sign-on result of a PRESENT slot changed (R74). -/
def DeskUnit.withResult (u : DeskUnit) (k : SlotId) (r : SignOn) : DeskUnit :=
  u.setSlot k { u.slot k with state := (u.slot k).state.setResult r }

@[simp] theorem setResult_unit (s : State) (d : Desk) (k : SlotId) (r : SignOn) :
    (s.setResult d k r).unit d = (s.unit d).withResult k r := State.unit_putUnit_self s d _

@[simp] theorem putDeskState_unit (s : State) (d : Desk) (st : DeskState) :
    (s.putDeskState d st).unit d = { s.unit d with state := st } := State.unit_putUnit_self s d _

@[simp] theorem putSlot_unit (s : State) (d : Desk) (k : SlotId) (v : Slot) :
    (s.putSlot d k v).unit d = (s.unit d).setSlot k v := State.unit_putUnit_self s d _

@[simp] theorem clearDue_unit (s : State) (d : Desk) : (clearDue d s).unit d = { s.unit d with due := none } :=
  State.unit_putUnit_self s d _

/-- What an abort makes of the desk unit (R134). -/
def DeskUnit.aborted (u : DeskUnit) : DeskUnit :=
  match u.state with
  | .handoverOpen k _ => { u with state := .attended k }
  | .handoverReview k _ inc => { u.withResult k.other (.companion inc false) with state := .attended k }
  | .outOfService | .vacant | .attended _ => u

@[simp] theorem abortHandover_unit (d : Desk) (reason : AbortReason) (s : State) :
    (abortHandover d reason s).unit d = (s.unit d).aborted := by
  simp only [abortHandover, DeskUnit.aborted]
  cases (s.unit d).state with
  | handoverOpen k h => simp
  | handoverReview k h op => simp
  | _ => rfl

@[simp] theorem abortHandover_owners (d : Desk) (reason : AbortReason) (s : State) :
    (abortHandover d reason s).owners = s.owners := by
  simp only [abortHandover]
  split
  · simp [State.putDeskState]
  · simp [State.putDeskState, State.setResult, State.putSlotState, State.putSlot]
  · rfl

/-! ### Ownership -/

theorem setOwner_owner {s : State} (hw : tableWf s.owners = true) (a b : Area) (o : Option Desk) :
    (s.setOwner a o).owner b = if b = a then o else s.owner b := by
  cases o with
  | none => exact tableGet_erase s.owners a b
  | some d => exact tableGet_put hw a b d

theorem setOwner_owners_wf {s : State} (hw : tableWf s.owners = true) (a : Area) (o : Option Desk) :
    tableWf (s.setOwner a o).owners = true := by
  cases o with
  | none => exact tableErase_wf hw a
  | some d => exact tablePut_wf hw a d

theorem changeOwner_owners (a : Area) (o : Option Desk) (s : State) :
    (changeOwner a o s).owners = (s.setOwner a o).owners := enter_owners _ _

theorem changeOwner_owners_wf {s : State} (hw : tableWf s.owners = true) (a : Area) (o : Option Desk) :
    tableWf (changeOwner a o s).owners = true := by
  rw [changeOwner_owners]
  exact setOwner_owners_wf hw a o

theorem changeOwner_owner {s : State} (hw : tableWf s.owners = true) (a b : Area) (o : Option Desk) :
    (changeOwner a o s).owner b = if b = a then o else s.owner b := by
  rw [State.owner, changeOwner_owners]
  exact setOwner_owner hw a b o

@[simp] theorem changeOwner_unit (a : Area) (o : Option Desk) (s : State) (e : Desk) :
    (changeOwner a o s).unit e = s.unit e := by
  rw [changeOwner, enter_unit]
  cases o <;> rfl

/-- Areas released one after the other. -/
theorem foldl_release (l : List Area) {s : State} (hw : tableWf s.owners = true) :
    tableWf (l.foldl (fun s' a => changeOwner a none s') s).owners = true ∧
    (∀ a, (l.foldl (fun s' a => changeOwner a none s') s).owner a = if a ∈ l then none else s.owner a) ∧
    ∀ e, (l.foldl (fun s' a => changeOwner a none s') s).unit e = s.unit e := by
  induction l generalizing s with
  | nil => exact ⟨hw, fun a => by simp, fun _ => rfl⟩
  | cons b rest ih =>
    obtain ⟨h1, h2, h3⟩ := ih (changeOwner_owners_wf hw b none)
    refine ⟨h1, fun a => ?_, fun e => by rw [List.foldl_cons, h3 e, changeOwner_unit]⟩
    rw [List.foldl_cons, h2 a, changeOwner_owner hw]
    by_cases ha : a = b <;> simp [ha]

theorem mem_ownedAreas {s : State} (hw : tableWf s.owners = true) {d : Desk} {a : Area} :
    a ∈ s.ownedAreas d ↔ s.owner a = some d := by
  simp only [State.ownedAreas, List.mem_map, List.mem_filter, decide_eq_true_eq, State.owner]
  constructor
  · rintro ⟨⟨b, e⟩, ⟨hmem, he⟩, hb⟩
    simp only at he hb
    subst he hb
    exact tableGet_of_mem hw hmem
  · exact fun h => ⟨(a, d), ⟨tableGet_mem h, rfl⟩, rfl⟩

theorem releaseOutside_owners_wf {s : State} (hw : tableWf s.owners = true) (d : Desk) (kept : AreaSet) :
    tableWf (releaseOutside d kept s).owners = true := (foldl_release _ hw).1

/-- A release leaves the desk what it owns inside the set, and every other owner as it was (R40). -/
theorem releaseOutside_owner {s : State} (hw : tableWf s.owners = true) (d : Desk) (kept : AreaSet) (a : Area) :
    (releaseOutside d kept s).owner a = if s.owner a = some d ∧ inSet kept a = false then none else s.owner a := by
  simp only [releaseOutside, (foldl_release _ hw).2.1, List.mem_filter, mem_ownedAreas hw, Bool.not_eq_true']

@[simp] theorem releaseOutside_unit (s : State) (d : Desk) (kept : AreaSet) (e : Desk) :
    (releaseOutside d kept s).unit e = s.unit e := by
  simp only [releaseOutside]
  generalize (s.ownedAreas d).filter _ = l
  induction l generalizing s with
  | nil => rfl
  | cons a rest ih => rw [List.foldl_cons, ih, changeOwner_unit]

theorem inSet_zero (a : Area) : inSet 0 a = false := by
  simp [inSet]

/-- An area claimed where nothing owns it, if it passes a test. -/
def claimIf (d : Desk) (test : Area → Bool) (s : State) (a : Area) : State :=
  if test a && (s.owner a).isNone then changeOwner a (some d) s else s

theorem claimHome_eq (d : Desk) (permitted : AreaSet) (s : State) :
    claimHome d permitted s = allAreas.foldl (claimIf d fun a => inSet (s.unit d).home a && inSet permitted a) s := rfl

@[simp] theorem claimIf_unit (d : Desk) (test : Area → Bool) (s : State) (a : Area) (e : Desk) :
    (claimIf d test s a).unit e = s.unit e := by
  simp only [claimIf]
  split
  · exact changeOwner_unit _ _ _ _
  · rfl

theorem claimIf_owners_wf {s : State} (hw : tableWf s.owners = true) (d : Desk) (test : Area → Bool) (a : Area) :
    tableWf (claimIf d test s a).owners = true := by
  simp only [claimIf]
  split
  · exact changeOwner_owners_wf hw _ _
  · exact hw

theorem claimIf_owner {s : State} (hw : tableWf s.owners = true) (d : Desk) (test : Area → Bool) (a b : Area) :
    (claimIf d test s a).owner b = if b = a ∧ test a = true ∧ s.owner a = none then some d else s.owner b := by
  simp only [claimIf, Bool.and_eq_true, Option.isNone_iff_eq_none]
  by_cases h : test a = true ∧ s.owner a = none
  · rw [if_pos h, changeOwner_owner hw]
    simp [h]
  · rw [if_neg h, if_neg (fun h' => h h'.2)]

/-- Areas claimed one after the other. -/
theorem foldl_claim (d : Desk) (test : Area → Bool) (l : List Area) {s : State} (hw : tableWf s.owners = true) :
    tableWf (l.foldl (claimIf d test) s).owners = true ∧
    ∀ a, (l.foldl (claimIf d test) s).owner a =
      if a ∈ l ∧ test a = true ∧ s.owner a = none then some d else s.owner a := by
  induction l generalizing s with
  | nil => exact ⟨hw, fun a => by simp⟩
  | cons b rest ih =>
    obtain ⟨h1, h2⟩ := ih (claimIf_owners_wf hw d test b)
    refine ⟨h1, fun a => ?_⟩
    rw [List.foldl_cons, h2 a, claimIf_owner hw]
    by_cases hab : a = b
    · subst hab
      by_cases h : test a = true ∧ s.owner a = none
      · simp [h]
      · simp [h]
    · simp [hab]

theorem claimHome_owners_wf {s : State} (hw : tableWf s.owners = true) (d : Desk) (permitted : AreaSet) :
    tableWf (claimHome d permitted s).owners = true := (foldl_claim d _ _ hw).1

/-- A claim takes every unowned home area in the permitted set (R38). -/
theorem claimHome_owner {s : State} (hw : tableWf s.owners = true) (d : Desk) (permitted : AreaSet) (a : Area) :
    (claimHome d permitted s).owner a =
      if s.owner a = none ∧ inSet (s.unit d).home a = true ∧ inSet permitted a = true then some d else s.owner a := by
  rw [claimHome_eq, (foldl_claim d _ _ hw).2 a]
  have h : a ∈ allAreas := List.mem_finRange a
  simp only [h, true_and, Bool.and_eq_true]
  congr 1
  exact propext ⟨fun ⟨⟨h1, h2⟩, h3⟩ => ⟨h3, h1, h2⟩, fun ⟨h3, h1, h2⟩ => ⟨⟨h1, h2⟩, h3⟩⟩

@[simp] theorem claimHome_unit (s : State) (d : Desk) (permitted : AreaSet) (e : Desk) :
    (claimHome d permitted s).unit e = s.unit e := by
  rw [claimHome_eq]
  generalize allAreas = l
  generalize (fun a => inSet (s.unit d).home a && inSet permitted a) = test
  induction l generalizing s with
  | nil => rfl
  | cons a rest ih => rw [List.foldl_cons, ih, claimIf_unit]

/-! ### Signing on and off -/

/-- What gaining a holder makes of the desk unit (R89). -/
def DeskUnit.held (u : DeskUnit) (k : SlotId) (op : OpIndex) : DeskUnit :=
  { u.withResult k (.holder op) with state := .attended k, due := none }

@[simp] theorem gainHolder_unit (s : State) (d : Desk) (k : SlotId) (op : OpIndex) (permitted : AreaSet) (d2 : Nat) :
    (gainHolder d k op permitted d2 s).unit d = (s.unit d).held k op := by
  simp [gainHolder, DeskUnit.held]

@[simp] theorem DeskUnit.withResult_home (u : DeskUnit) (k : SlotId) (r : SignOn) :
    (u.withResult k r).home = u.home := DeskUnit.setSlot_home u k _

@[simp] theorem DeskUnit.withResult_state (u : DeskUnit) (k : SlotId) (r : SignOn) :
    (u.withResult k r).state = u.state := DeskUnit.setSlot_state u k _

@[simp] theorem putUnit_owner (s : State) (d : Desk) (u : DeskUnit) (a : Area) : (s.putUnit d u).owner a = s.owner a := rfl

@[simp] theorem enter_owner (w : Draft) (s : State) (a : Area) : (enter w s).owner a = s.owner a := by
  rw [State.owner, enter_owners, State.owner]

theorem gainHolder_owners_wf {s : State} (hw : tableWf s.owners = true) (d : Desk) (k : SlotId) (op : OpIndex)
    (permitted : AreaSet) (d2 : Nat) : tableWf (gainHolder d k op permitted d2 s).owners = true :=
  claimHome_owners_wf (by rw [enter_owners]; exact hw) d permitted

theorem gainHolder_owner {s : State} (hw : tableWf s.owners = true) (d : Desk) (k : SlotId) (op : OpIndex)
    (permitted : AreaSet) (d2 : Nat) (a : Area) : (gainHolder d k op permitted d2 s).owner a =
      if s.owner a = none ∧ inSet (s.unit d).home a = true ∧ inSet permitted a = true then some d else s.owner a := by
  rw [gainHolder, claimHome_owner (by rw [enter_owners]; exact hw)]
  simp [clearDue, State.putDeskState, State.setResult, State.putSlotState, State.putSlot]

/-- The unit of a desk deserted, before a promotion (R93). -/
def DeskUnit.deserted (u : DeskUnit) : DeskUnit := { u.aborted with state := .vacant, due := none }

@[simp] theorem DeskUnit.aborted_home (u : DeskUnit) : u.aborted.home = u.home := by
  simp only [DeskUnit.aborted]
  split <;> simp

/-- A desk deserted, before a promotion: the abort, DESERTED, the areas released, the desk VACANT (R93). -/
def vacate (d : Desk) (w : Draft) (s : State) : State :=
  clearDue d ((releaseOutside d 0 (enter w (abortHandover d .holderLeft s))).putDeskState d .vacant)

/-- The DESERTED entry (R93). -/
def desertedEntry (d : Desk) (k : SlotId) (op : OpIndex) (cause : LossCause) (promoted : Option (OpIndex × OperatorRecord)) :
    Draft :=
  { kind := .deserted, desk := some d, op := some op, d1 := some (slotDetail k cause.code)
    d2 := some ((promoted.map (fun e => e.1.val)).getD 255) }

theorem desert_eq (d : Desk) (k : SlotId) (op : OpIndex) (cause : LossCause) (s : State) :
    desert d k op cause s = match s.promotable d k.other with
      | some (op', r) =>
        gainHolder d k.other op' r.areas 2 (vacate d (desertedEntry d k op cause (s.promotable d k.other)) s)
      | none => vacate d (desertedEntry d k op cause (s.promotable d k.other)) s := rfl

@[simp] theorem vacate_unit (d : Desk) (w : Draft) (s : State) : (vacate d w s).unit d = (s.unit d).deserted := by
  simp [vacate, DeskUnit.deserted]

theorem vacate_owners (d : Desk) (w : Draft) (s : State) :
    (vacate d w s).owners = (releaseOutside d 0 (enter w (abortHandover d .holderLeft s))).owners := rfl

theorem vacate_owners_wf {s : State} (hw : tableWf s.owners = true) (d : Desk) (w : Draft) :
    tableWf (vacate d w s).owners = true := by
  rw [vacate_owners]
  exact releaseOutside_owners_wf (by rw [enter_owners, abortHandover_owners]; exact hw) d 0

theorem vacate_owner {s : State} (hw : tableWf s.owners = true) (d : Desk) (w : Draft) (a : Area) :
    (vacate d w s).owner a = if s.owner a = some d then none else s.owner a := by
  have hw' : tableWf (enter w (abortHandover d .holderLeft s)).owners = true := by
    rw [enter_owners, abortHandover_owners]; exact hw
  have hab : (abortHandover d .holderLeft s).owner a = s.owner a := by
    rw [State.owner, abortHandover_owners, State.owner]
  rw [State.owner, vacate_owners]
  refine (releaseOutside_owner hw' d 0 a).trans ?_
  simp only [enter_owner, hab, inSet_zero, and_true]

/-- What a desertion makes of the desk unit (R93). -/
theorem desert_unit (d : Desk) (k : SlotId) (op : OpIndex) (cause : LossCause) (s : State) :
    (desert d k op cause s).unit d = match s.promotable d k.other with
      | some (op', _) => (s.unit d).deserted.held k.other op'
      | none => (s.unit d).deserted := by
  rw [desert_eq]
  cases s.promotable d k.other with
  | none => exact vacate_unit d _ s
  | some e => simp

theorem desert_owners_wf {s : State} (hw : tableWf s.owners = true) (d : Desk) (k : SlotId) (op : OpIndex)
    (cause : LossCause) : tableWf (desert d k op cause s).owners = true := by
  rw [desert_eq]
  split
  · exact gainHolder_owners_wf (vacate_owners_wf hw d _) _ _ _ _ _
  · exact vacate_owners_wf hw d _

/-- What a desertion makes of the ownership table: every area of the desk is released, and a companion promoted claims
its home areas, those just released among them (R38, R40, R93). -/
theorem desert_owner {s : State} (hw : tableWf s.owners = true) (d : Desk) (k : SlotId) (op : OpIndex)
    (cause : LossCause) (a : Area) : (desert d k op cause s).owner a =
      match s.promotable d k.other with
      | some (_, r) => if (s.owner a = some d ∨ s.owner a = none) then
          (if inSet (s.unit d).home a = true ∧ inSet r.areas a = true then some d else none) else s.owner a
      | none => if s.owner a = some d then none else s.owner a := by
  rw [desert_eq]
  cases s.promotable d k.other with
  | none => exact vacate_owner hw d _ a
  | some e =>
    dsimp only
    rw [gainHolder_owner (vacate_owners_wf hw d _), vacate_owner hw, vacate_unit]
    simp only [DeskUnit.deserted, DeskUnit.aborted_home]
    by_cases h1 : s.owner a = some d
    · simp [h1]
    · by_cases h2 : s.owner a = none
      · simp [h2]
      · simp [h1, h2]

end Sys2Proof.Machine
end

section
/-! PROOFS. The laws of who is signed on where and of ownership, desk by desk (R35, R64, R88, R91, R118, R129). -/

namespace Sys2Proof.Machine

/-! ### The law of one desk -/

/-- The sign-on result of a slot of a unit. -/
def DeskUnit.result (u : DeskUnit) (k : SlotId) : Option SignOn := (u.slot k).state.result?

/-- The operator signed on in a slot of a unit. -/
def DeskUnit.signs (u : DeskUnit) (k : SlotId) : Option OpIndex := (u.result k).bind SignOn.op?

theorem resultAt_eq (s : State) (d : Desk) (k : SlotId) : s.resultAt d k = (s.unit d).result k := rfl

theorem signedOn_eq (s : State) (d : Desk) (k : SlotId) : s.signedOn d k = (s.unit d).signs k := rfl

/-- No result of a holder or of an incoming operator. -/
def Plain (r : Option SignOn) : Prop := ∀ op, r ≠ some (.holder op) ∧ r ≠ some (.incoming op)

/-- What the slots hold in each state of a desk (R64, R91, R118). -/
def DeskUnit.Fits (u : DeskUnit) : Prop :=
  match u.state with
  | .outOfService => ∀ k, (u.slot k).state = .empty ∨ (u.slot k).state = .oneContact ∨ (u.slot k).state = .unpowered
  | .vacant => ∀ k, Plain (u.result k)
  | .attended k => (∃ op, u.result k = some (.holder op)) ∧ Plain (u.result k.other)
  | .handoverOpen k h => u.result k = some (.holder h.outgoing) ∧ Plain (u.result k.other)
  | .handoverReview k h inc => u.result k = some (.holder h.outgoing) ∧ u.result k.other = some (.incoming inc)

/-- The laws of one desk: what its slots hold, records for who is signed on, an incoming operator qualified for what the
desk owns, and a holder with every area the desk owns in the permitted set. -/
structure State.LawfulAt (s : State) (d : Desk) : Prop where
  fits : (s.unit d).Fits
  recorded : ∀ k op, (s.unit d).signs k = some op → (s.operator op).isSome = true
  qualified : ∀ hk h inc r, (s.unit d).state = .handoverReview hk h inc → s.operator inc = some r →
    r.role.atLeast .operator = true ∧ s.Covers d r.areas
  owns : ∀ a, s.owner a = some d → ∃ k op r, (s.unit d).state.holderSlot? = some k ∧
    (s.unit d).result k = some (.holder op) ∧ s.operator op = some r ∧ inSet r.areas a = true

/-- An operator is signed on in one slot (R88). -/
def State.Apart (s : State) : Prop :=
  ∀ d k d' k' op, (s.unit d).signs k = some op → (s.unit d').signs k' = some op → d = d' ∧ k = k'

/-! ### The law of one desk and the law of all -/

theorem Plain.none : Plain none := fun _ => ⟨by simp, by simp⟩

theorem plain_companion (op : OpIndex) (nq : Bool) : Plain (some (.companion op nq)) := fun _ => ⟨by simp, by simp⟩

theorem plain_refused (r : KeyRefusal) : Plain (some (.refused r)) := fun _ => ⟨by simp, by simp⟩

/-- In a unit that fits its state the holder slot alone holds a holder (R91). -/
theorem DeskUnit.Fits.holder_iff {u : DeskUnit} (h : u.Fits) (k : SlotId) :
    (∃ op, u.result k = some (.holder op)) ↔ u.state.holderSlot? = some k := by
  simp only [DeskUnit.Fits] at h
  cases hst : u.state with
  | outOfService =>
    simp only [hst] at h
    simp only [DeskState.holderSlot?, reduceCtorEq, iff_false, not_exists]
    intro op hop
    obtain hk | hk | hk := h k <;> simp [DeskUnit.result, hk, SlotState.result?] at hop
  | vacant =>
    simp only [hst] at h
    simp only [DeskState.holderSlot?, reduceCtorEq, iff_false, not_exists]
    exact fun op => (h k op).1
  | attended hk =>
    simp only [hst] at h
    simp only [DeskState.holderSlot?, Option.some.injEq]
    obtain rfl | rfl := SlotId.eq_or_other hk k
    · exact iff_of_true h.1 rfl
    · exact iff_of_false (fun ⟨op, hop⟩ => (h.2 op).1 hop) (fun he => SlotId.other_ne _ he.symm)
  | handoverOpen hk x =>
    simp only [hst] at h
    simp only [DeskState.holderSlot?, Option.some.injEq]
    obtain rfl | rfl := SlotId.eq_or_other hk k
    · exact iff_of_true ⟨_, h.1⟩ rfl
    · exact iff_of_false (fun ⟨op, hop⟩ => (h.2 op).1 hop) (fun he => SlotId.other_ne _ he.symm)
  | handoverReview hk x inc =>
    simp only [hst] at h
    simp only [DeskState.holderSlot?, Option.some.injEq]
    obtain rfl | rfl := SlotId.eq_or_other hk k
    · exact iff_of_true ⟨_, h.1⟩ rfl
    · exact iff_of_false (fun ⟨op, hop⟩ => by simp [h.2] at hop) (fun he => SlotId.other_ne _ he.symm)

/-- In a unit that fits its state the other slot in HANDOVER_REVIEW alone holds an incoming operator (R118). -/
theorem DeskUnit.Fits.incoming_iff {u : DeskUnit} (h : u.Fits) (k : SlotId) (op : OpIndex) :
    u.result k = some (.incoming op) ↔ ∃ hk x, u.state = .handoverReview hk x op ∧ k = hk.other := by
  simp only [DeskUnit.Fits] at h
  cases hst : u.state with
  | outOfService =>
    simp only [hst] at h
    refine iff_of_false (fun hop => ?_) (by simp)
    obtain hk | hk | hk := h k <;> simp [DeskUnit.result, hk, SlotState.result?] at hop
  | vacant =>
    simp only [hst] at h
    exact iff_of_false (h k op).2 (by simp)
  | attended hk =>
    simp only [hst] at h
    refine iff_of_false (fun hop => ?_) (by simp)
    obtain rfl | rfl := SlotId.eq_or_other hk k
    · obtain ⟨x, hx⟩ := h.1
      simp [hx] at hop
    · exact (h.2 op).2 hop
  | handoverOpen hk x =>
    simp only [hst] at h
    refine iff_of_false (fun hop => ?_) (by simp)
    obtain rfl | rfl := SlotId.eq_or_other hk k
    · simp [h.1] at hop
    · exact (h.2 op).2 hop
  | handoverReview hk x inc =>
    simp only [hst] at h
    simp only [DeskState.handoverReview.injEq]
    obtain rfl | rfl := SlotId.eq_or_other hk k
    · refine iff_of_false (fun hop => by simp [h.1] at hop) ?_
      rintro ⟨_, _, ⟨rfl, _⟩, he⟩
      exact SlotId.other_ne _ he.symm
    · rw [h.2]
      simp only [Option.some.injEq, SignOn.incoming.injEq]
      constructor
      · rintro rfl; exact ⟨hk, x, ⟨rfl, rfl, rfl⟩, rfl⟩
      · rintro ⟨_, _, ⟨_, _, rfl⟩, _⟩; rfl

theorem holder_some_iff {s : State} {d : Desk} {op : OpIndex} :
    s.holder d = some op ↔ ∃ k, (s.unit d).state.holderSlot? = some k ∧ (s.unit d).result k = some (.holder op) := by
  have hr : ∀ k, (s.slot d k).state.result? = (s.unit d).result k := fun _ => rfl
  simp only [State.holder]
  cases (s.unit d).state.holderSlot? with
  | none => simp
  | some k =>
    simp only [hr, Option.some.injEq, exists_eq_left']
    split
    · rename_i op' h; simp [h]
    · rename_i h
      simp only [reduceCtorEq, false_iff]
      exact fun h' => h op h'

theorem holderRecord_some_iff {s : State} {d : Desk} {op : OpIndex} {r : OperatorRecord} :
    s.holderRecord d = some (op, r) ↔ s.holder d = some op ∧ s.operator op = some r := by
  simp only [State.holderRecord, Option.bind_eq_some_iff, Option.map_eq_some_iff, Prod.mk.injEq]
  constructor
  · rintro ⟨x, hx, y, hy, rfl, rfl⟩; exact ⟨hx, hy⟩
  · rintro ⟨hx, hy⟩; exact ⟨op, hx, r, hy, rfl, rfl⟩

/-- In a unit that fits its state the outgoing operator is the holder (R118). -/
theorem DeskUnit.Fits.outgoing {u : DeskUnit} (h : u.Fits) {x : Handover} (hx : u.state.handover? = some x) :
    ∃ k, u.state.holderSlot? = some k ∧ u.result k = some (.holder x.outgoing) := by
  simp only [DeskUnit.Fits] at h
  cases hst : u.state with
  | handoverOpen k y =>
    simp only [hst, DeskState.handover?, Option.some.injEq] at h hx
    subst hx
    exact ⟨k, rfl, h.1⟩
  | handoverReview k y inc =>
    simp only [hst, DeskState.handover?, Option.some.injEq] at h hx
    subst hx
    exact ⟨k, rfl, h.1⟩
  | _ => simp [hst, DeskState.handover?] at hx

/-- The laws of sign-on give what the slots of each desk hold. -/
theorem fits_of_signOns {s : State} (h : s.SignOnsLawful) (d : Desk) : (s.unit d).Fits := by
  obtain ⟨-, -, hhold, hinc, hout, -, hoos⟩ := h
  have hp : ∀ k, (s.unit d).state.holderSlot? ≠ some k →
      (∀ hk x op, (s.unit d).state ≠ .handoverReview hk x op) → Plain ((s.unit d).result k) := by
    refine fun k h1 h2 op => ⟨fun hr => h1 ((hhold d k).1 ⟨op, hr⟩), fun hr => ?_⟩
    obtain ⟨hk, x, hst, -⟩ := (hinc d k op).1 hr
    exact h2 hk x op hst
  simp only [DeskUnit.Fits]
  cases hst : (s.unit d).state with
  | outOfService => exact fun k => hoos d k hst
  | vacant => exact fun k => hp k (by simp [hst, DeskState.holderSlot?]) (by simp [hst])
  | attended k =>
    exact ⟨(hhold d k).2 (by simp [hst, DeskState.holderSlot?]),
      hp _ (by simp [hst, DeskState.holderSlot?, (SlotId.other_ne k).symm]) (by simp [hst])⟩
  | handoverOpen k x =>
    obtain ⟨k', hk', hr⟩ := holder_some_iff.1 (hout d x (by simp [hst, DeskState.handover?]))
    simp only [hst, DeskState.holderSlot?, Option.some.injEq] at hk'
    subst hk'
    exact ⟨hr, hp _ (by simp [hst, DeskState.holderSlot?, (SlotId.other_ne k).symm]) (by simp [hst])⟩
  | handoverReview k x inc =>
    obtain ⟨k', hk', hr⟩ := holder_some_iff.1 (hout d x (by simp [hst, DeskState.handover?]))
    simp only [hst, DeskState.holderSlot?, Option.some.injEq] at hk'
    subst hk'
    exact ⟨hr, (hinc d k.other inc).2 ⟨k, x, hst, rfl⟩⟩

/-- The laws of desks and areas, desk by desk. -/
theorem desksLawful_iff (s : State) : s.DesksLawful ↔
    tableWf s.operators = true ∧ tableWf s.owners = true ∧ s.Apart ∧ ∀ d, s.LawfulAt d := by
  constructor
  · rintro ⟨hops, how, hs, hown⟩
    have hfit := fits_of_signOns hs
    obtain ⟨hrec, hap, -, -, -, hqual, -⟩ := hs
    refine ⟨hops, how, hap, fun d => ⟨hfit d, hrec d, hqual d, fun a ha => ?_⟩⟩
    obtain ⟨op, r, hr, ha⟩ := hown a d ha
    obtain ⟨hh, hr⟩ := holderRecord_some_iff.1 hr
    obtain ⟨k, hk, hres⟩ := holder_some_iff.1 hh
    exact ⟨k, op, r, hk, hres, hr, ha⟩
  · rintro ⟨hops, how, hap, hat⟩
    refine ⟨hops, how, ⟨fun d => (hat d).recorded, hap, fun d => (hat d).fits.holder_iff, fun d => (hat d).fits.incoming_iff,
      fun d h hd => holder_some_iff.2 ((hat d).fits.outgoing hd), fun d => (hat d).qualified, fun d k hst => ?_⟩, ?_⟩
    · have h := (hat d).fits
      simp only [DeskUnit.Fits, hst] at h
      exact h k
    · intro a d ha
      obtain ⟨k, op, r, hk, hres, hr, ha⟩ := (hat d).owns a ha
      exact ⟨op, r, holderRecord_some_iff.2 ⟨holder_some_iff.2 ⟨k, hk, hres⟩, hr⟩, ha⟩

/-- The laws of every desk but one. -/
structure State.BesidesLawful (s : State) (d : Desk) : Prop where
  operators : tableWf s.operators = true
  owners : tableWf s.owners = true
  apart : s.Apart
  others : ∀ e, e ≠ d → s.LawfulAt e

theorem State.DesksLawful.besides {s : State} (h : s.DesksLawful) (d : Desk) : s.BesidesLawful d := by
  obtain ⟨h1, h2, h3, h4⟩ := (desksLawful_iff s).1 h
  exact ⟨h1, h2, h3, fun e _ => h4 e⟩

theorem State.DesksLawful.at {s : State} (h : s.DesksLawful) (d : Desk) : s.LawfulAt d :=
  ((desksLawful_iff s).1 h).2.2.2 d

/-- Work at one desk keeps the laws of every other: nobody is signed on anew, and no other desk gains an area. -/
theorem State.BesidesLawful.atDesk {s t : State} {d : Desk} (hs : s.BesidesLawful d) (h : s.AtDesk d t)
    (hwf : tableWf t.owners = true) (hown : ∀ a e, e ≠ d → t.owner a = some e → s.owner a = some e)
    (hsub : ∀ k op, (t.unit d).signs k = some op → (s.unit d).signs k = some op) : t.BesidesLawful d := by
  have hops : t.operators = s.operators := h.operators
  have hop : ∀ i, t.operator i = s.operator i := fun i => by simp only [State.operator, hops]
  refine ⟨hops ▸ hs.operators, hwf, ?_, fun e he => ?_⟩
  · have hsub' : ∀ e k op, (t.unit e).signs k = some op → (s.unit e).signs k = some op := by
      intro e k op
      by_cases he : e = d
      · subst he; exact hsub k op
      · rw [h.others e he]; exact id
    exact fun e k e' k' op h1 h2 => hs.apart e k e' k' op (hsub' e k op h1) (hsub' e' k' op h2)
  · obtain ⟨h1, h2, h3, h4⟩ := hs.others e he
    rw [← h.others e he] at h1 h2 h3 h4
    refine ⟨h1, fun k op => by rw [hop]; exact h2 k op, fun hk x inc r hst hr => ?_, fun a ha => ?_⟩
    · rw [hop] at hr
      obtain ⟨hrole, hcov⟩ := h3 hk x inc r hst hr
      exact ⟨hrole, fun a ha => hcov a (hown a e he ha)⟩
    · simpa only [hop] using h4 a (hown a e he ha)

theorem State.BesidesLawful.all {s : State} {d : Desk} (h : s.BesidesLawful d) (hd : s.LawfulAt d) : s.DesksLawful := by
  refine (desksLawful_iff s).2 ⟨h.operators, h.owners, h.apart, fun e => ?_⟩
  by_cases he : e = d
  · subst he; exact hd
  · exact h.others e he

/-! ### What leaves the laws alone -/

/-- The operator table, the ownership table and the desk units are as they were. -/
theorem State.DesksLawful.congr {s t : State} (hs : s.DesksLawful) (h1 : t.operators = s.operators)
    (h2 : t.owners = s.owners) (h3 : t.desks = s.desks) : t.DesksLawful := by
  have hop : t.operator = s.operator := by funext i; simp only [State.operator, h1]
  have how : t.owner = s.owner := by funext i; simp only [State.owner, h2]
  have hu : t.unit = s.unit := by funext i; simp only [State.unit, h3]
  have hcov : ∀ d set, t.Covers d set = s.Covers d set := fun d set => by simp only [State.Covers, how]
  obtain ⟨k1, k2, k3, k4⟩ := (desksLawful_iff s).1 hs
  refine (desksLawful_iff t).2 ⟨h1 ▸ k1, h2 ▸ k2, by simpa only [State.Apart, hu] using k3, fun d => ?_⟩
  obtain ⟨j1, j2, j3, j4⟩ := k4 d
  exact ⟨by rw [hu]; exact j1, by rw [hu, hop]; exact j2, by rw [hu, hop]; simpa only [hcov] using j3,
    by rw [hu, hop, how]; exact j4⟩

/-- The desk state with nothing of the handover record but the outgoing operator. -/
def DeskState.bare (st : DeskState) : DeskState :=
  st.mapHandover fun h => { outgoing := h.outgoing, openedAt := 0, limitExpiry := 0, carried := [] }

/-- A unit with the same slot states, the same desk state but for the handover record's times and carried list. -/
structure DeskUnit.Alike (u v : DeskUnit) : Prop where
  slots : ∀ k, (v.slot k).state = (u.slot k).state
  state : v.state.bare = u.state.bare

theorem DeskUnit.Alike.refl (u : DeskUnit) : u.Alike u := ⟨fun _ => rfl, rfl⟩

theorem DeskUnit.Alike.result {u v : DeskUnit} (h : u.Alike v) (k : SlotId) : v.result k = u.result k := by
  rw [DeskUnit.result, h.slots, DeskUnit.result]

theorem DeskUnit.Alike.signs {u v : DeskUnit} (h : u.Alike v) (k : SlotId) : v.signs k = u.signs k := by
  rw [DeskUnit.signs, h.result, DeskUnit.signs]

theorem bare_holderSlot (st : DeskState) : st.bare.holderSlot? = st.holderSlot? := by cases st <;> rfl

theorem DeskUnit.Alike.holderSlot {u v : DeskUnit} (h : u.Alike v) : v.state.holderSlot? = u.state.holderSlot? := by
  rw [← bare_holderSlot, h.state, bare_holderSlot]

theorem bare_review_iff (st : DeskState) (k : SlotId) (inc : OpIndex) :
    (∃ h, st = .handoverReview k h inc) ↔ ∃ h, st.bare = .handoverReview k h inc := by
  cases st <;> simp [DeskState.bare, DeskState.mapHandover]

theorem fits_bare (u : DeskUnit) : DeskUnit.Fits { u with state := u.state.bare } ↔ u.Fits := by
  have hs : ∀ st k, DeskUnit.result { u with state := st } k = u.result k := fun st k => by simp [DeskUnit.result]
  simp only [DeskUnit.Fits, hs, DeskUnit.slot_state]
  cases u.state <;> exact Iff.rfl

theorem DeskUnit.Alike.fits {u v : DeskUnit} (h : u.Alike v) (hu : u.Fits) : v.Fits := by
  rw [← fits_bare] at hu ⊢
  have hr : ∀ k, DeskUnit.result { v with state := v.state.bare } k = DeskUnit.result { u with state := u.state.bare } k :=
    fun k => by simp only [DeskUnit.result, DeskUnit.slot_state, h.slots]
  simp only [DeskUnit.Fits, DeskUnit.slot_state, h.slots, hr] at hu ⊢
  rw [h.state]
  exact hu

theorem State.LawfulAt.alike {s t : State} {d : Desk} (hs : s.LawfulAt d) (hu : (s.unit d).Alike (t.unit d))
    (hop : t.operator = s.operator) (how : ∀ a, t.owner a = some d → s.owner a = some d) : t.LawfulAt d := by
  obtain ⟨h1, h2, h3, h4⟩ := hs
  refine ⟨hu.fits h1, fun k op => by rw [hu.signs, hop]; exact h2 k op, fun hk x inc r hst hr => ?_, fun a ha => ?_⟩
  · obtain ⟨y, hy⟩ := (bare_review_iff (s.unit d).state hk inc).2
      (hu.state ▸ (bare_review_iff (t.unit d).state hk inc).1 ⟨x, hst⟩)
    obtain ⟨hrole, hcov⟩ := h3 hk y inc r hy (hop ▸ hr)
    exact ⟨hrole, fun a ha => hcov a (how a ha)⟩
  · obtain ⟨k, op, r, hk, hres, hr, ha⟩ := h4 a (how a ha)
    exact ⟨k, op, r, hu.holderSlot ▸ hk, (hu.result k).trans hres, hop ▸ hr, ha⟩

/-- Every unit alike, every owner as before. -/
theorem State.DesksLawful.alike {s t : State} (hs : s.DesksLawful) (h1 : t.operators = s.operators)
    (h2 : t.owners = s.owners) (hu : ∀ d, (s.unit d).Alike (t.unit d)) : t.DesksLawful := by
  have hop : t.operator = s.operator := by funext i; simp only [State.operator, h1]
  obtain ⟨k1, k2, k3, k4⟩ := (desksLawful_iff s).1 hs
  refine (desksLawful_iff t).2 ⟨h1 ▸ k1, h2 ▸ k2, fun d k d' k' op => ?_, fun d => (k4 d).alike (hu d) hop fun a => ?_⟩
  · rw [(hu d).signs, (hu d').signs]; exact k3 d k d' k' op
  · simp only [State.owner, h2]; exact id

/-- One unit changed to one alike. -/
theorem State.DesksLawful.putUnit {s : State} (hs : s.DesksLawful) {d : Desk} {u : DeskUnit}
    (hu : (s.unit d).Alike u) : (s.putUnit d u).DesksLawful :=
  hs.alike rfl rfl fun e => by
    rw [State.unit_putUnit]
    split
    · rename_i he; subst he; exact hu
    · exact .refl _

end Sys2Proof.Machine
end

section
/-! PROOFS. The operations of points, carried lists and desk units keep the laws of ownership and sign-on. -/

namespace Sys2Proof.Machine

/-! ### Results of changed units -/

@[simp] theorem DeskUnit.result_withState (u : DeskUnit) (st : DeskState) (k : SlotId) :
    DeskUnit.result { u with state := st } k = u.result k := by
  simp [DeskUnit.result]

@[simp] theorem DeskUnit.result_withStateDue (u : DeskUnit) (st : DeskState) (due : Option DueMark) (k : SlotId) :
    DeskUnit.result { u with state := st, due := due } k = u.result k := by
  simp [DeskUnit.result]

theorem setResult_result? (r : SignOn) (st : SlotState) : (st.setResult r).result? = st.result?.map fun _ => r := by
  cases st <;> rfl

@[simp] theorem DeskUnit.result_withResult_self (u : DeskUnit) (k : SlotId) (r : SignOn) :
    (u.withResult k r).result k = (u.result k).map fun _ => r := by
  simp only [DeskUnit.result, DeskUnit.withResult, DeskUnit.slot_setSlot_self, setResult_result?]

@[simp] theorem DeskUnit.result_withResult_other (u : DeskUnit) (k : SlotId) (r : SignOn) :
    (u.withResult k r).result k.other = u.result k.other := by
  simp only [DeskUnit.result, DeskUnit.withResult, DeskUnit.slot_setSlot_other]

@[simp] theorem DeskUnit.result_withResult_of_other (u : DeskUnit) (k : SlotId) (r : SignOn) :
    (u.withResult k.other r).result k = u.result k := by
  simp only [DeskUnit.result, DeskUnit.withResult, DeskUnit.slot_setSlot_of_other]

@[simp] theorem DeskUnit.result_setSlot_self (u : DeskUnit) (k : SlotId) (v : Slot) :
    (u.setSlot k v).result k = v.state.result? := by
  simp only [DeskUnit.result, DeskUnit.slot_setSlot_self]

@[simp] theorem DeskUnit.result_setSlot_other (u : DeskUnit) (k : SlotId) (v : Slot) :
    (u.setSlot k v).result k.other = u.result k.other := by
  simp only [DeskUnit.result, DeskUnit.slot_setSlot_other]

/-- Signing off at most: the operators signed on in one unit are signed on in the same slots of another. -/
def DeskUnit.SignsFewer (u v : DeskUnit) : Prop := ∀ k op, v.signs k = some op → u.signs k = some op

theorem DeskUnit.SignsFewer.of_slots {u v : DeskUnit} (k : SlotId) (h1 : ∀ op, v.signs k = some op → u.signs k = some op)
    (h2 : ∀ op, v.signs k.other = some op → u.signs k.other = some op) : u.SignsFewer v := fun k' => by
  obtain rfl | rfl := SlotId.eq_or_other k k'
  · exact h1
  · exact h2

/-! ### The carried list and the abort -/

theorem enter_desksLawful {s : State} (hs : s.DesksLawful) (w : Draft) : (enter w s).DesksLawful :=
  hs.congr (enter_operators w s) (enter_owners w s) (enter_desks w s)

theorem mapCarried_alike (u : DeskUnit) (f : List Carried → List Carried) :
    u.Alike { u with state := u.state.mapHandover fun h => { h with carried := f h.carried } } := by
  refine ⟨fun k => by rw [DeskUnit.slot_state], ?_⟩
  dsimp only
  cases u.state <;> rfl

theorem mapCarried_desksLawful {s : State} (hs : s.DesksLawful) (d : Desk) (f : List Carried → List Carried) :
    (s.mapCarried d f).DesksLawful := hs.putUnit (mapCarried_alike _ f)

theorem DeskUnit.Fits.aborted {u : DeskUnit} (h : u.Fits) : u.aborted.Fits := by
  have h0 := h
  simp only [DeskUnit.Fits] at h
  simp only [DeskUnit.aborted]
  cases hst : u.state with
  | handoverOpen k x =>
    simp only [hst] at h
    simp only [DeskUnit.Fits, DeskUnit.result_withState]
    exact ⟨⟨_, h.1⟩, h.2⟩
  | handoverReview k x inc =>
    simp only [hst] at h
    simp only [DeskUnit.Fits, DeskUnit.result_withState, DeskUnit.result_withResult_self,
      DeskUnit.result_withResult_of_other, h.2, Option.map_some]
    exact ⟨⟨_, h.1⟩, plain_companion _ _⟩
  | _ => exact h0

theorem DeskUnit.Fits.aborted_signs {u : DeskUnit} (h : u.Fits) (k : SlotId) : u.aborted.signs k = u.signs k := by
  simp only [DeskUnit.Fits] at h
  simp only [DeskUnit.aborted, DeskUnit.signs]
  cases hst : u.state with
  | handoverOpen hk x => simp
  | handoverReview hk x inc =>
    simp only [hst] at h
    rw [DeskUnit.result_withState]
    obtain rfl | rfl := SlotId.eq_or_other hk k
    · rw [DeskUnit.result_withResult_of_other]
    · rw [DeskUnit.result_withResult_self, h.2]; rfl
  | _ => rfl

/-- An abort leaves the holder (R134). -/
theorem DeskUnit.aborted_holder {u : DeskUnit} {k : SlotId} (h : u.state.holderSlot? = some k) :
    u.aborted.state.holderSlot? = some k ∧ u.aborted.result k = u.result k := by
  simp only [DeskUnit.aborted]
  cases hst : u.state with
  | handoverReview hk x inc =>
    simp only [hst, DeskState.holderSlot?, Option.some.injEq] at h
    subst h
    exact ⟨rfl, by rw [DeskUnit.result_withState, DeskUnit.result_withResult_of_other]⟩
  | handoverOpen hk x =>
    simp only [hst, DeskState.holderSlot?, Option.some.injEq] at h
    subst h
    exact ⟨rfl, by simp⟩
  | _ => simp_all

theorem DeskUnit.aborted_not_review (u : DeskUnit) (k : SlotId) (x : Handover) (inc : OpIndex) :
    u.aborted.state ≠ .handoverReview k x inc := by
  simp only [DeskUnit.aborted]
  cases hst : u.state <;> simp [hst]

theorem abortHandover_desksLawful {s : State} (hs : s.DesksLawful) (d : Desk) (reason : AbortReason) :
    (abortHandover d reason s).DesksLawful := by
  have hat := abortHandover_atDesk d reason s
  have hop : (abortHandover d reason s).operator = s.operator := by funext i; simp only [State.operator, hat.operators]
  have how : (abortHandover d reason s).owner = s.owner := by funext i; simp only [State.owner, abortHandover_owners]
  obtain ⟨h1, h2, h3, h4⟩ := hs.at d
  have hb := (hs.besides d).atDesk hat (by rw [abortHandover_owners]; exact (hs.besides d).owners)
    (fun a e _ => by rw [how]; exact id) (fun k op => by rw [abortHandover_unit, h1.aborted_signs]; exact id)
  refine hb.all ⟨?_, ?_, ?_, ?_⟩
  · rw [abortHandover_unit]; exact h1.aborted
  · intro k op; rw [abortHandover_unit, h1.aborted_signs, hop]; exact h2 k op
  · intro hk x inc r hst
    rw [abortHandover_unit] at hst
    exact absurd hst ((s.unit d).aborted_not_review hk x inc)
  · intro a ha
    rw [how] at ha
    obtain ⟨k, op, r, hk, hres, hr, ha⟩ := h4 a ha
    obtain ⟨hk', hres'⟩ := DeskUnit.aborted_holder hk
    rw [abortHandover_unit, hop]
    exact ⟨k, op, r, hk', hres'.trans hres, hr, ha⟩

theorem carryEntry_desksLawful {s : State} (hs : s.DesksLawful) (d : Desk) (t : Tag) (st : Standing) :
    (carryEntry d t st s).DesksLawful := by
  simp only [carryEntry]
  split
  · exact mapCarried_desksLawful hs d _
  · split
    · exact mapCarried_desksLawful hs d _
    · exact abortHandover_desksLawful hs d _

theorem tellDesk_desksLawful {s : State} (hs : s.DesksLawful) (d : Desk) (t : Tag) (st : Option Standing) :
    (tellDesk d t st s).DesksLawful := by
  cases st with
  | none => exact mapCarried_desksLawful hs d _
  | some st =>
    cases st with
    | unack =>
      simp only [tellDesk]
      split
      · exact carryEntry_desksLawful hs d t .unack
      · exact hs
    | rtnUnack => exact mapCarried_desksLawful hs d _
    | acked => exact mapCarried_desksLawful hs d _

theorem tellTarget_desksLawful {s : State} (hs : s.DesksLawful) (x : Target) (t : Tag) (st : Option Standing) :
    (tellTarget x t st s).DesksLawful := by
  cases x with
  | desk d => exact tellDesk_desksLawful hs d t st
  | room => exact hs

theorem takeIn_desksLawful {s : State} (hs : s.DesksLawful) (d : Desk) (item : Item) : (takeIn d item s).DesksLawful := by
  simp only [takeIn]
  split
  · split
    · exact carryEntry_desksLawful hs d _ _
    · exact hs
  · exact hs

/-! ### Points -/

theorem putPoint_desksLawful {s : State} (hs : s.DesksLawful) (t : Tag) (p : Point) : (s.putPoint t p).DesksLawful :=
  hs.congr rfl rfl rfl

theorem changePointAt_desksLawful {s : State} (hs : s.DesksLawful) (x : Target) (t : Tag) (old new : Point) :
    (changePointAt x t old new s).DesksLawful := by
  have h1 := putPoint_desksLawful hs t new.unlisted
  simp only [changePointAt]
  split
  · exact tellTarget_desksLawful (enter_desksLawful h1 _) x t _
  · split
    · exact tellTarget_desksLawful h1 x t _
    · exact h1

theorem arriveAt_desksLawful {s : State} (hs : s.DesksLawful) (x : Target) (t : Tag) (old new : Point) :
    (arriveAt x t old new s).DesksLawful :=
  changePointAt_desksLawful (s := addWeight x _ s) (hs.congr rfl rfl rfl) x t old _

theorem autoAcknowledge_desksLawful {s : State} (hs : s.DesksLawful) (t : Tag) (old new : Point) :
    (autoAcknowledge t old new s).DesksLawful := changePointAt_desksLawful (enter_desksLawful hs _) _ t old _

theorem activeFrame_desksLawful {s : State} (hs : s.DesksLawful) (t : Tag) (p : Point) :
    (activeFrame t p s).DesksLawful := by
  simp only [activeFrame]
  split
  · split
    · exact arriveAt_desksLawful hs _ t p _
    · exact autoAcknowledge_desksLawful hs t p _
  · split
    · exact arriveAt_desksLawful hs _ t p _
    · exact putPoint_desksLawful hs t _
  all_goals exact putPoint_desksLawful hs t _

theorem clearFrame_desksLawful {s : State} (hs : s.DesksLawful) (t : Tag) (p : Point) :
    (clearFrame t p s).DesksLawful := by
  simp only [clearFrame]
  split
  · split
    · exact changePointAt_desksLawful hs _ t p _
    · exact putPoint_desksLawful hs t _
  · exact changePointAt_desksLawful hs _ t p _
  all_goals exact putPoint_desksLawful hs t _

theorem returnFromShelf_desksLawful {s : State} (hs : s.DesksLawful) (t : Tag) (p : Point) :
    (returnFromShelf t p s).DesksLawful := by
  simp only [returnFromShelf]
  split
  · split
    · exact arriveAt_desksLawful hs _ t p _
    · exact autoAcknowledge_desksLawful hs t p _
  · exact changePointAt_desksLawful hs _ t p _

theorem forcedRealarm_desksLawful {s : State} (hs : s.DesksLawful) (d : Desk) (t : Tag) :
    (forcedRealarm d t s).DesksLawful := by
  simp only [forcedRealarm]
  split
  · split
    · split
      · exact arriveAt_desksLawful hs _ t _ _
      · exact hs
    · exact hs
  · exact hs

theorem moveArea_desksLawful {s : State} (hs : s.DesksLawful) (t : Tag) (a : Area) : (moveArea t a s).DesksLawful := by
  simp only [moveArea]
  split
  · rename_i p _
    split
    · have h1 := tellTarget_desksLawful (putPoint_desksLawful hs t { p with area := a, silenced := false })
        (s.target p.area) t none
      split
      · exact takeIn_desksLawful h1 _ _
      · exact h1
    · exact putPoint_desksLawful hs t _
  · exact hs

theorem applySetPoint_desksLawful {s : State} (hs : s.DesksLawful) (t : Tag) (c : StoredPoint) :
    (applySetPoint t c s).DesksLawful := by
  simp only [applySetPoint]
  split
  · exact putPoint_desksLawful hs t _
  · exact moveArea_desksLawful (changePointAt_desksLawful hs _ t _ _) t c.area

theorem foldl_desksLawful {α : Type} {f : State → α → State} (h : ∀ (s : State) a, s.DesksLawful → (f s a).DesksLawful)
    (l : List α) {s : State} (hs : s.DesksLawful) : (l.foldl f s).DesksLawful := by
  induction l generalizing s with
  | nil => exact hs
  | cons a rest ih => exact ih (h s a hs)

theorem reroute_desksLawful {after : State} (hs : after.DesksLawful) (before : State) :
    (reroute before after).DesksLawful := by
  simp only [reroute]
  refine foldl_desksLawful (fun s d h => foldl_desksLawful (fun s e h => takeIn_desksLawful h d e) _ h) _ ?_
  refine foldl_desksLawful (fun s d h => mapCarried_desksLawful h d _) _ ?_
  exact hs.congr rfl rfl rfl

theorem silenceDesk_desksLawful {s : State} (hs : s.DesksLawful) (d : Desk) (op : OpIndex) :
    (silenceDesk d op s).DesksLawful := by
  have hlist : ∀ (x : Target) (s : State), s.DesksLawful → (silenceList x s).DesksLawful := fun _ _ h => h.congr rfl rfl rfl
  have h2 : State.DesksLawful (if (s.roomSilenceCount d).isSome then silenceList .room (silenceList (.desk d) s)
      else silenceList (.desk d) s) := by
    split
    · exact hlist _ _ (hlist _ _ hs)
    · exact hlist _ _ hs
  have hset : ∀ s : State, s.DesksLawful → (setPending .alarm s).DesksLawful := fun s h => by
    obtain ⟨_, _, _, he⟩ := setPending_eq .alarm s
    rw [he]
    exact h.congr rfl rfl rfl
  simp only [silenceDesk]
  split
  · exact hset _ (enter_desksLawful h2 _)
  · exact enter_desksLawful h2 _

end Sys2Proof.Machine
end

section
/-! PROOFS. Gaining and losing a sign-on, the handover protocol and service keep the laws of ownership and sign-on. -/

namespace Sys2Proof.Machine

/-! ### Slots without a result -/

theorem DeskUnit.Fits.unread {u : DeskUnit} (h : u.Fits) (hst : u.state = .outOfService) (k : SlotId) :
    (u.slot k).state = .empty ∨ (u.slot k).state = .oneContact ∨ (u.slot k).state = .unpowered := by
  simp only [DeskUnit.Fits, hst] at h
  exact h k

theorem DeskUnit.Fits.unread_result {u : DeskUnit} (h : u.Fits) (hst : u.state = .outOfService) (k : SlotId) :
    u.result k = none := by
  obtain hk | hk | hk := h.unread hst k <;> simp [DeskUnit.result, hk, SlotState.result?]

/-- A change of a slot without a result to another without one. -/
theorem DeskUnit.Fits.setSlot {u : DeskUnit} (h : u.Fits) {k : SlotId} {v : Slot} (hold : u.result k = none)
    (hv : v.state.result? = none) (hout : u.state = .outOfService →
      v.state = .empty ∨ v.state = .oneContact ∨ v.state = .unpowered) : (u.setSlot k v).Fits := by
  have hr : ∀ k', (u.setSlot k v).result k' = u.result k' := fun k' => by
    obtain rfl | rfl := SlotId.eq_or_other k k'
    · rw [DeskUnit.result_setSlot_self, hv, hold]
    · rw [DeskUnit.result_setSlot_other]
  have h0 := h
  simp only [DeskUnit.Fits, DeskUnit.setSlot_state, hr] at h ⊢
  cases hst : u.state with
  | outOfService =>
    intro k'
    obtain rfl | rfl := SlotId.eq_or_other k k'
    · rw [DeskUnit.slot_setSlot_self]; exact hout hst
    · rw [DeskUnit.slot_setSlot_other]; exact h0.unread hst _
  | _ => simpa only [hst] using h

theorem putSlot_desksLawful {s : State} (hs : s.DesksLawful) {d : Desk} {k : SlotId} {v : Slot}
    (hold : (s.slot d k).state.result? = none) (hv : v.state.result? = none)
    (hout : (s.unit d).state = .outOfService → v.state = .empty ∨ v.state = .oneContact ∨ v.state = .unpowered) :
    (s.putSlot d k v).DesksLawful := by
  obtain ⟨h1, h2, h3, h4⟩ := hs.at d
  have hr : ∀ k', ((s.unit d).setSlot k v).result k' = (s.unit d).result k' := fun k' => by
    obtain rfl | rfl := SlotId.eq_or_other k k'
    · rw [DeskUnit.result_setSlot_self, hv]; exact hold.symm
    · rw [DeskUnit.result_setSlot_other]
  have hsig : ∀ k', ((s.unit d).setSlot k v).signs k' = (s.unit d).signs k' := fun k' => by
    rw [DeskUnit.signs, hr, DeskUnit.signs]
  refine ((hs.besides d).atDesk (putSlot_atDesk d k v s) (hs.besides d).owners (fun _ _ _ h => h)
    fun k' op => by rw [putSlot_unit, hsig]; exact id).all ⟨?_, ?_, ?_, ?_⟩
  · rw [putSlot_unit]; exact h1.setSlot hold hv hout
  · rw [putSlot_unit]; exact fun k' op => by rw [hsig]; exact h2 k' op
  · rw [putSlot_unit]; simp only [DeskUnit.setSlot_state]; exact h3
  · rw [putSlot_unit]; simp only [DeskUnit.setSlot_state, hr]; exact h4

/-! ### Losing a key (R75, R85, R92) -/

/-- Nobody is signed on in a slot without a sign-on result but REFUSED. -/
theorem plain_of_op {r : Option SignOn} (h : r.bind SignOn.op? = none) : Plain r := by
  intro op
  constructor <;> (rintro rfl; simp [SignOn.op?] at h)

theorem DeskUnit.deserted_result {u : DeskUnit} (h : ∀ k x inc, u.state ≠ .handoverReview k x inc) (k : SlotId) :
    u.deserted.result k = u.result k := by
  simp only [DeskUnit.deserted, DeskUnit.result_withStateDue, DeskUnit.aborted]
  cases hst : u.state with
  | handoverReview hk x inc => exact absurd hst (h hk x inc)
  | handoverOpen hk x => simp
  | _ => rfl

theorem DeskUnit.held_result_self (u : DeskUnit) (k : SlotId) (op : OpIndex) :
    (u.held k op).result k = (u.result k).map fun _ => .holder op := by
  rw [DeskUnit.held, DeskUnit.result_withStateDue, DeskUnit.result_withResult_self]

theorem DeskUnit.held_result_other (u : DeskUnit) (k : SlotId) (op : OpIndex) :
    (u.held k op).result k.other = u.result k.other := by
  rw [DeskUnit.held, DeskUnit.result_withStateDue, DeskUnit.result_withResult_other]

/-- A unit whose slot `k` has become the holder's, the other being plain, fits ATTENDED. -/
theorem DeskUnit.held_fits {u : DeskUnit} {k : SlotId} {r : SignOn} (op : OpIndex) (hk : u.result k = some r)
    (ho : Plain (u.result k.other)) : (u.held k op).Fits := by
  have h1 := u.held_result_self k op
  have h2 := u.held_result_other k op
  rw [hk, Option.map_some] at h1
  rw [← h2] at ho
  exact ⟨⟨op, h1⟩, ho⟩

theorem promotable_some {s : State} {d : Desk} {k : SlotId} {op : OpIndex} {r : OperatorRecord}
    (h : s.promotable d k = some (op, r)) :
    (∃ nq, (s.unit d).result k = some (.companion op nq)) ∧ s.operator op = some r ∧ r.role.atLeast .operator = true := by
  have hr : (s.slot d k).state.result? = (s.unit d).result k := rfl
  simp only [State.promotable, hr] at h
  split at h
  · rename_i op' nq hres
    split at h
    · rename_i r' hop
      split at h
      · rename_i hrole
        simp only [Option.some.injEq, Prod.mk.injEq] at h
        obtain ⟨rfl, rfl⟩ := h
        exact ⟨⟨nq, hres⟩, hop, hrole⟩
      · cases h
    · cases h
  · cases h

/-- A desertion of a desk that has lost its holder's key (R93). -/
theorem desert_desksLawful {v : State} {d : Desk} (hv : v.BesidesLawful d) {k : SlotId} (op : OpIndex) (cause : LossCause)
    (hnr : ∀ k x inc, (v.unit d).state ≠ .handoverReview k x inc) (hk : ((v.unit d).result k).bind SignOn.op? = none)
    (ho : Plain ((v.unit d).result k.other))
    (hrec : ∀ k' op, (v.unit d).signs k' = some op → (v.operator op).isSome = true) :
    (desert d k op cause v).DesksLawful := by
  have hat := desert_atDesk d k op cause v
  have hwf := desert_owners_wf hv.owners d k op cause
  have hop : (desert d k op cause v).operator = v.operator := by funext i; simp only [State.operator, hat.operators]
  have hunit := desert_unit d k op cause v
  have howner := desert_owner hv.owners d k op cause
  generalize desert d k op cause v = t at *
  have hres := DeskUnit.deserted_result hnr
  cases hp : v.promotable d k.other with
  | none =>
    rw [hp] at hunit
    simp only [hp] at howner
    have hsig : ∀ k', (t.unit d).signs k' = (v.unit d).signs k' := fun k' => by
      rw [hunit, DeskUnit.signs, hres, DeskUnit.signs]
    refine (hv.atDesk hat hwf (fun a e he => ?_) fun k' o => by rw [hsig]; exact id).all ⟨?_, ?_, ?_, ?_⟩
    · rw [howner]; split
      · exact fun h => by cases h
      · exact id
    · rw [hunit]
      intro k'
      rw [hres]
      obtain rfl | rfl := SlotId.eq_or_other k k'
      · exact plain_of_op hk
      · exact ho
    · exact fun k' o => by rw [hsig, hop]; exact hrec k' o
    · rw [hunit]; exact fun hk x inc r h => by cases h
    · intro a
      rw [howner]
      split
      · exact fun h => by cases h
      · rename_i h; exact fun h' => absurd h' h
  | some e =>
    obtain ⟨o, r⟩ := e
    rw [hp] at hunit
    simp only [hp] at howner
    obtain ⟨⟨nq, hcomp⟩, hor, -⟩ := promotable_some hp
    have hres_k : (t.unit d).result k = (v.unit d).result k := by
      rw [hunit]
      simpa only [SlotId.other_other, hres] using (v.unit d).deserted.held_result_other k.other o
    have hres_o : (t.unit d).result k.other = some (.holder o) := by
      rw [hunit]
      have h := (v.unit d).deserted.held_result_self k.other o
      rwa [hres, hcomp, Option.map_some] at h
    have hsub : (v.unit d).SignsFewer (t.unit d) := by
      refine .of_slots k (fun x => by rw [DeskUnit.signs, hres_k]; exact id) fun x => ?_
      rw [DeskUnit.signs, hres_o, DeskUnit.signs, hcomp]
      exact id
    refine (hv.atDesk hat hwf (fun a e he => ?_) hsub).all ⟨?_, ?_, ?_, ?_⟩
    · rw [howner]
      split
      · split
        · exact fun h => absurd (Option.some.inj h).symm he
        · exact fun h => by cases h
      · exact id
    · rw [hunit]
      refine DeskUnit.held_fits o (r := .companion o nq) (by rw [hres, hcomp]) ?_
      rw [SlotId.other_other, hres]
      exact plain_of_op hk
    · exact fun k' x h => by rw [hop]; exact hrec k' x (hsub k' x h)
    · rw [hunit]; exact fun hk x inc r h => by cases h
    · intro a ha
      rw [howner] at ha
      have hin : inSet r.areas a = true := by
        split at ha
        · split at ha
          · rename_i h; exact h.2
          · cases ha
        · rename_i h; exact absurd (.inl ha) h
      exact ⟨k.other, o, r, by rw [hunit]; rfl, hres_o, by rw [hop]; exact hor, hin⟩

/-- A desk that the incoming operator in the other slot takes over (R132, R140): the results alone matter. -/
theorem takenOver_desksLawful {v t : State} {d : Desk} (hv : v.BesidesLawful d) {k : SlotId} {inc : OpIndex}
    (hat : v.AtDesk d t) (howners : t.owners = v.owners) (hst : (t.unit d).state = .attended k.other)
    (ho : (t.unit d).result k.other = some (.holder inc)) (hinc : (v.unit d).result k.other = some (.incoming inc))
    (hk : Plain ((t.unit d).result k))
    (hsig : ∀ op, (t.unit d).signs k = some op → (v.unit d).signs k = some op)
    (hrec : ∀ k' op, (v.unit d).signs k' = some op → (v.operator op).isSome = true)
    (hq : ∀ r, v.operator inc = some r → v.Covers d r.areas) : t.DesksLawful := by
  have hop : t.operator = v.operator := by funext i; simp only [State.operator, hat.operators]
  have how : t.owner = v.owner := by funext i; simp only [State.owner, howners]
  have hsub : (v.unit d).SignsFewer (t.unit d) := by
    refine .of_slots k hsig fun x => ?_
    rw [DeskUnit.signs, ho, DeskUnit.signs, hinc]
    exact id
  refine (hv.atDesk hat (howners ▸ hv.owners) (fun a e _ => by rw [how]; exact id) hsub).all ⟨?_, ?_, ?_, ?_⟩
  · simp only [DeskUnit.Fits, hst, SlotId.other_other]
    exact ⟨⟨inc, ho⟩, hk⟩
  · exact fun k' x h => by rw [hop]; exact hrec k' x (hsub k' x h)
  · rw [hst]; exact fun hk x inc r h => by cases h
  · intro a ha
    obtain ⟨r, hr⟩ := Option.isSome_iff_exists.1 (hrec k.other inc (by rw [DeskUnit.signs, hinc]; rfl))
    exact ⟨k.other, inc, r, by rw [hst]; rfl, ho, by rw [hop]; exact hr, hq r hr a (how ▸ ha)⟩

/-- A desk taken over, before the points are re-alarmed (R140). -/
def takeOver (d : Desk) (k : SlotId) (inc : OpIndex) (w : Draft) (s : State) : State :=
  clearDue d ((enter w (s.setResult d k.other (.holder inc))).putDeskState d (.attended k.other))

/-- The HANDOVER_FORCED entry (R140). -/
def forcedEntry (d : Desk) (h : Handover) (inc : OpIndex) (cause : LossCause) : Draft :=
  { kind := .handoverForced, desk := some d, op := some inc, d1 := some (256 * cause.code + h.outgoing.val)
    d2 := some (noted h.carried).length }

theorem forcedTakeover_eq (d : Desk) (k : SlotId) (h : Handover) (inc : OpIndex) (cause : LossCause) (s : State) :
    forcedTakeover d k h inc cause s =
      (noted h.carried).foldl (fun s' t => forcedRealarm d t s') (takeOver d k inc (forcedEntry d h inc cause) s) := rfl

theorem takeOver_atDesk (d : Desk) (k : SlotId) (inc : OpIndex) (w : Draft) (s : State) :
    s.AtDesk d (takeOver d k inc w s) :=
  (((setResult_atDesk d _ _ s).trans (enter_atDesk d w _)).trans (putDeskState_atDesk d _ _)).trans (clearDue_atDesk d _)

@[simp] theorem takeOver_unit (d : Desk) (k : SlotId) (inc : OpIndex) (w : Draft) (s : State) :
    (takeOver d k inc w s).unit d = (s.unit d).held k.other inc := by
  simp [takeOver, DeskUnit.held]

theorem takeOver_owners (d : Desk) (k : SlotId) (inc : OpIndex) (w : Draft) (s : State) :
    (takeOver d k inc w s).owners = s.owners := enter_owners w _

theorem forcedTakeover_desksLawful {v : State} {d : Desk} (hv : v.BesidesLawful d) {k : SlotId} {inc : OpIndex}
    (h : Handover) (cause : LossCause) (hinc : (v.unit d).result k.other = some (.incoming inc))
    (hk : ((v.unit d).result k).bind SignOn.op? = none)
    (hrec : ∀ k' op, (v.unit d).signs k' = some op → (v.operator op).isSome = true)
    (hq : ∀ r, v.operator inc = some r → v.Covers d r.areas) : (forcedTakeover d k h inc cause v).DesksLawful := by
  rw [forcedTakeover_eq]
  have hres_k : ((v.unit d).held k.other inc).result k = (v.unit d).result k := by
    simpa only [SlotId.other_other] using (v.unit d).held_result_other k.other inc
  refine foldl_desksLawful (fun s t h => forcedRealarm_desksLawful h d t) _ ?_
  refine takenOver_desksLawful hv (k := k) (inc := inc) (takeOver_atDesk d k inc _ v) (takeOver_owners _ _ _ _ _)
    (by rw [takeOver_unit]; rfl) ?_ hinc ?_ (fun x => ?_) hrec hq
  · rw [takeOver_unit, DeskUnit.held_result_self, hinc, Option.map_some]
  · rw [takeOver_unit, hres_k]; exact plain_of_op hk
  · rw [takeOver_unit, DeskUnit.signs, hres_k]; exact id

/-- The unit of a desk whose incoming operator leaves (R124). -/
theorem incomingLeaves_unit {d : Desk} {s : State} {hk : SlotId} {h : Handover} {inc : OpIndex}
    (hst : (s.unit d).state = .handoverReview hk h inc) (k : SlotId) (cause : Nat) :
    (incomingLeaves d k cause s).unit d = { s.unit d with
      state := .handoverOpen hk { h with carried := h.carried.map (fun e => { e with briefed := false }) } } := by
  simp only [incomingLeaves, hst, enter_unit, putDeskState_unit]

theorem incomingLeaves_owners (d : Desk) (k : SlotId) (cause : Nat) (s : State) :
    (incomingLeaves d k cause s).owners = s.owners := by
  simp only [incomingLeaves]
  split
  · rw [enter_owners]; rfl
  · rfl

theorem incomingLeaves_desksLawful {v : State} {d : Desk} (hv : v.BesidesLawful d) {hk : SlotId} {h : Handover}
    {inc : OpIndex} (k : SlotId) (cause : Nat) (hst : (v.unit d).state = .handoverReview hk h inc)
    (hhold : (v.unit d).result hk = some (.holder h.outgoing)) (hp : Plain ((v.unit d).result hk.other))
    (hrec : ∀ k' op, (v.unit d).signs k' = some op → (v.operator op).isSome = true)
    (hown : ∀ a, v.owner a = some d → ∃ r, v.operator h.outgoing = some r ∧ inSet r.areas a = true) :
    (incomingLeaves d k cause v).DesksLawful := by
  have hat := incomingLeaves_atDesk d k cause v
  have hunit := incomingLeaves_unit hst k cause
  have howners := incomingLeaves_owners d k cause v
  generalize incomingLeaves d k cause v = t at *
  have hop : t.operator = v.operator := by funext i; simp only [State.operator, hat.operators]
  have how : t.owner = v.owner := by funext i; simp only [State.owner, howners]
  have hres : ∀ k', (t.unit d).result k' = (v.unit d).result k' := fun k' => by rw [hunit, DeskUnit.result_withState]
  have hsig : ∀ k', (t.unit d).signs k' = (v.unit d).signs k' := fun k' => by rw [DeskUnit.signs, hres, DeskUnit.signs]
  refine (hv.atDesk hat (howners ▸ hv.owners) (fun a e _ => by rw [how]; exact id)
    fun k' x => by rw [hsig]; exact id).all ⟨?_, fun k' x => by rw [hsig, hop]; exact hrec k' x, ?_, fun a ha => ?_⟩
  · obtain ⟨h', hh, hst'⟩ : ∃ h' : Handover, h'.outgoing = h.outgoing ∧ (t.unit d).state = .handoverOpen hk h' :=
      ⟨{ h with carried := h.carried.map (fun e => { e with briefed := false }) }, rfl, congrArg DeskUnit.state hunit⟩
    simp only [DeskUnit.Fits, hst', hres, hh]
    exact ⟨hhold, hp⟩
  · rw [hunit]; exact fun _ _ _ _ h => by cases h
  · obtain ⟨r, hr, ha⟩ := hown a (how ▸ ha)
    exact ⟨hk, h.outgoing, r, by rw [hunit]; rfl, by rw [hres]; exact hhold, by rw [hop]; exact hr, ha⟩

end Sys2Proof.Machine
end

section
/-! PROOFS. Keys drawn and revoked, the handover protocol, service, claims, sign-on and the operator table keep the laws
of ownership and sign-on (O8). -/

namespace Sys2Proof.Machine

/-! ### A key drawn or revoked -/

theorem DeskUnit.Fits.holder_state {u : DeskUnit} (h : u.Fits) {k : SlotId} {op : OpIndex}
    (hr : u.result k = some (.holder op)) : u.state.holderSlot? = some k := (h.holder_iff k).1 ⟨op, hr⟩

/-- Beside the holder slot a unit that fits its state and is in no review holds no incoming operator. -/
theorem DeskUnit.Fits.other_plain {u : DeskUnit} (h : u.Fits) {k : SlotId} (hk : u.state.holderSlot? = some k)
    (hnr : ∀ k x inc, u.state ≠ .handoverReview k x inc) : Plain (u.result k.other) := by
  intro op
  constructor
  · intro hr
    have := h.holder_state hr
    rw [hk] at this
    exact SlotId.other_ne k (Option.some.inj this).symm
  · intro hr
    obtain ⟨hk', x, hst, -⟩ := (h.incoming_iff _ op).1 hr
    exact hnr hk' x op hst

/-- What a unit is after one of its slots, which had the result `r`, has been changed to one that signs nobody on, with
the laws that the rest of the desk still keeps. -/
structure State.KeyLost (v : State) (d : Desk) (k : SlotId) (u : DeskUnit) (r : SignOn) : Prop where
  besides : v.BesidesLawful d
  unit : ∃ x : Slot, v.unit d = u.setSlot k x
  gone : ((v.unit d).result k).bind SignOn.op? = none
  fits : u.Fits
  had : u.result k = some r
  recorded : ∀ k' op, (v.unit d).signs k' = some op → (v.operator op).isSome = true
  qualified : ∀ hk x inc rec, u.state = .handoverReview hk x inc → r ≠ .incoming inc → v.operator inc = some rec →
    v.Covers d rec.areas
  owns : ∀ a, v.owner a = some d → (∀ op, r ≠ .holder op) → ∃ k' op rec, u.state.holderSlot? = some k' ∧
    u.result k' = some (.holder op) ∧ v.operator op = some rec ∧ inSet rec.areas a = true

namespace State.KeyLost

variable {v : State} {d : Desk} {k : SlotId} {u : DeskUnit} {r : SignOn} (h : v.KeyLost d k u r)
include h

theorem state : (v.unit d).state = u.state := by
  obtain ⟨x, hx⟩ := h.unit
  rw [hx, DeskUnit.setSlot_state]

theorem other : (v.unit d).result k.other = u.result k.other := by
  obtain ⟨x, hx⟩ := h.unit
  rw [hx, DeskUnit.result_setSlot_other]

/-- Where the key lost was no holder's and no incoming operator's, the desk keeps its laws. -/
theorem lawfulAt (h1 : ∀ op, r ≠ .holder op) (h2 : ∀ op, r ≠ .incoming op) : v.LawfulAt d := by
  have hplain := plain_of_op h.gone
  have hslot : ∀ k', u.state.holderSlot? = some k' → k' = k.other := by
    intro k' hk'
    obtain ⟨op, hop⟩ := (h.fits.holder_iff k').2 hk'
    obtain rfl | rfl := SlotId.eq_or_other k k'
    · rw [h.had] at hop; exact absurd (Option.some.inj hop) (h1 op)
    · rfl
  refine ⟨?_, h.recorded, ?_, ?_⟩
  · have hf := h.fits
    simp only [DeskUnit.Fits, h.state] at hf ⊢
    cases hst : u.state with
    | outOfService =>
      have := h.fits.unread_result hst k
      rw [h.had] at this
      cases this
    | vacant =>
      simp only [hst] at hf
      intro k'
      obtain rfl | rfl := SlotId.eq_or_other k k'
      · exact hplain
      · rw [h.other]; exact hf _
    | attended hk =>
      have hk' := hslot hk (by rw [hst]; rfl)
      subst hk'
      simp only [hst, SlotId.other_other] at hf ⊢
      exact ⟨by rw [h.other]; exact hf.1, hplain⟩
    | handoverOpen hk x =>
      have hk' := hslot hk (by rw [hst]; rfl)
      subst hk'
      simp only [hst, SlotId.other_other] at hf ⊢
      exact ⟨by rw [h.other]; exact hf.1, hplain⟩
    | handoverReview hk x inc =>
      have hk' := hslot hk (by rw [hst]; rfl)
      subst hk'
      simp only [hst, SlotId.other_other] at hf
      rw [h.had] at hf
      exact absurd (Option.some.inj hf.2) (h2 inc)
  · rw [h.state]
    intro hk x inc rec hst
    have hinc := (h.fits.incoming_iff hk.other inc).2 ⟨hk, x, hst, rfl⟩
    have hk' := hslot hk (by rw [hst]; rfl)
    subst hk'
    rw [SlotId.other_other, h.had] at hinc
    exact absurd (Option.some.inj hinc) (h2 inc)
  · intro a ha
    obtain ⟨k', op, rec, hk', hres, hr, ha⟩ := h.owns a ha h1
    have hk := hslot k' hk'
    subst hk
    exact ⟨_, op, rec, by rw [h.state]; exact hk', by rw [h.other]; exact hres, hr, ha⟩

/-- The desk unit's part of a key drawn or revoked (R75, R85, R92). -/
theorem loseKey (cause : LossCause) : (loseKey d k r cause v).DesksLawful := by
  cases r with
  | refused reason => exact h.besides.all (h.lawfulAt (by simp) (by simp))
  | companion op nq => exact enter_desksLawful (h.besides.all (h.lawfulAt (by simp) (by simp))) _
  | incoming op =>
    obtain ⟨hk, x, hst, rfl⟩ := (h.fits.incoming_iff k op).1 h.had
    have hf := h.fits
    simp only [DeskUnit.Fits, hst] at hf
    have hhold : (v.unit d).result hk = some (.holder x.outgoing) := by
      have := h.other
      rw [SlotId.other_other] at this
      rw [this]; exact hf.1
    refine incomingLeaves_desksLawful h.besides hk.other _ (h.state.trans hst) hhold (plain_of_op h.gone) h.recorded
      fun a ha => ?_
    obtain ⟨k', o, rec, hk', hres, hr, ha⟩ := h.owns a ha (by simp)
    rw [hst] at hk'
    obtain rfl := Option.some.inj hk'
    rw [hf.1] at hres
    obtain rfl : x.outgoing = o := by simpa using hres
    exact ⟨rec, hr, ha⟩
  | holder op =>
    have hk := h.fits.holder_state h.had
    unfold Machine.loseKey
    cases hst : u.state with
    | handoverReview hk' x inc =>
      rw [h.state, hst]
      rw [hst] at hk
      obtain rfl := Option.some.inj hk
      have hf := h.fits
      simp only [DeskUnit.Fits, hst] at hf
      exact forcedTakeover_desksLawful h.besides x cause (by rw [h.other]; exact hf.2) h.gone h.recorded
        fun rec => h.qualified _ x inc rec hst (by simp)
    | _ =>
      rw [h.state, hst]
      refine desert_desksLawful h.besides op cause (by rw [h.state, hst]; simp) h.gone ?_ h.recorded
      rw [h.other]
      exact h.fits.other_plain hk (by simp [hst])

end State.KeyLost

/-- A seated key that a slot holds no result of is drawn, or one contact opens. -/
theorem afterOpen_result (st : SlotState) : st.afterOpen.result? = none := by cases st <;> rfl

theorem afterOpen_unread {st : SlotState} : st.afterOpen = .empty ∨ st.afterOpen = .oneContact := by
  cases st <;> simp [SlotState.afterOpen]

/-- A slot of a lawful desk is changed to one that signs nobody on. -/
theorem State.DesksLawful.keyLost {s : State} (hs : s.DesksLawful) {d : Desk} {k : SlotId} {r : SignOn}
    (hr : (s.unit d).result k = some r) {x : Slot} (hx : x.state.result?.bind SignOn.op? = none) :
    (s.putSlot d k x).KeyLost d k (s.unit d) r := by
  obtain ⟨h1, h2, h3, h4⟩ := hs.at d
  have hgone : ((s.putSlot d k x).unit d).signs k = none := by
    rw [putSlot_unit, DeskUnit.signs, DeskUnit.result_setSlot_self]; exact hx
  have hsub : (s.unit d).SignsFewer ((s.putSlot d k x).unit d) := by
    refine .of_slots k (fun op h => by rw [hgone] at h; cases h) fun op => ?_
    rw [putSlot_unit, DeskUnit.signs, DeskUnit.result_setSlot_other]
    exact id
  exact
    { besides := (hs.besides d).atDesk (putSlot_atDesk d k x s) (hs.besides d).owners (fun _ _ _ h => h) hsub
      unit := ⟨x, putSlot_unit s d k x⟩
      gone := hgone
      fits := h1
      had := hr
      recorded := fun k' op h => h2 k' op (hsub k' op h)
      qualified := fun hk y inc rec hst _ hrec => (h3 hk y inc rec hst hrec).2
      owns := fun a ha _ => h4 a ha }

/-- An entry made first makes no difference. -/
theorem State.KeyLost.enter {v : State} {d : Desk} {k : SlotId} {u : DeskUnit} {r : SignOn} (h : v.KeyLost d k u r)
    (w : Draft) : (Machine.enter w v).KeyLost d k u r := by
  have hu : (Machine.enter w v).unit d = v.unit d := enter_unit w v d
  have hop : (Machine.enter w v).operator = v.operator := by funext i; simp only [State.operator, enter_operators]
  have how : (Machine.enter w v).owner = v.owner := by funext i; simp only [State.owner, enter_owners]
  have hb := h.besides.atDesk (enter_atDesk d w v) (by rw [enter_owners]; exact h.besides.owners)
    (fun a e _ => by rw [how]; exact id) (fun k' op => by rw [hu]; exact id)
  obtain ⟨-, h1, h2, h3, h4, h5, h6, h7⟩ := h
  refine ⟨hb, by rw [hu]; exact h1, by rw [hu]; exact h2, h3, h4, by rw [hu, hop]; exact h5, ?_, by rw [hop, how]; exact h7⟩
  rw [hop]
  intro hk x inc rec hst hr hrec a ha
  exact h6 hk x inc rec hst hr hrec a (how ▸ ha)

theorem removalOf_desksLawful {s : State} (hs : s.DesksLawful) (d : Desk) (k : SlotId) (c : Contact) :
    (removalOf d k (s.slot d k).state (moveContact d k c false (s.slot d k).state.afterOpen s)).DesksLawful := by
  have hmove : (s.slot d k).state.result? = none →
      (moveContact d k c false (s.slot d k).state.afterOpen s).DesksLawful := fun hnone =>
    putSlot_desksLawful hs hnone (afterOpen_result _) fun _ => by
      obtain h | h := afterOpen_unread (st := (s.slot d k).state)
      · exact .inl h
      · exact .inr (.inl h)
  cases hst : (s.slot d k).state with
  | present bat key issue r =>
    have hlost : (moveContact d k c false (SlotState.present bat key issue r).afterOpen s).KeyLost d k (s.unit d) r :=
      hs.keyLost (by rw [DeskUnit.result]; exact congrArg SlotState.result? hst) rfl
    exact (hlost.enter _).loseKey _
  | reading => rw [hst] at hmove; exact enter_desksLawful (hmove rfl) _
  | faultBattery => rw [hst] at hmove; exact enter_desksLawful (hmove rfl) _
  | faultRead => rw [hst] at hmove; exact enter_desksLawful (hmove rfl) _
  | _ => rw [hst] at hmove; exact hmove rfl

theorem setResult_refused_result (st : SlotState) (reason : KeyRefusal) :
    (st.setResult (.refused reason)).result?.bind SignOn.op? = none := by cases st <;> rfl

/-! ### The handover protocol and service -/

theorem commitHandover_desksLawful {s : State} (hs : s.DesksLawful) {d : Desk} {k : SlotId} {h : Handover}
    {inc : OpIndex} (hst : (s.unit d).state = .handoverReview k h inc) : (commitHandover d k h inc s).DesksLawful := by
  obtain ⟨h1, h2, h3, h4⟩ := hs.at d
  simp only [DeskUnit.Fits, hst] at h1
  have hunit : (commitHandover d k h inc s).unit d =
      { ((s.unit d).withResult k.other (.holder inc)).withResult k (.companion h.outgoing false) with
        state := .attended k.other, due := none } := by
    simp only [commitHandover, putDeskState_unit, enter_unit, clearDue_unit, setResult_unit]
  have hres : ((commitHandover d k h inc s).unit d).result k = some (.companion h.outgoing false) := by
    rw [hunit, DeskUnit.result_withStateDue, DeskUnit.result_withResult_self, DeskUnit.result_withResult_of_other, h1.1,
      Option.map_some]
  refine takenOver_desksLawful (hs.besides d) (k := k) (inc := inc) (commitHandover_atDesk d k h inc s)
    (enter_owners _ _) (by rw [hunit]) ?_ h1.2 (by rw [hres]; exact plain_companion _ _) (fun x => ?_) h2
    (fun r hr => (h3 k h inc r hst hr).2)
  · rw [hunit, DeskUnit.result_withStateDue, DeskUnit.result_withResult_other, DeskUnit.result_withResult_self, h1.2,
      Option.map_some]
  · rw [DeskUnit.signs, hres, DeskUnit.signs, h1.1]
    exact id

theorem qualifies_iff {s : State} (hw : tableWf s.owners = true) {d : Desk} {r : OperatorRecord} :
    s.qualifies d r = true ↔ r.role.atLeast .operator = true ∧ s.Covers d r.areas ∧ s.windowPassed r = true := by
  simp only [State.qualifies, Bool.and_eq_true, List.all_eq_true, mem_ownedAreas hw, State.Covers, and_assoc]

/-- A companion taken up as incoming operator, at a sign-on or at an opening (R122, R123). -/
theorem becomesIncoming_desksLawful {s t : State} (hs : s.DesksLawful) {d : Desk} {k : SlotId} {h : Handover}
    {op : OpIndex} {r : OperatorRecord} (hst : (s.unit d).state = .handoverOpen k h) (hat : s.AtDesk d t)
    (howners : t.owners = s.owners)
    (hunit : t.unit d = { (s.unit d).withResult k.other (.incoming op) with state := .handoverReview k h op })
    (hsigns : (s.unit d).signs k.other = some op) (hop : s.operator op = some r) (hq : s.qualifies d r = true) :
    t.DesksLawful := by
  obtain ⟨h1, h2, h3, h4⟩ := hs.at d
  have how : t.owner = s.owner := by funext i; simp only [State.owner, howners]
  have hops : t.operator = s.operator := by funext i; simp only [State.operator, hat.operators]
  obtain ⟨hrole, hcov, -⟩ := (qualifies_iff (hs.besides d).owners).1 hq
  simp only [DeskUnit.Fits, hst] at h1
  have hk : (t.unit d).result k = (s.unit d).result k := by
    rw [hunit, DeskUnit.result_withState, DeskUnit.result_withResult_of_other]
  have ho : (t.unit d).result k.other = some (.incoming op) := by
    rw [hunit, DeskUnit.result_withState, DeskUnit.result_withResult_self]
    obtain ⟨x, hx, -⟩ := Option.bind_eq_some_iff.1 hsigns
    rw [hx, Option.map_some]
  have hsub : (s.unit d).SignsFewer (t.unit d) := by
    refine .of_slots k (fun x => by rw [DeskUnit.signs, hk]; exact id) fun x => ?_
    rw [DeskUnit.signs, ho, hsigns]
    exact id
  have hst' : (t.unit d).state = .handoverReview k h op := by rw [hunit]
  refine ((hs.besides d).atDesk hat (howners ▸ (hs.besides d).owners) (fun a e _ => by rw [how]; exact id) hsub).all
    ⟨?_, fun k' x hx => by rw [hops]; exact h2 k' x (hsub k' x hx), ?_, fun a ha => ?_⟩
  · simp only [DeskUnit.Fits, hst', hk, ho]
    exact ⟨h1.1, trivial⟩
  · intro hk' x inc rec hrev hrec
    rw [hst'] at hrev
    cases hrev
    rw [hops, hop] at hrec
    cases hrec
    exact ⟨hrole, fun a ha => hcov a (how ▸ ha)⟩
  · obtain ⟨k', o, rec, hk', hres, hr, ha⟩ := h4 a (how ▸ ha)
    rw [hst] at hk'
    obtain rfl := Option.some.inj hk'
    exact ⟨k, o, rec, by rw [hst']; rfl, hk.trans hres, by rw [hops]; exact hr, ha⟩

theorem companionAtOpening_desksLawful {s : State} (hs : s.DesksLawful) {d : Desk} {k : SlotId} {h : Handover}
    (hst : (s.unit d).state = .handoverOpen k h) : (companionAtOpening d k h s).DesksLawful := by
  simp only [companionAtOpening]
  split
  · rename_i op nq hres
    split
    · rename_i r hr
      split
      · rename_i hq
        refine becomesIncoming_desksLawful hs (op := op) (r := r) hst ?_ (enter_owners _ _) ?_ ?_ hr hq
        · exact ((setResult_atDesk d _ _ s).trans (putDeskState_atDesk d _ _)).trans (enter_atDesk d _ _)
        · rw [enter_unit, putDeskState_unit, setResult_unit]
        · have hres' : (s.unit d).result k.other = some (.companion op nq) := hres
          rw [DeskUnit.signs, hres']; rfl
      · exact hs
    · exact hs
  · exact hs

theorem openHandover_desksLawful {s : State} (hs : s.DesksLawful) {d : Desk} {k : SlotId} {op : OpIndex}
    (hst : (s.unit d).state = .attended k) (hop : s.holder d = some op) : (openHandover d k op s).DesksLawful := by
  obtain ⟨h1, h2, h3, h4⟩ := hs.at d
  have h1' := h1
  simp only [DeskUnit.Fits, hst] at h1
  obtain ⟨k', hk', hres⟩ := holder_some_iff.1 hop
  rw [hst] at hk'
  obtain rfl := Option.some.inj hk'
  have hopened : (s.putDeskState d (.handoverOpen k (s.openRecord d op))).DesksLawful := by
    have hu : (s.putDeskState d (.handoverOpen k (s.openRecord d op))).unit d =
      { s.unit d with state := .handoverOpen k (s.openRecord d op) } := putDeskState_unit s d _
    have hr : ∀ k', ((s.putDeskState d (.handoverOpen k (s.openRecord d op))).unit d).result k' = (s.unit d).result k' :=
      fun k' => by rw [hu, DeskUnit.result_withState]
    have hsig : ∀ k', ((s.putDeskState d (.handoverOpen k (s.openRecord d op))).unit d).signs k' = (s.unit d).signs k' :=
      fun k' => by rw [DeskUnit.signs, hr, DeskUnit.signs]
    refine ((hs.besides d).atDesk (putDeskState_atDesk d _ s) (hs.besides d).owners (fun _ _ _ h => h)
      fun k' x => by rw [hsig]; exact id).all ⟨?_, fun k' x => by rw [hsig]; exact h2 k' x, ?_, ?_⟩
    · have hst' : ((s.putDeskState d (.handoverOpen k (s.openRecord d op))).unit d).state =
        .handoverOpen k (s.openRecord d op) := by rw [hu]
      simp only [DeskUnit.Fits, hst', hr]
      exact ⟨hres, h1.2⟩
    · rw [hu]; exact fun _ _ _ _ h => by cases h
    · intro a ha
      obtain ⟨k', o, rec, hk', hres, hrec, ha⟩ := h4 a ha
      rw [hst] at hk'
      exact ⟨k', o, rec, by rw [hu]; exact hk', by rw [hr]; exact hres, hrec, ha⟩
  exact companionAtOpening_desksLawful (enter_desksLawful hopened _) (by rw [enter_unit, putDeskState_unit]; rfl)

end Sys2Proof.Machine
end

section
/-! PROOFS. Service, claims, sign-on, the operator table, resets and the load of the store keep the laws of ownership and
sign-on (O8). -/

namespace Sys2Proof.Machine

/-! ### Service -/

@[simp] theorem mapSlots_slot (d : Desk) (f : SlotState → SlotState) (s : State) (k : SlotId) :
    (((mapSlots d f s).unit d).slot k).state = f ((s.unit d).slot k).state := by
  simp only [mapSlots, State.putSlotState, State.slot, putSlot_unit]
  cases k <;> rfl

@[simp] theorem mapSlots_deskState (d : Desk) (f : SlotState → SlotState) (s : State) :
    ((mapSlots d f s).unit d).state = (s.unit d).state := by
  simp only [mapSlots, State.putSlotState, putSlot_unit, DeskUnit.setSlot_state]

theorem signOffSlot_owners (d : Desk) (k : SlotId) (s : State) : (signOffSlot d k s).owners = s.owners := by
  simp only [signOffSlot]
  split
  · exact enter_owners _ _
  · rfl

/-- A desk with its handover aborted and its keys signed off (R94). -/
def signedOff (d : Desk) (s : State) : State := signOffSlot d .b (signOffSlot d .a (abortHandover d .outOfService s))

theorem signedOff_owners (d : Desk) (s : State) : (signedOff d s).owners = s.owners := by
  rw [signedOff, signOffSlot_owners, signOffSlot_owners, abortHandover_owners]

theorem mapSlots_owners (d : Desk) (f : SlotState → SlotState) (s : State) : (mapSlots d f s).owners = s.owners := rfl

/-- What takes a desk out of service, by its two parts: the entries, then the desk unit (R94). -/
theorem takeOutOfService_eq (d : Desk) (s : State) : takeOutOfService d s =
    mapSlots d SlotState.unpower (clearDue d ((releaseOutside d 0 (signedOff d s)).putDeskState d .outOfService)) := by
  simp only [takeOutOfService, signedOff]

theorem takeOutOfService_owners (d : Desk) (s : State) :
    (takeOutOfService d s).owners = (releaseOutside d 0 (signedOff d s)).owners := by
  rw [takeOutOfService_eq, mapSlots_owners, clearDue, State.putUnit_owners, State.putDeskState, State.putUnit_owners]

theorem takeOutOfService_state (d : Desk) (s : State) : ((takeOutOfService d s).unit d).state = .outOfService := by
  simp only [takeOutOfService, mapSlots_deskState, clearDue_unit, putDeskState_unit]

theorem unpower_unread (st : SlotState) : st.unpower = .empty ∨ st.unpower = .oneContact ∨ st.unpower = .unpowered := by
  cases st <;> simp [SlotState.unpower]

theorem takeOutOfService_slot (d : Desk) (s : State) (k : SlotId) :
    ∃ st : SlotState, (((takeOutOfService d s).unit d).slot k).state = st.unpower :=
  ⟨_, mapSlots_slot d _ _ k⟩

theorem takeOutOfService_owner {s : State} (hw : tableWf s.owners = true) (d : Desk) (a : Area) :
    (takeOutOfService d s).owner a = if s.owner a = some d then none else s.owner a := by
  have hw' : tableWf (signedOff d s).owners = true := by rw [signedOff_owners]; exact hw
  have how : (signedOff d s).owner a = s.owner a := by rw [State.owner, signedOff_owners, State.owner]
  rw [State.owner, takeOutOfService_owners]
  refine (releaseOutside_owner hw' d 0 a).trans ?_
  simp only [how, inSet_zero, and_true]

theorem takeOutOfService_desksLawful {s : State} (hs : s.DesksLawful) (d : Desk) : (takeOutOfService d s).DesksLawful := by
  have hw := (hs.besides d).owners
  have howner := takeOutOfService_owner hw d
  have hnone : ∀ k, ((takeOutOfService d s).unit d).signs k = none := fun k => by
    obtain ⟨st, h⟩ := takeOutOfService_slot d s k
    rw [DeskUnit.signs, DeskUnit.result, h]
    cases st <;> rfl
  refine ((hs.besides d).atDesk (takeOutOfService_atDesk d s) ?_ (fun a e he => ?_) fun k op => by rw [hnone]; simp).all
    ⟨?_, fun k op => by rw [hnone]; simp, ?_, fun a => ?_⟩
  · rw [takeOutOfService_owners]
    exact releaseOutside_owners_wf (by rw [signedOff_owners]; exact hw) d 0
  · rw [howner]; split
    · exact fun h => by cases h
    · exact id
  · simp only [DeskUnit.Fits, takeOutOfService_state]
    intro k
    obtain ⟨st, h⟩ := takeOutOfService_slot d s k
    rw [h]; exact unpower_unread st
  · rw [takeOutOfService_state]; exact fun _ _ _ _ h => by cases h
  · rw [howner]
    split
    · exact fun h => by cases h
    · rename_i h; exact fun h' => absurd h' h

theorem repower_result {st : SlotState} (h : st.result? = none) : st.repower.result? = none := by
  cases st with
  | present => cases h
  | _ => rfl

theorem returnToService_desksLawful {s : State} (hs : s.DesksLawful) {d : Desk}
    (hst : (s.unit d).state = .outOfService) : (returnToService d s).DesksLawful := by
  obtain ⟨h1, -, -, h4⟩ := hs.at d
  have hstate : ((returnToService d s).unit d).state = .vacant := by
    rw [returnToService, mapSlots_deskState, putDeskState_unit]
  have hnone : ∀ k, ((returnToService d s).unit d).result k = none := fun k => by
    rw [DeskUnit.result, returnToService, mapSlots_slot, putDeskState_unit, DeskUnit.slot_state]
    exact repower_result (h1.unread_result hst k)
  have hsig : ∀ k, ((returnToService d s).unit d).signs k = none := fun k => by rw [DeskUnit.signs, hnone]; rfl
  have how : ∀ a, (returnToService d s).owner a = s.owner a := fun a => rfl
  refine ((hs.besides d).atDesk (returnToService_atDesk d s) (hs.besides d).owners (fun _ _ _ h => h)
    fun k op => by rw [hsig]; simp).all ⟨?_, fun k op => by rw [hsig]; simp, ?_, fun a ha => ?_⟩
  · simp only [DeskUnit.Fits, hstate, hnone]
    exact fun _ => Plain.none
  · rw [hstate]; exact fun _ _ _ _ h => by cases h
  · obtain ⟨k, op, r, hk, -⟩ := h4 a ha
    rw [hst] at hk
    cases hk

/-! ### Claims -/

/-- An area given to a desk that may own it, or to none. -/
theorem changeOwner_desksLawful {s : State} (hs : s.DesksLawful) (a : Area) (o : Option Desk)
    (hnew : ∀ d, o = some d → (s.unit d).state.handover? = none ∧
      ∃ op r, s.holderRecord d = some (op, r) ∧ inSet r.areas a = true) : (changeOwner a o s).DesksLawful := by
  obtain ⟨k1, k2, k3, k4⟩ := (desksLawful_iff s).1 hs
  have howner := fun b => changeOwner_owner k2 a b o
  have hu : ∀ d, (changeOwner a o s).unit d = s.unit d := changeOwner_unit a o s
  have hops : (changeOwner a o s).operators = s.operators := (changeOwner_quiet a o s).operators
  have hop : (changeOwner a o s).operator = s.operator := by funext i; simp only [State.operator, hops]
  refine (desksLawful_iff _).2 ⟨hops ▸ k1, changeOwner_owners_wf k2 a o, ?_, fun d => ?_⟩
  · simpa only [State.Apart, hu] using k3
  · obtain ⟨h1, h2, h3, h4⟩ := k4 d
    refine ⟨by rw [hu]; exact h1, by rw [hu, hop]; exact h2, ?_, fun b => ?_⟩
    · rw [hu, hop]
      intro hk x inc r hst hr
      obtain ⟨hrole, hcov⟩ := h3 hk x inc r hst hr
      refine ⟨hrole, fun b => ?_⟩
      rw [howner]
      split
      · intro ho
        obtain ⟨hnone, -⟩ := hnew d ho
        rw [hst] at hnone
        cases hnone
      · exact hcov b
    · rw [howner, hu, hop]
      split
      · rename_i hb
        intro ho
        obtain ⟨-, op, r, hrec, ha⟩ := hnew d ho
        obtain ⟨hhold, hr⟩ := holderRecord_some_iff.1 hrec
        obtain ⟨k, hk, hres⟩ := holder_some_iff.1 hhold
        exact ⟨k, op, r, hk, hres, hr, hb ▸ ha⟩
      · exact h4 b

theorem inHandover_eq_false {s : State} {d : Desk} : s.inHandover d = false ↔ (s.unit d).state.handover? = none := by
  simp only [State.inHandover, Option.isSome_eq_false_iff, Option.isNone_iff_eq_none]

theorem serveAssignArea_desksLawful {s : State} (hs : s.DesksLawful) (x : Area × Option Desk) :
    (serveAssignArea x s).1.DesksLawful := by
  simp only [serveAssignArea]
  split
  · exact hs
  · rename_i hnot
    simp only [Bool.or_eq_true, not_or, Bool.not_eq_true] at hnot
    split
    · simp only [accepted]
      split
      · exact changeOwner_desksLawful hs x.1 none (fun d h => by cases h)
      · exact hs
    · rename_i d hd
      split
      · exact hs
      · rename_i op r hrec
        split
        · rename_i hin
          simp only [accepted]
          split
          · exact hs
          · refine changeOwner_desksLawful hs x.1 (some d) fun e he => ?_
            obtain rfl := Option.some.inj he
            have hno := hnot.2
            rw [hd] at hno
            exact ⟨inHandover_eq_false.1 (by simpa [State.deskInHandover] using hno), _, r, hrec, hin⟩
        · exact hs

/-! ### A key identified and put to the sign-on check -/

theorem keyRecord_mem {s : State} (hw : tableWf s.operators = true) {key : KeyNumber} {op : OpIndex}
    {r : OperatorRecord} (h : s.keyRecord key = some (op, r)) : s.operator op = some r :=
  tableGet_of_mem hw (List.mem_of_find?_eq_some h)

theorem mem_slotPlaces (d : Desk) (k : SlotId) : (d, k) ∈ slotPlaces := by
  cases d <;> cases k <;> decide

theorem whereSignedOn_none {s : State} {op : OpIndex} : s.whereSignedOn op = none ↔ ∀ d k, s.signedOn d k ≠ some op := by
  simp only [State.whereSignedOn, List.find?_eq_none, decide_eq_true_eq]
  exact ⟨fun h d k => h (d, k) (mem_slotPlaces d k), fun h e _ => h e.1 e.2⟩

theorem whereSignedOn_some {s : State} {op : OpIndex} {d : Desk} {k : SlotId} (h : s.whereSignedOn op = some (d, k)) :
    s.signedOn d k = some op := by
  have := List.find?_some h
  simpa using this

/-- The laws of a state in which a key read at desk `d` slot `k` has been identified and is REFUSED as yet, and the
operator `op` of its record is signed on nowhere. -/
structure State.Identified (s : State) (d : Desk) (k : SlotId) : Prop where
  lawful : s.DesksLawful
  result : ∃ reason, (s.unit d).result k = some (.refused reason)
  state : (s.unit d).state ≠ .outOfService ∧ ∀ hk x inc, (s.unit d).state ≠ .handoverReview hk x inc
  other : ∀ hk, (s.unit d).state.holderSlot? = some hk → k = hk.other

/-- A slot read, not yet identified, takes its key's identity. -/
theorem identified_lawful {s : State} (hs : s.DesksLawful) {d : Desk} {k : SlotId} {bat : Battery} {n : Nat}
    {f : Option ReadFailure} (r : SixBytes) (hst : (s.slot d k).state = .reading bat n f) :
    (s.putSlotState d k (identified bat r)).Identified d k := by
  obtain ⟨h1, h2, h3, h4⟩ := hs.at d
  have hnone : (s.unit d).result k = none := by
    have : (s.unit d).result k = (s.slot d k).state.result? := rfl
    rw [this, hst]; rfl
  have hslot : ∀ hk op, (s.unit d).result hk = some op → k ≠ hk := by
    rintro hk op h rfl
    rw [hnone] at h
    cases h
  have hnout : (s.unit d).state ≠ .outOfService := fun h => by
    have : ((s.unit d).slot k).state = .reading bat n f := hst
    obtain h | h | h := h1.unread h k <;> simp [h] at this
  have hnrev : ∀ hk x inc, (s.unit d).state ≠ .handoverReview hk x inc := fun hk x inc h => by
    simp only [DeskUnit.Fits, h] at h1
    obtain hk' | hk' := SlotId.eq_or_other hk k
    · exact hslot _ _ h1.1 hk'
    · exact hslot _ _ h1.2 hk'
  have hat : s.AtDesk d (s.putSlotState d k (identified bat r)) := putSlot_atDesk d k _ s
  have howners : (s.putSlotState d k (identified bat r)).owners = s.owners := rfl
  have hunit : (s.putSlotState d k (identified bat r)).unit d =
      (s.unit d).setSlot k { s.slot d k with state := identified bat r } := putSlot_unit s d k _
  generalize s.putSlotState d k (identified bat r) = v at *
  have how : v.owner = s.owner := by funext i; simp only [State.owner, howners]
  have hops : v.operator = s.operator := by funext i; simp only [State.operator, hat.operators]
  have hself : (v.unit d).result k = some (.refused .unknownKey) := by
    rw [hunit, DeskUnit.result_setSlot_self]; rfl
  have hother : (v.unit d).result k.other = (s.unit d).result k.other := by
    rw [hunit, DeskUnit.result_setSlot_other]
  have hstate : (v.unit d).state = (s.unit d).state := by
    rw [hunit, DeskUnit.setSlot_state]
  have hholder : ∀ hk, (s.unit d).state.holderSlot? = some hk → k = hk.other := fun hk hhk => by
    obtain ⟨op, hop⟩ := (h1.holder_iff hk).2 hhk
    obtain h | h := SlotId.eq_or_other hk k
    · exact absurd h (hslot _ _ hop)
    · exact h
  have hsub : (s.unit d).SignsFewer (v.unit d) := by
    refine .of_slots k (fun op h => ?_) fun op => by rw [DeskUnit.signs, hother]; exact id
    rw [DeskUnit.signs, hself] at h; cases h
  have hres : ∀ hk, (s.unit d).state.holderSlot? = some hk →
      (v.unit d).result hk = (s.unit d).result hk := fun hk hhk => by
    have := hholder hk hhk
    subst this
    simpa only [SlotId.other_other] using hother
  refine ⟨((hs.besides d).atDesk hat (howners ▸ (hs.besides d).owners) (fun a e _ => by rw [how]; exact id) hsub).all
    ⟨?_, fun k' op h => by rw [hops]; exact h2 k' op (hsub k' op h), ?_, fun a ha => ?_⟩, ⟨_, hself⟩, by rw [hstate]; exact ⟨hnout, hnrev⟩,
    by rw [hstate]; exact hholder⟩
  · have h1' := h1
    simp only [DeskUnit.Fits, hstate] at h1 ⊢
    have hpl : ∀ k', k' = k ∨ Plain ((s.unit d).result k') → Plain ((v.unit d).result k') := by
      rintro k' (rfl | h)
      · rw [hself]; exact plain_refused _
      · obtain rfl | rfl := SlotId.eq_or_other k k'
        · rw [hself]; exact plain_refused _
        · rw [hother]; exact h
    cases hd : (s.unit d).state with
    | outOfService => exact absurd hd hnout
    | vacant =>
      simp only [hd] at h1
      exact fun k' => hpl k' (.inr (h1 k'))
    | attended hk =>
      simp only [hd] at h1
      exact ⟨by rw [hres hk (by rw [hd]; rfl)]; exact h1.1, hpl _ (.inr h1.2)⟩
    | handoverOpen hk x =>
      simp only [hd] at h1
      exact ⟨by rw [hres hk (by rw [hd]; rfl)]; exact h1.1, hpl _ (.inr h1.2)⟩
    | handoverReview hk x inc => exact absurd hd (hnrev hk x inc)
  · rw [hstate]; exact fun hk x inc r h => absurd h (hnrev hk x inc)
  · obtain ⟨k', op, rec, hk', hr, hrec, ha⟩ := h4 a (how ▸ ha)
    exact ⟨k', op, rec, by rw [hstate]; exact hk', by rw [hres k' hk']; exact hr, by rw [hops]; exact hrec, ha⟩

theorem State.Identified.enter {s : State} {d : Desk} {k : SlotId} (h : s.Identified d k) (w : Draft) :
    (enter w s).Identified d k := by
  obtain ⟨h1, h2, h3, h4⟩ := h
  have hu : (Machine.enter w s).unit d = s.unit d := enter_unit w s d
  exact ⟨enter_desksLawful h1 w, by rw [hu]; exact h2, by rw [hu]; exact h3, by rw [hu]; exact h4⟩

theorem DeskUnit.Fits.withPlain {u : DeskUnit} (h : u.Fits) {k : SlotId} {x r : SignOn} (hk : u.result k = some x)
    (hx : Plain (some x)) (hr : Plain (some r)) : (u.withResult k r).Fits := by
  have hself : (u.withResult k r).result k = some r := by rw [DeskUnit.result_withResult_self, hk]; rfl
  have hother := DeskUnit.result_withResult_other u k r
  have hne : ∀ hk' op, u.result hk' = some (.holder op) → hk' = k.other := fun hk' op h' => by
    obtain rfl | rfl := SlotId.eq_or_other k hk'
    · rw [hk] at h'; exact absurd h' (hx op).1
    · rfl
  have h0 := h
  simp only [DeskUnit.Fits, DeskUnit.withResult_state] at h ⊢
  cases hst : u.state with
  | outOfService =>
    have := h0.unread_result hst k
    rw [hk] at this; cases this
  | vacant =>
    simp only [hst] at h
    intro k'
    obtain rfl | rfl := SlotId.eq_or_other k k'
    · rw [hself]; exact hr
    · rw [hother]; exact h _
  | attended hk' =>
    simp only [hst] at h
    obtain ⟨op, hop⟩ := h.1
    obtain rfl := hne _ _ hop
    exact ⟨⟨op, hother.trans hop⟩, by rw [SlotId.other_other, hself]; exact hr⟩
  | handoverOpen hk' y =>
    simp only [hst] at h
    obtain rfl := hne _ _ h.1
    exact ⟨hother.trans h.1, by rw [SlotId.other_other, hself]; exact hr⟩
  | handoverReview hk' y inc =>
    simp only [hst] at h
    obtain rfl := hne _ _ h.1
    rw [SlotId.other_other, hk] at h
    exact absurd h.2 (hx inc).2

/-- The operator signed on anew in one slot, who was signed on nowhere: nobody is signed on twice, and the other desks
keep their laws. -/
theorem State.Identified.besides {s t : State} {d : Desk} {k : SlotId} (hs : s.Identified d k) (hat : s.AtDesk d t)
    (hwf : tableWf t.owners = true) (hown : ∀ a e, e ≠ d → t.owner a = some e → s.owner a = some e) {op : OpIndex}
    (hnew : ∀ d k, s.signedOn d k ≠ some op) (hself : ∀ x, (t.unit d).signs k = some x → x = op)
    (hother : (t.unit d).signs k.other = (s.unit d).signs k.other) : t.BesidesLawful d := by
  obtain ⟨k1, k2, k3, k4⟩ := (desksLawful_iff s).1 hs.lawful
  have hop : t.operator = s.operator := by funext i; simp only [State.operator, hat.operators]
  have hu := hat.others
  have hold : ∀ e k' x, (t.unit e).signs k' = some x → (e = d ∧ k' = k ∧ x = op) ∨ (s.unit e).signs k' = some x := by
    intro e k' x h
    by_cases he : e = d
    · subst he
      obtain rfl | rfl := SlotId.eq_or_other k k'
      · exact .inl ⟨rfl, rfl, hself x h⟩
      · exact .inr (hother ▸ h)
    · exact .inr (hu e he ▸ h)
  refine ⟨hat.operators ▸ k1, hwf, ?_, fun e he => ?_⟩
  · intro e k' e' k'' x h h'
    obtain ⟨rfl, rfl, rfl⟩ | h := hold e k' x h
    · obtain ⟨rfl, rfl, -⟩ | h' := hold e' k'' _ h'
      · exact ⟨rfl, rfl⟩
      · exact absurd h' (hnew e' k'')
    · obtain ⟨rfl, rfl, rfl⟩ | h' := hold e' k'' x h'
      · exact absurd h (hnew e k')
      · exact k3 e k' e' k'' x h h'
  · obtain ⟨j1, j2, j3, j4⟩ := k4 e
    rw [← hu e he] at j1 j2 j3 j4
    refine ⟨j1, by rw [hop]; exact j2, fun hk x inc r hst hr => ?_, fun a ha => by rw [hop]; exact j4 a (hown a e he ha)⟩
    obtain ⟨hrole, hcov⟩ := j3 hk x inc r hst (hop ▸ hr)
    exact ⟨hrole, fun a ha => hcov a (hown a e he ha)⟩

/-- A key given a result beside the holder's, COMPANION or REFUSED (R88, R89). -/
theorem State.Identified.withPlain {s : State} {d : Desk} {k : SlotId} (hs : s.Identified d k) {r : SignOn} {op : OpIndex}
    (hr : Plain (some r)) (hnew : ∀ x, r.op? = some x → x = op ∧ (∀ d k, s.signedOn d k ≠ some op) ∧
      (s.operator op).isSome = true) : (s.setResult d k r).DesksLawful := by
  obtain ⟨reason, hres⟩ := hs.result
  obtain ⟨h1, h2, h3, h4⟩ := hs.lawful.at d
  have hunit : (s.setResult d k r).unit d = (s.unit d).withResult k r := setResult_unit s d k r
  have hself : ((s.setResult d k r).unit d).result k = some r := by
    rw [hunit, DeskUnit.result_withResult_self, hres]; rfl
  have hother : ((s.setResult d k r).unit d).result k.other = (s.unit d).result k.other := by
    rw [hunit, DeskUnit.result_withResult_other]
  have hslot : ∀ hk, (s.unit d).state.holderSlot? = some hk →
      ((s.setResult d k r).unit d).result hk = (s.unit d).result hk := fun hk h => by
    have := hs.other hk h
    subst this
    simpa only [SlotId.other_other] using hother
  have hat : (s.setResult d k r).LawfulAt d := by
    refine ⟨?_, fun k' x hx => ?_, ?_, fun a ha => ?_⟩
    · rw [hunit]; exact h1.withPlain hres (plain_refused _) hr
    · obtain rfl | rfl := SlotId.eq_or_other k k'
      · rw [DeskUnit.signs, hself] at hx
        obtain ⟨rfl, -, hrec⟩ := hnew x hx
        exact hrec
      · rw [DeskUnit.signs, hother] at hx; exact h2 _ x hx
    · rw [hunit, DeskUnit.withResult_state]
      exact fun hk x inc rec h => absurd h (hs.state.2 hk x inc)
    · obtain ⟨k', o, rec, hk', hr', hrec, ha⟩ := h4 a ha
      exact ⟨k', o, rec, by rw [hunit, DeskUnit.withResult_state]; exact hk', by rw [hslot k' hk']; exact hr', hrec, ha⟩
  cases hop : r.op? with
  | none =>
    refine ((hs.lawful.besides d).atDesk (setResult_atDesk d k r s) (hs.lawful.besides d).owners (fun _ _ _ h => h)
      (DeskUnit.SignsFewer.of_slots k (fun x hx => ?_) fun x => by rw [DeskUnit.signs, hother]; exact id)).all hat
    rw [DeskUnit.signs, hself, Option.bind_some, hop] at hx
    cases hx
  | some x =>
    obtain ⟨rfl, hfresh, -⟩ := hnew x hop
    refine (hs.besides (setResult_atDesk d k r s) (hs.lawful.besides d).owners (fun _ _ _ h => h) hfresh (fun y hy => ?_)
      (by rw [DeskUnit.signs, hother, DeskUnit.signs])).all hat
    rw [DeskUnit.signs, hself, Option.bind_some, hop] at hy
    exact (Option.some.inj hy).symm

/-- A key accepted as holder at a VACANT desk (R89, R38). -/
theorem State.Identified.gainHolder {s : State} {d : Desk} {k : SlotId} (hs : s.Identified d k) {op : OpIndex}
    {r : OperatorRecord} (hst : (s.unit d).state = .vacant) (hnew : ∀ d k, s.signedOn d k ≠ some op)
    (hop : s.operator op = some r) (d2 : Nat) : (gainHolder d k op r.areas d2 s).DesksLawful := by
  obtain ⟨reason, hres⟩ := hs.result
  obtain ⟨h1, h2, -, h4⟩ := hs.lawful.at d
  have hw := (hs.lawful.besides d).owners
  have hat := gainHolder_atDesk d k op r.areas d2 s
  have hunit := gainHolder_unit s d k op r.areas d2
  have howner := gainHolder_owner hw d k op r.areas d2
  have hwf := gainHolder_owners_wf hw d k op r.areas d2
  generalize Machine.gainHolder d k op r.areas d2 s = t at *
  have hself : (t.unit d).result k = some (.holder op) := by rw [hunit, DeskUnit.held_result_self, hres]; rfl
  have hother : (t.unit d).result k.other = (s.unit d).result k.other := by rw [hunit, DeskUnit.held_result_other]
  have hops : t.operator = s.operator := by funext i; simp only [State.operator, hat.operators]
  simp only [DeskUnit.Fits, hst] at h1
  refine (hs.besides hat hwf (fun a e he => ?_) hnew (fun x hx => ?_) (by rw [DeskUnit.signs, hother, DeskUnit.signs])).all
    ⟨?_, fun k' x hx => ?_, ?_, fun a ha => ?_⟩
  · rw [howner]; split
    · exact fun h => absurd (Option.some.inj h).symm he
    · exact id
  · rw [DeskUnit.signs, hself] at hx; exact (Option.some.inj hx).symm
  · rw [hunit]; exact DeskUnit.held_fits op hres (h1 _)
  · rw [hops]
    obtain rfl | rfl := SlotId.eq_or_other k k'
    · rw [DeskUnit.signs, hself] at hx
      obtain rfl : op = x := Option.some.inj hx
      rw [hop]; rfl
    · rw [DeskUnit.signs, hother] at hx; exact h2 _ x hx
  · rw [hunit]; exact fun _ _ _ _ h => by cases h
  · rw [howner] at ha
    split at ha
    · rename_i h
      exact ⟨k, op, r, by rw [hunit]; rfl, hself, by rw [hops]; exact hop, h.2.2⟩
    · obtain ⟨k', _, _, hk', -⟩ := h4 a ha
      rw [hst] at hk'; cases hk'

theorem SlotState.setResult_setResult (st : SlotState) (r r' : SignOn) :
    (st.setResult r).setResult r' = st.setResult r' := by
  cases st <;> rfl

theorem DeskUnit.withResult_withResult (u : DeskUnit) (k : SlotId) (r r' : SignOn) :
    (u.withResult k r).withResult k r' = u.withResult k r' := by
  simp only [DeskUnit.withResult, DeskUnit.slot_setSlot_self, DeskUnit.setSlot_setSlot, SlotState.setResult_setResult]

theorem acceptKey_desksLawful {s : State} {d : Desk} {k : SlotId} (hs : s.Identified d k) {op : OpIndex}
    {r : OperatorRecord} (hnew : ∀ d k, s.signedOn d k ≠ some op) (hop : s.operator op = some r) :
    (acceptKey d k op r s).DesksLawful := by
  have hcomp : ∀ nq, (signOnCompanion d k op nq s).DesksLawful := fun nq =>
    enter_desksLawful (hs.withPlain (op := op) (plain_companion op nq) fun x hx =>
      ⟨(Option.some.inj hx).symm, hnew, by rw [hop]; rfl⟩) _
  simp only [acceptKey]
  split
  · rename_i hst
    split
    · exact hs.gainHolder hst hnew hop 0
    · exact hcomp _
  · rename_i hk h hst
    split
    · rename_i hq
      have hk' := hs.other hk (by rw [hst]; rfl)
      subst hk'
      have hc := hs.withPlain (r := .companion op false) (op := op) (plain_companion op _) fun x hx =>
        ⟨(Option.some.inj hx).symm, hnew, by rw [hop]; rfl⟩
      obtain ⟨reason, hres⟩ := hs.result
      have ht : ((s.setResult d hk.other (.incoming op)).putDeskState d (.handoverReview hk h op)).DesksLawful := by
        refine becomesIncoming_desksLawful hc (op := op) (r := r) (k := hk) (h := h) ?_ ?_ rfl ?_ ?_ hop hq
        · rw [setResult_unit, DeskUnit.withResult_state]; exact hst
        · have h1 := setResult_atDesk d hk.other (.companion op false) s
          have h2 := (setResult_atDesk d hk.other (.incoming op) s).trans (putDeskState_atDesk d (.handoverReview hk h op) _)
          exact ⟨rfl, fun e he => by rw [h2.others e he, h1.others e he]⟩
        · rw [putDeskState_unit, setResult_unit, setResult_unit, DeskUnit.withResult_withResult]
        · rw [DeskUnit.signs, setResult_unit, DeskUnit.result_withResult_self, hres]; rfl
      exact enter_desksLawful (enter_desksLawful ht _) _
    · exact hcomp _
  all_goals exact hcomp _

theorem refuseKey_desksLawful {s : State} {d : Desk} {k : SlotId} (hs : s.Identified d k) (op : Option OpIndex)
    (reason : KeyRefusal) : (refuseKey d k op reason s).DesksLawful :=
  enter_desksLawful (hs.withPlain (op := 0) (plain_refused reason) fun x hx => by cases hx) _

theorem signOnCheck_desksLawful {s : State} {d : Desk} {k : SlotId} (hs : s.Identified d k) (key : KeyNumber)
    (issue : Byte) : (signOnCheck d k key issue s).DesksLawful := by
  simp only [signOnCheck]
  split
  · exact refuseKey_desksLawful hs _ _
  · rename_i op r hrec
    split
    · exact refuseKey_desksLawful hs _ _
    · split
      · exact refuseKey_desksLawful hs _ _
      · split
        · exact refuseKey_desksLawful hs _ _
        · split
          · exact refuseKey_desksLawful hs _ _
          · rename_i hwhere
            exact acceptKey_desksLawful hs (whereSignedOn_none.1 (by simpa using hwhere))
              (keyRecord_mem (hs.lawful.besides d).operators hrec)

theorem keyIn_desksLawful {s : State} (hs : s.DesksLawful) {d : Desk} {k : SlotId} {bat : Battery} {n : Nat}
    {f : Option ReadFailure} (r : SixBytes) (hst : (s.slot d k).state = .reading bat n f) :
    (keyIn d k bat r s).DesksLawful := signOnCheck_desksLawful ((identified_lawful hs r hst).enter _) _ _

end Sys2Proof.Machine
end

section
/-! PROOFS. The operator table and the load of the store keep the laws of ownership and sign-on, and so does every step
(O8). -/

namespace Sys2Proof.Machine

/-! ### The operator table -/

/-- A desk where the operator of a changed record is not signed on keeps its laws. -/
theorem State.LawfulAt.operators {s : State} {e : Desk} (h : s.LawfulAt e) {i : OpIndex} {ops : Table 64 OperatorRecord}
    (hsame : ∀ j, j ≠ i → tableGet ops j = s.operator j) (hi : ∀ k, (s.unit e).signs k ≠ some i) :
    State.LawfulAt { s with operators := ops } e := by
  obtain ⟨h1, h2, h3, h4⟩ := h
  have hop : ∀ j k, (s.unit e).signs k = some j → tableGet ops j = s.operator j := fun j k hj =>
    hsame j fun he => hi k (he ▸ hj)
  refine ⟨h1, fun k op hop' => ?_, fun hk x inc r hst hr => ?_, fun a ha => ?_⟩
  · rw [State.operator, hop op k hop']; exact h2 k op hop'
  · have hinc := (h1.incoming_iff hk.other inc).2 ⟨hk, x, hst, rfl⟩
    rw [State.operator, hop inc hk.other (by rw [DeskUnit.signs, hinc]; rfl)] at hr
    exact h3 hk x inc r hst hr
  · obtain ⟨k, op, r, hk, hres, hr, ha⟩ := h4 a ha
    refine ⟨k, op, r, hk, hres, ?_, ha⟩
    rw [State.operator, hop op k (by rw [DeskUnit.signs, hres]; rfl)]
    exact hr

/-- A changed record of an operator signed on nowhere. -/
theorem State.DesksLawful.operators {s : State} (hs : s.DesksLawful) {i : OpIndex} {ops : Table 64 OperatorRecord}
    (hw : tableWf ops = true) (hsame : ∀ j, j ≠ i → tableGet ops j = s.operator j)
    (hi : ∀ d k, (s.unit d).signs k ≠ some i) : State.DesksLawful { s with operators := ops } := by
  obtain ⟨-, k2, k3, k4⟩ := (desksLawful_iff s).1 hs
  exact (desksLawful_iff _).2 ⟨hw, k2, k3, fun d => (k4 d).operators hsame (hi d)⟩

/-- A changed record of an operator signed on at desk `d`: every other desk keeps its laws. -/
theorem State.DesksLawful.operators_besides {s : State} (hs : s.DesksLawful) {i : OpIndex} {ops : Table 64 OperatorRecord}
    (hw : tableWf ops = true) (hsame : ∀ j, j ≠ i → tableGet ops j = s.operator j) {d : Desk} {k : SlotId}
    (hi : (s.unit d).signs k = some i) : State.BesidesLawful { s with operators := ops } d := by
  obtain ⟨-, k2, k3, k4⟩ := (desksLawful_iff s).1 hs
  exact ⟨hw, k2, k3, fun e he => (k4 e).operators hsame fun k' h => he (k3 e k' d k i h hi).1⟩

/-- The revocation of a key by a change of its record (R85): what is left in the slot is REFUSED. -/
theorem State.DesksLawful.revoked {s : State} (hs : s.DesksLawful) {i : OpIndex} {ops : Table 64 OperatorRecord}
    (hw : tableWf ops = true) (hsame : ∀ j, j ≠ i → tableGet ops j = s.operator j) {d : Desk} {k : SlotId} {r : SignOn}
    (hr : (s.unit d).result k = some r) (hi : r.op? = some i) (w : Draft) (reason : KeyRefusal) :
    ((enter w { s with operators := ops }).setResult d k (.refused reason)).KeyLost d k (s.unit d) r := by
  have hsign : (s.unit d).signs k = some i := by rw [DeskUnit.signs, hr]; exact hi
  obtain ⟨h1, h2, h3, h4⟩ := hs.at d
  have hb := hs.operators_besides hw hsame hsign
  have hapart := ((desksLawful_iff s).1 hs).2.2.1 d k d
  have hat : State.AtDesk d { s with operators := ops }
      ((enter w { s with operators := ops }).setResult d k (.refused reason)) :=
    (enter_atDesk d w _).trans (setResult_atDesk d k _ _)
  have howners : ((enter w { s with operators := ops }).setResult d k (.refused reason)).owners = s.owners :=
    enter_owners w _
  have hunit : ((enter w { s with operators := ops }).setResult d k (.refused reason)).unit d =
      (s.unit d).setSlot k { (s.unit d).slot k with
        state := ((s.unit d).slot k).state.setResult (.refused reason) } := by
    rw [setResult_unit, enter_unit]; rfl
  generalize (enter w { s with operators := ops }).setResult d k (.refused reason) = v at *
  have how : v.owner = s.owner := by funext a; simp only [State.owner, howners]
  have hop : ∀ j, j ≠ i → v.operator j = s.operator j := fun j hj => by
    rw [State.operator, hat.operators]; exact hsame j hj
  have hgone : (v.unit d).signs k = none := by
    rw [hunit, DeskUnit.signs, DeskUnit.result_setSlot_self]; exact setResult_refused_result _ _
  have hsub : (s.unit d).SignsFewer (v.unit d) := by
    refine .of_slots k (fun op h => by rw [hgone] at h; cases h) fun op => ?_
    rw [hunit, DeskUnit.signs, DeskUnit.result_setSlot_other]
    exact id
  have hne : ∀ k' op, (v.unit d).signs k' = some op → op ≠ i := by
    rintro k' op h rfl
    obtain rfl := (hapart k' op hsign (hsub k' op h)).2
    rw [hgone] at h; cases h
  have hkeep : ∀ k' x op, k' ≠ k → (s.unit d).result k' = some x → x.op? = some op → op ≠ i := by
    rintro k' x op hk' hx hxop rfl
    exact hk' (hapart k' op hsign (by rw [DeskUnit.signs, hx]; exact hxop)).2.symm
  exact
    { besides := hb.atDesk hat (howners ▸ (hs.besides d).owners) (fun a e _ => by rw [how]; exact id) hsub
      unit := ⟨_, hunit⟩
      gone := hgone
      fits := h1
      had := hr
      recorded := fun k' op h => by rw [hop op (hne k' op h)]; exact h2 k' op (hsub k' op h)
      qualified := fun hk x inc rec hst hne' hrec a ha => by
        have hinc := (h1.incoming_iff hk.other inc).2 ⟨hk, x, hst, rfl⟩
        have hk' : hk.other ≠ k := fun he => hne' (by rw [he, hr] at hinc; exact Option.some.inj hinc)
        rw [hop inc (hkeep _ _ inc hk' hinc rfl)] at hrec
        exact (h3 hk x inc rec hst hrec).2 a (how ▸ ha)
      owns := fun a ha hno => by
        obtain ⟨k', op, rec, hk', hres, hrec, ha⟩ := h4 a (how ▸ ha)
        have hkk : k' ≠ k := fun he => hno op (by rw [he, hr] at hres; exact Option.some.inj hres)
        exact ⟨k', op, rec, hk', hres, by rw [hop op (hkeep k' _ op hkk hres rfl)]; exact hrec, ha⟩ }

theorem revoke_eq {d : Desk} {k : SlotId} {s : State} {r : SignOn} (h : (s.unit d).result k = some r)
    (reason : KeyRefusal) : revoke d k reason s = loseKey d k r .revocation (s.setResult d k (.refused reason)) := by
  have h' : (s.slot d k).state.result? = some r := h
  simp only [revoke, h']

/-- The revocation of the key signed on by a changed or removed record (R85). -/
theorem revoke_desksLawful {s : State} (hs : s.DesksLawful) {i : OpIndex} {ops : Table 64 OperatorRecord}
    (hw : tableWf ops = true) (hsame : ∀ j, j ≠ i → tableGet ops j = s.operator j) {d : Desk} {k : SlotId}
    (hi : s.signedOn d k = some i) (w : Draft) (reason : KeyRefusal) :
    (revoke d k reason (enter w { s with operators := ops })).DesksLawful := by
  obtain ⟨r, hr, hop⟩ := Option.bind_eq_some_iff.1 hi
  rw [revoke_eq (r := r) (by rw [enter_unit]; exact hr)]
  exact (hs.revoked hw hsame hr hop w reason).loseKey _

theorem serveClearOperator_desksLawful {s : State} (hs : s.DesksLawful) (i : OpIndex) :
    (serveClearOperator i s).1.DesksLawful := by
  have hops := (hs.besides .d0).operators
  have hw := tableErase_wf hops i
  have hsame : ∀ j, j ≠ i → tableGet (tableErase s.operators i) j = s.operator j := fun j hj => by
    rw [tableGet_erase, if_neg hj]; rfl
  simp only [serveClearOperator]
  split
  · exact hs
  · split
    · rename_i hwhere
      exact enter_desksLawful (hs.operators hw hsame (whereSignedOn_none.1 hwhere)) _
    · rename_i d k hwhere
      exact revoke_desksLawful hs hw hsame (whereSignedOn_some hwhere) _ _

/-- The desk where a replaced record is signed on keeps its laws, if the new record still has every area the desk owns
where it is the holder's, and still qualifies where it is the incoming operator's. -/
theorem State.LawfulAt.replaced {s : State} {d : Desk} (h : s.LawfulAt d) {i : OpIndex} {new : OperatorRecord}
    {ops : Table 64 OperatorRecord} (hnew : tableGet ops i = some new)
    (hsame : ∀ j, j ≠ i → tableGet ops j = s.operator j)
    (hhold : ∀ k, (s.unit d).result k = some (.holder i) → s.Covers d new.areas)
    (hinc : ∀ k, (s.unit d).result k = some (.incoming i) → new.role.atLeast .operator = true ∧ s.Covers d new.areas) :
    State.LawfulAt { s with operators := ops } d := by
  obtain ⟨h1, h2, h3, h4⟩ := h
  refine ⟨h1, fun k op hop => ?_, fun hk x inc r hst hr => ?_, fun a ha => ?_⟩
  · by_cases hi : op = i
    · rw [State.operator, hi, hnew]; rfl
    · rw [State.operator, hsame op hi]; exact h2 k op hop
  · by_cases hi : inc = i
    · subst hi
      rw [State.operator, hnew] at hr
      obtain rfl : new = r := Option.some.inj hr
      exact hinc hk.other ((h1.incoming_iff _ inc).2 ⟨hk, x, hst, rfl⟩)
    · rw [State.operator, hsame inc hi] at hr
      exact h3 hk x inc r hst hr
  · obtain ⟨k, op, r, hk, hres, hr, ha'⟩ := h4 a ha
    by_cases hi : op = i
    · subst hi
      exact ⟨k, op, new, hk, hres, hnew, hhold k hres a ha⟩
    · exact ⟨k, op, r, hk, hres, by rw [State.operator, hsame op hi]; exact hr, ha'⟩

theorem inSet_narrowed {old new : AreaSet} {a : Area} (ho : inSet old a = true) (hn : inSet new a = false) :
    old &&& ~~~new ≠ 0 := by
  intro h
  have h' := congrArg (fun x : BitVec 64 => x.getLsbD a.val) h
  simp only [inSet, BitVec.getLsbD_eq_getElem a.isLt] at ho hn
  simp [ho, hn] at h'

/-- A consequence that is not the end of the sign-on (R86, R87). -/
theorem applyConsequence_desksLawful {s : State} (hs : s.DesksLawful) {i : OpIndex} {old new : OperatorRecord}
    {d : Desk} {k : SlotId} (hold : s.operator i = some old) (hi : s.signedOn d k = some i) (w : Draft) :
    (applyConsequence d k i new (consequence d k old new { s with operators := tablePut s.operators i new })
      (enter w { s with operators := tablePut s.operators i new })).DesksLawful := by
  have hw := tablePut_wf (hs.besides d).operators i new
  have hput := tableGet_put_self s.operators i new
  have hsame : ∀ j, j ≠ i → tableGet (tablePut s.operators i new) j = s.operator j := fun j hj => by
    rw [tableGet_put (hs.besides d).operators, if_neg hj]; rfl
  have hb := hs.operators_besides hw hsame hi
  have how := (hs.besides d).owners
  obtain ⟨r, hr, hop⟩ := Option.bind_eq_some_iff.1 hi
  have hres : (s.unit d).result k = some r := hr
  have hkeep := ((desksLawful_iff s).1 hs).2.2.1
  have honly : ∀ k' x, (s.unit d).result k' = some x → x.op? = some i → k' = k := fun k' x hx hxi =>
    (hkeep d k' d k i (by rw [DeskUnit.signs, hx]; exact hxi) hi).2
  have hat := hs.at d
  have hcons : consequence d k old new { s with operators := tablePut s.operators i new } =
      consequence d k old new s := rfl
  rw [hcons]
  cases hc : consequence d k old new s with
  | ends reason => exact revoke_desksLawful hs hw hsame hi w reason
  | nothing =>
    refine enter_desksLawful (hb.all (hat.replaced hput hsame (fun k' hk' a ha => ?_) fun k' hk' => ?_)) w
    · obtain rfl := honly k' _ hk' rfl
      simp only [consequence] at hc
      split at hc
      · cases hc
      · have hk'' : (s.slot d k').state.result? = some (.holder i) := hk'
        simp only [hk''] at hc
        split at hc
        · cases hc
        · rename_i hnot
          by_contra hno
          obtain ⟨k2, op2, r2, -, hres2, hr2, ha2⟩ := hat.owns a ha
          obtain ⟨op3, hop3⟩ : ∃ op, (s.unit d).result k2 = some (.holder op) := ⟨op2, hres2⟩
          have hk2 : k2 = k' := by
            have h1 := hat.fits.holder_state hres2
            rw [hat.fits.holder_state hk'] at h1
            exact (Option.some.inj h1).symm
          rw [hk2, hk'] at hres2
          obtain rfl : i = op2 := by simpa using hres2
          rw [hold] at hr2
          obtain rfl : old = r2 := Option.some.inj hr2
          refine hnot ?_
          simp only [Bool.and_eq_true, narrows, decide_eq_true_eq, List.any_eq_true, Bool.not_eq_true']
          exact ⟨inSet_narrowed ha2 (by simpa using hno), a, (mem_ownedAreas how).2 ha, by simpa using hno⟩
    · obtain rfl := honly k' _ hk' rfl
      obtain ⟨hk, x, hst, rfl⟩ := (hat.fits.incoming_iff k' i).1 hk'
      obtain ⟨hrole, hcov⟩ := hat.qualified hk x i old hst hold
      simp only [consequence] at hc
      split at hc
      · cases hc
      · have hk'' : (s.slot d hk.other).state.result? = some (.incoming i) := hk'
        simp only [hk''] at hc
        split at hc
        · cases hc
        · rename_i hnot
          simp only [Bool.and_eq_true, not_and, Bool.not_eq_true'] at hnot
          by_cases hreq : requalifies old new = true
          · have hq := (qualifies_iff how).1 (by simpa using hnot hreq)
            exact ⟨hq.1, hq.2.1⟩
          · simp only [requalifies, Bool.or_eq_true, decide_eq_true_eq, not_or, Decidable.not_not] at hreq
            obtain ⟨⟨⟨h1, h2⟩, -⟩, -⟩ := hreq
            rw [← h1, ← h2]
            exact ⟨hrole, hcov⟩
  | releases =>
    have hkind : ∃ op, (s.unit d).result k = some (.holder op) := by
      simp only [consequence] at hc
      split at hc
      · cases hc
      · split at hc
        · exact ⟨_, ‹_›⟩
        · split at hc <;> cases hc
        · cases hc
    obtain ⟨op, hhold⟩ := hkind
    obtain rfl : op = i := by rw [hres] at hhold; cases hhold; exact Option.some.inj hop
    have hbe : State.BesidesLawful (enter w { s with operators := tablePut s.operators op new }) d :=
      hb.atDesk (enter_atDesk d w _) (by rw [enter_owners]; exact how) (fun a e _ => by rw [enter_owner]; exact id)
        (fun k' x => by rw [enter_unit]; exact id)
    have hat' := releaseOutside_atDesk d new.areas (enter w { s with operators := tablePut s.operators op new })
    have howner := fun a => releaseOutside_owner hbe.owners d new.areas a
    have hunit : (releaseOutside d new.areas (enter w { s with operators := tablePut s.operators op new })).unit d =
        s.unit d := by rw [releaseOutside_unit, enter_unit]; rfl
    have hop' : (releaseOutside d new.areas (enter w { s with operators := tablePut s.operators op new })).operator =
        tableGet (tablePut s.operators op new) := by
      funext j; rw [State.operator, hat'.operators, enter_operators]
    have hwf := releaseOutside_owners_wf hbe.owners d new.areas
    simp only [applyConsequence]
    generalize releaseOutside d new.areas (enter w { s with operators := tablePut s.operators op new }) = t at *
    simp only [enter_owner] at howner
    have hown : ∀ a e, t.owner a = some e → s.owner a = some e := fun a e => by
      rw [howner]; split
      · exact fun h => by cases h
      · exact id
    refine (hbe.atDesk hat' hwf (fun a e _ h => by rw [enter_owner]; exact hown a e h)
      fun k' x => by rw [hunit, enter_unit]; exact id).all ⟨hunit ▸ hat.fits, fun k' x hx => ?_, ?_, fun a ha => ?_⟩
    · rw [hunit] at hx
      rw [hop']
      by_cases hxo : x = op
      · rw [hxo, hput]; rfl
      · rw [hsame x hxo]; exact hat.recorded k' x hx
    · rw [hunit, hop']
      intro hk x inc r' hst hrec
      have hinc := (hat.fits.incoming_iff hk.other inc).2 ⟨hk, x, hst, rfl⟩
      have hne : inc ≠ op := by
        rintro rfl
        have := honly hk.other _ hinc rfl
        rw [this, hhold] at hinc
        cases hinc
      rw [hsame inc hne] at hrec
      obtain ⟨hrole, hcov⟩ := hat.qualified hk x inc r' hst hrec
      exact ⟨hrole, fun a ha => hcov a (hown a d ha)⟩
    · refine ⟨k, op, new, by rw [hunit]; exact hat.fits.holder_state hhold, by rw [hunit]; exact hhold,
        by rw [hop']; exact hput, ?_⟩
      rw [howner] at ha
      split at ha
      · cases ha
      · rename_i h
        by_contra hno
        exact h ⟨ha, by simpa using hno⟩
  | disqualifies =>
    have hkind : ∃ op, (s.unit d).result k = some (.incoming op) := by
      simp only [consequence] at hc
      split at hc
      · cases hc
      · split at hc
        · split at hc <;> cases hc
        · exact ⟨_, ‹_›⟩
        · cases hc
    obtain ⟨op, hinc⟩ := hkind
    obtain rfl : op = i := by rw [hres] at hinc; cases hinc; exact Option.some.inj hop
    obtain ⟨hk, x, hst, rfl⟩ := (hat.fits.incoming_iff k op).1 hinc
    have hf := hat.fits
    simp only [DeskUnit.Fits, hst] at hf
    have hat' : State.AtDesk d { s with operators := tablePut s.operators op new }
        ((enter w { s with operators := tablePut s.operators op new }).setResult d hk.other (.companion op true)) :=
      (enter_atDesk d w _).trans (setResult_atDesk d _ _ _)
    have hunit : ((enter w { s with operators := tablePut s.operators op new }).setResult d hk.other
        (.companion op true)).unit d = (s.unit d).withResult hk.other (.companion op true) := by
      rw [setResult_unit, enter_unit]; rfl
    have howners : ((enter w { s with operators := tablePut s.operators op new }).setResult d hk.other
        (.companion op true)).owners = s.owners := enter_owners w _
    simp only [applyConsequence]
    generalize (enter w { s with operators := tablePut s.operators op new }).setResult d hk.other
      (.companion op true) = v at *
    have hvop : v.operator = tableGet (tablePut s.operators op new) := by
      funext j; rw [State.operator, hat'.operators]
    have hvow : v.owner = s.owner := by funext a; simp only [State.owner, howners]
    have ho : (v.unit d).result hk.other = some (.companion op true) := by
      rw [hunit, DeskUnit.result_withResult_self, hf.2]; rfl
    have hh : (v.unit d).result hk = (s.unit d).result hk := by rw [hunit, DeskUnit.result_withResult_of_other]
    have hsub : (s.unit d).SignsFewer (v.unit d) := by
      refine .of_slots hk (fun y => by rw [DeskUnit.signs, hh]; exact id) fun y => ?_
      rw [DeskUnit.signs, ho, DeskUnit.signs, hf.2]
      exact id
    refine incomingLeaves_desksLawful (hb.atDesk hat' (howners ▸ how) (fun a e _ => by rw [hvow]; exact id) hsub)
      hk.other 5 (h := x) (inc := op) (by rw [hunit, DeskUnit.withResult_state]; exact hst) (hh.trans hf.1)
      (by rw [ho]; exact plain_companion _ _) (fun k' y hy => ?_) fun a ha => ?_
    · rw [hvop]
      by_cases hyo : y = op
      · rw [hyo, hput]; rfl
      · rw [hsame y hyo]; exact hat.recorded k' y (hsub k' y hy)
    · obtain ⟨k', o, rec, hk', hr', hrec, ha⟩ := hat.owns a (hvow ▸ ha)
      rw [hst] at hk'
      obtain rfl := Option.some.inj hk'
      rw [hf.1] at hr'
      obtain rfl : x.outgoing = o := by simpa using hr'
      have hne : x.outgoing ≠ op := by
        intro he
        have := honly hk _ hf.1 (by rw [SignOn.op?, he])
        exact SlotId.other_ne hk this.symm
      exact ⟨rec, by rw [hvop, hsame _ hne]; exact hrec, ha⟩

theorem applySetOperator_desksLawful {s : State} (hs : s.DesksLawful) (i : OpIndex) (new : OperatorRecord) :
    (applySetOperator i new s).DesksLawful := by
  have hw := tablePut_wf (hs.besides .d0).operators i new
  have hsame : ∀ j, j ≠ i → tableGet (tablePut s.operators i new) j = s.operator j := fun j hj => by
    rw [tableGet_put (hs.besides .d0).operators, if_neg hj]; rfl
  simp only [applySetOperator]
  split
  · rename_i hnone
    refine enter_desksLawful (hs.operators hw hsame fun d k h => ?_) _
    have := (hs.at d).recorded k i h
    rw [hnone] at this
    cases this
  · rename_i old hold
    split
    · rename_i hwhere
      exact enter_desksLawful (hs.operators hw hsame (whereSignedOn_none.1 hwhere)) _
    · rename_i d k hwhere
      exact applyConsequence_desksLawful hs hold (whereSignedOn_some hwhere) _

end Sys2Proof.Machine
end

section
/-! PROOFS. Every step keeps the laws of ownership and sign-on (O8). -/

namespace Sys2Proof.Machine

/-! ### The operations of the blocks -/

theorem setPending_desksLawful {s : State} (hs : s.DesksLawful) (c : AttnClass) : (setPending c s).DesksLawful := by
  obtain ⟨pending, n0, n1, he⟩ := setPending_eq c s
  rw [he]
  exact hs.congr rfl rfl rfl

/-- New contacts or pins of a slot whose state stands. -/
theorem putSlot_contacts_desksLawful {s : State} (hs : s.DesksLawful) (d : Desk) (k : SlotId) {v : Slot}
    (hv : v.state = (s.slot d k).state) : (s.putSlot d k v).DesksLawful :=
  hs.putUnit
    { slots := fun k' => by
        obtain rfl | rfl := SlotId.eq_or_other k k'
        · rw [DeskUnit.slot_setSlot_self, hv]; rfl
        · rw [DeskUnit.slot_setSlot_other]
      state := by rw [DeskUnit.setSlot_state] }

theorem closeContact_desksLawful {s : State} (hs : s.DesksLawful) (d : Desk) (k : SlotId) (c : Contact) :
    (closeContact d k c s).DesksLawful := by
  simp only [closeContact]
  split
  · exact hs
  · cases hst : (s.slot d k).state with
    | empty =>
      exact putSlot_desksLawful hs (by rw [hst]; rfl) rfl fun _ => .inr (.inl rfl)
    | oneContact =>
      refine putSlot_desksLawful hs (by rw [hst]; rfl) ?_ fun hout => .inr (.inr ?_)
      · simp only [SlotState.afterClose]
        split <;> rfl
      · simp [SlotState.afterClose, hout]
    | _ => exact putSlot_contacts_desksLawful hs d k hst.symm

theorem updateLoad_desksLawful {s : State} (hs : s.DesksLawful) (x : Target) : (updateLoad x s).DesksLawful := by
  have hput : ∀ v, (s.putLoad x v).DesksLawful := fun v => hs.congr rfl rfl rfl
  simp only [updateLoad]
  split
  · split
    · exact enter_desksLawful (hput _) _
    · exact hput _
  · split
    · cases x with
      | desk d => exact abortHandover_desksLawful (enter_desksLawful (hput _) _) d .flood
      | room => exact enter_desksLawful (hput _) _
    · exact hput _

theorem State.QuietOp.desksLawful {s t : State} (h : s.QuietOp t) (hs : s.DesksLawful) : t.DesksLawful := by
  cases h with
  | enter w => exact enter_desksLawful hs w
  | setPending c => exact setPending_desksLawful hs c
  | raiseNotice => exact hs.congr rfl rfl rfl
  | reroute before => exact reroute_desksLawful hs before
  | putPoint x hp => exact putPoint_desksLawful hs x _
  | erasePoint x => exact hs.congr rfl rfl rfl
  | setPoint x _ _ _ => exact applySetPoint_desksLawful hs x _
  | activeFrame _ => exact activeFrame_desksLawful hs _ _
  | clearFrame _ => exact clearFrame_desksLawful hs _ _
  | acknowledge d op _ => exact changePointAt_desksLawful (enter_desksLawful hs _) _ _ _ _
  | shelve expiry op _ => exact changePointAt_desksLawful hs _ _ _ _
  | returnFromShelf _ _ => exact returnFromShelf_desksLawful hs _ _
  | silence d op => exact silenceDesk_desksLawful hs d op
  | escalate => exact hs.congr rfl rfl rfl
  | assignArea x => exact serveAssignArea_desksLawful hs x
  | abort d reason => exact abortHandover_desksLawful hs d reason
  | commit hst => exact commitHandover_desksLawful hs hst
  | brief d inc x how => exact enter_desksLawful (mapCarried_desksLawful hs d _) _
  | dues due => 
    refine hs.alike rfl rfl fun d => ?_
    rw [show State.unit { s with desks := PerDesk.of (fun d => { s.unit d with due := due d }) } d =
      { s.unit d with due := due d } from PerDesk.get_of _ d]
    exact ⟨fun k => by cases k <;> rfl, rfl⟩
  | outOfService d => exact takeOutOfService_desksLawful hs d
  | intoService hst => exact returnToService_desksLawful hs hst
  | contacts d k hv => exact putSlot_contacts_desksLawful hs d k hv
  | closeContact d k c => exact closeContact_desksLawful hs d k c
  | removal d k c => exact removalOf_desksLawful hs d k c
  | @slotWork d k st _ hold hst =>
    have hread : (s.slot d k).state.result? = none := by obtain h | ⟨_, _, _, h⟩ := hold <;> rw [h] <;> rfl
    refine putSlot_desksLawful hs hread hst fun hout => absurd ((hs.at d).fits.unread hout k) ?_
    have hslot : (s.unit d).slot k = s.slot d k := rfl
    obtain h | ⟨_, _, _, h⟩ := hold <;> simp [hslot, h]
  | keyIn r hst => exact keyIn_desksLawful hs r hst

theorem State.Work.desksLawful {s t : State} (h : s.Work t) (hs : s.DesksLawful) : t.DesksLawful := by
  cases h with
  | quiet h => exact h.desksLawful hs
  | adoptFlood =>
    simp only [Sys2Proof.Machine.adoptFlood]
    split
    · exact hs.congr rfl rfl rfl
    · exact hs
  | updateLoad x => exact updateLoad_desksLawful hs x
  | opening h =>
    obtain ⟨hst, -, -, r, hr⟩ := mayOpen_ok h
    exact openHandover_desksLawful hs hst (holderRecord_some_iff.1 hr).1
  | config d home h => exact hs.putUnit ⟨fun k => by cases k <;> rfl, rfl⟩
  | cycleStart =>
    refine hs.alike rfl rfl fun d => ?_
    rw [cycleStart_unit]
    exact ⟨fun k => by cases k <;> rfl, rfl⟩
  | setOperator i r => exact applySetOperator_desksLawful hs i r
  | clearOperator i => exact serveClearOperator_desksLawful hs i
  | _ => exact hs.congr rfl rfl rfl

/-! ### Resets and the load of the store -/

/-- Nothing is signed on and nothing is owned: what a reset leaves, with whatever operator table. -/
theorem bare_desksLawful {t : State} (hops : tableWf t.operators = true) (howners : t.owners = [])
    (hslots : ∀ d k, ((t.unit d).slot k).state = .empty)
    (hst : ∀ d, (t.unit d).state = .vacant ∨ (t.unit d).state = .outOfService) : t.DesksLawful := by
  have hres : ∀ d k, (t.unit d).result k = none := fun d k => by rw [DeskUnit.result, hslots]; rfl
  have hsigns : ∀ d k op, (t.unit d).signs k ≠ some op := fun d k op h => by
    rw [DeskUnit.signs, hres] at h; cases h
  refine (desksLawful_iff t).2 ⟨hops, by rw [howners]; rfl, fun d k _ _ op h => absurd h (hsigns d k op), fun d => ?_⟩
  refine ⟨?_, fun k op h => absurd h (hsigns d k op), fun hk x inc r h => ?_, fun a ha => ?_⟩
  · obtain h | h := hst d
    · simp only [DeskUnit.Fits, h, hres]
      exact fun _ => Plain.none
    · simp [DeskUnit.Fits, h, hslots]
  · obtain h' | h' := hst d <;> rw [h'] at h <;> cases h
  · rw [State.owner, howners] at ha; cases ha

theorem resetTo_slot (p : Phase) (s : State) (d : Desk) (k : SlotId) : (((resetTo p s).unit d).slot k).state = .empty := by
  rw [resetTo_unit]
  cases d <;> cases k <;> rfl

/-- The operator tables of the images are in canonical form, and the laws of the desks hold. -/
def State.OwnershipLawful (s : State) : Prop := (∀ i ∈ s.images, tableWf i.operators = true) ∧ s.DesksLawful

theorem State.Move.ownershipLawful {s t : State} (h : s.Move t) (hs : s.OwnershipLawful) : t.OwnershipLawful := by
  obtain ⟨him, hd⟩ := hs
  cases h with
  | work h =>
    refine ⟨fun i hi => ?_, h.desksLawful hd⟩
    obtain hi | rfl := h.images_mem hi
    · exact him i hi
    · exact (hd.besides .d0).operators
  | reset p input _ =>
    exact ⟨fun i hi => him i (resetTo_images (p := p) hi),
      bare_desksLawful rfl rfl (resetTo_slot p s) fun d => .inl (resetTo_state p s d)⟩
  | load p _ =>
    obtain ⟨image, st, he, himage, hst⟩ := loadStore_resetTo_eq p s
    have hunit : ∀ d, (loadStore (resetTo p s)).unit d = loadDesk (image.desks.get d) ((resetTo p s).unit d) :=
      fun d => by rw [he]; exact loadImage_unit image _ d
    refine ⟨fun i hi => ?_, bare_desksLawful ?_ (by rw [he]; rfl) (fun d k => ?_) fun d => ?_⟩
    · rw [he, loaded_images hst, Option.mem_toList] at hi
      exact him i (resetTo_image_mem hi)
    · rw [he]
      obtain hi | rfl := himage
      · exact him image hi
      · rfl
    · rw [hunit]
      exact (by cases k <;> rfl : ((loadDesk _ _).slot k).state = _).trans (resetTo_slot p s d k)
    · rw [hunit, loadDesk]
      dsimp only
      split
      · exact .inl rfl
      · exact .inr rfl
  | _ => exact ⟨him, hd.congr rfl rfl rfl⟩

/-- Settles O8: every operation of the part keeps the laws of ownership with the laws of sign-on they rest on. -/
theorem stepKeepsOwnership : Obligations.StepKeepsOwnership := fun _ _ him hs h =>
  (step_keeps (P := State.OwnershipLawful) (fun _ _ => State.Move.ownershipLawful) ⟨him, hs⟩ h).2

end Sys2Proof.Machine
end

section
/-! PROOFS. What the state in which a frame is served shows of the state before it; and the machine's step and its state
after reset (O1, O2). -/

namespace Sys2Proof.Machine

/-! ### Events while the blocks work -/

theorem whileWorking_of_works {event : State → State} {s : State} (h : s.works = true) : whileWorking event s = event s := by
  rw [whileWorking, if_pos h]

theorem whileWorking_of_idle {event : State → State} {s : State} (h : s.works = false) : whileWorking event s = s := by
  rw [whileWorking, if_neg (by simp [h])]

/-! ### Readings of the served state -/

section Listening
variable (l : Link) (s : State)

@[simp] theorem listening_unit (d : Desk) : (s.listening l).unit d = s.unit d := by simp [State.unit]
@[simp] theorem listening_slot (d : Desk) (k : SlotId) : (s.listening l).slot d k = s.slot d k := by simp [State.slot]
@[simp] theorem listening_operator (i : OpIndex) : (s.listening l).operator i = s.operator i := by simp [State.operator]
@[simp] theorem listening_owner (a : Area) : (s.listening l).owner a = s.owner a := by simp [State.owner]
@[simp] theorem listening_loadOf (t : Target) : (s.listening l).loadOf t = s.loadOf t := by simp [State.loadOf]
@[simp] theorem listening_targets : (s.listening l).target = s.target := funext (listening_target l s)
@[simp] theorem listening_holder (d : Desk) : (s.listening l).holder d = s.holder d := by simp [State.holder]
@[simp] theorem listening_holderRecord (d : Desk) : (s.listening l).holderRecord d = s.holderRecord d := by
  simp only [State.holderRecord, listening_holder, listening_operator]
@[simp] theorem listening_inHandover (d : Desk) : (s.listening l).inHandover d = s.inHandover d := by
  simp [State.inHandover]
@[simp] theorem listening_carried (d : Desk) : (s.listening l).carried d = s.carried d := by simp [State.carried]
@[simp] theorem listening_signedOn (d : Desk) (k : SlotId) : (s.listening l).signedOn d k = s.signedOn d k := by
  simp [State.signedOn]
@[simp] theorem listening_whereSignedOn (i : OpIndex) : (s.listening l).whereSignedOn i = s.whereSignedOn i := by
  simp [State.whereSignedOn]
@[simp] theorem listening_silencer (d : Desk) : (s.listening l).silencer d = s.silencer d := by simp [State.silencer]
@[simp] theorem listening_ownedAreas (d : Desk) : (s.listening l).ownedAreas d = s.ownedAreas d := by
  simp [State.ownedAreas]
@[simp] theorem listening_windowPassed (r : OperatorRecord) : (s.listening l).windowPassed r = s.windowPassed r := by
  simp [State.windowPassed]
@[simp] theorem listening_qualifies (d : Desk) (r : OperatorRecord) :
    (s.listening l).qualifies d r = s.qualifies d r := by simp [State.qualifies]
@[simp] theorem listening_standsAt (t : Target) (p : Point) : (s.listening l).standsAt t p = s.standsAt t p := by
  simp [State.standsAt]
@[simp] theorem listening_attentionList (t : Target) : (s.listening l).attentionList t = s.attentionList t := by
  simp [State.attentionList]
@[simp] theorem listening_toCarry (d : Desk) : (s.listening l).toCarry d = s.toCarry d := by simp [State.toCarry]
@[simp] theorem listening_shelfEntries : (s.listening l).shelfEntries = s.shelfEntries := by simp [State.shelfEntries]
@[simp] theorem listening_silences (t : Target) (p : Point) : (s.listening l).silences t p = s.silences t p := by
  simp [State.silences]
@[simp] theorem listening_silenceCount (t : Target) : (s.listening l).silenceCount t = s.silenceCount t := by
  simp [State.silenceCount]
@[simp] theorem listening_hasHolder (d : Desk) : (s.listening l).hasHolder d = s.hasHolder d := by simp [State.hasHolder]
@[simp] theorem listening_resultAt (d : Desk) (k : SlotId) : (s.listening l).resultAt d k = s.resultAt d k := by
  simp [State.resultAt]

end Listening

/-! ### The machine -/

/-- Settles O1: by the two cases of the queue. -/
theorem stepRunsFront : Obligations.StepRunsFront :=
  ⟨fun _ _ _ => rfl, fun s h => by simp only [step, h]⟩

theorem reset_desksLawful : State.reset.DesksLawful :=
  bare_desksLawful rfl rfl (fun d k => by cases d <;> cases k <;> rfl) fun d => .inl (by cases d <;> rfl)

/-- What reset leaves of the working state. -/
theorem reset_working :
    (∀ l, State.reset.eventLink l = { queue := [], holdLine := false, expected := none }) ∧
    (∀ a, State.reset.owner a = none) ∧
    (∀ t, State.reset.loadOf t = { w := 0, l := 0, flood := false }) ∧
    (∀ d k, (State.reset.slot d k).state = .empty ∧ (State.reset.slot d k).contacts = ⟨false, false⟩) ∧
    (∀ d, (State.reset.unit d).lamps = ⟨.off, .off, .off, .off, .off⟩) ∧
    ∀ l, (State.reset.link l).receiver = .hunting ∧ (State.reset.link l).notice = false := by
  refine ⟨fun l => by cases l <;> rfl, fun a => rfl, fun t => ?_, fun d k => ?_, fun d => by cases d <;> rfl,
    fun l => by cases l <;> exact ⟨rfl, rfl⟩⟩
  · cases t with
    | desk d => cases d <;> rfl
    | room => rfl
  · cases d <;> cases k <;> exact ⟨rfl, rfl⟩

theorem reset_images : State.reset.images = [] := rfl

/-- Settles O2: each value by evaluation, each law from what reset leaves. -/
theorem resetState : Obligations.ResetState := by
  obtain ⟨hevent, howner, hload, hslot, hlamps, hlink⟩ := reset_working
  have hnohandover : ∀ d, (State.reset.unit d).state.handover? = none := fun d => by cases d <;> rfl
  have himages : ∀ i, i ∉ State.reset.images := fun i hi => by rw [reset_images] at hi; cases hi
  have hflash : State.reset.flash.Lawful := ⟨by decide, by decide, by decide, by decide, by decide, by decide, by decide⟩
  refine ⟨⟨hevent, howner, hload, hslot, rfl, rfl, rfl, hlamps, rfl, rfl, rfl, rfl, rfl, rfl, rfl, rfl, hlink, rfl, rfl⟩,
    ⟨rfl, rfl, rfl, fun i hi => absurd hi (himages i)⟩, ⟨Nat.zero_le _, rfl⟩, fun t => ?_, fun l => ?_,
    ⟨hflash, fun f h => ?_, fun i hi => absurd hi (himages i), by decide⟩, ?_, reset_horn, fun d h => ?_, fun d => ?_,
    fun l => ?_, ⟨fun t p h => ?_, fun i hi => absurd hi (himages i)⟩, reset_desksLawful, fun h => ?_⟩
  · rw [hload]; exact ⟨Nat.zero_le _, Nat.zero_le _⟩
  · rw [hevent]; exact ⟨Nat.zero_le _, by simp⟩
  · cases h
  · have hlimits : State.reset.limits.Lawful :=
      ⟨by decide, by decide, by decide, by decide, by decide, by decide, by decide, by decide⟩
    exact ⟨hlimits, fun p h => (by cases h), by decide, reset_config, fun i hi => absurd hi (himages i)⟩
  · rw [State.inHandover, hnohandover] at h; cases h
  · rw [State.carried, hnohandover]; exact ⟨Nat.zero_le _, List.nodup_nil⟩
  · cases l <;> exact ⟨by decide, by decide, fun _ => rfl⟩
  · cases h
  · cases h

end Sys2Proof.Machine
end

section
/-! PROOFS. Serving a command on the command link, said once; the settings (O50) and the store (O52). -/

namespace Sys2Proof.Machine

/-! ### Serving -/

section Served
variable {α : Type} {s u : State} {l : Link} {read : Option α} {x : α} {a : Answer} {status reason : Byte}
  {body : List Byte}

/-- A command whose body reads is answered as its rule serves it (R193, R195). -/
theorem command_served (h : s.commands l) (type tag : Byte) (hr : read = some x) (serve : α → Serve)
    (hs : serve x (s.listening l) = (u, a)) (hu : u.phase = s.phase) (ha : a.body = status :: reason :: body) :
    takeFrame l type tag (asCommand l (served read serve)) s = u.replies l type tag status reason body := by
  subst hr
  exact takeFrame_command h type tag _ hs (by simp [hu, h.1.1]) ha

/-- A command whose body does not read is answered BAD_FIELD (R193). -/
theorem command_badField (h : s.commands l) (type tag : Byte) (hr : read = none) (serve : α → Serve) :
    takeFrame l type tag (asCommand l (served read serve)) s = (s.listening l).replies l type tag 2 0 [] := by
  subst hr
  exact takeFrame_command (t := s.listening l) h type tag _ rfl (by simp [h.1.1]) rfl

/-- A query that reads its answer out of the state (R193, R197). -/
theorem query_served (h : s.answers l) (type tag : Byte) (hr : read = some x) (serve : α → Serve)
    (hs : serve x (s.listening l) = (u, a)) (hu : u.phase = s.phase) (ha : a.body = status :: reason :: body) :
    takeFrame l type tag (asQuery l (served read serve)) s = u.replies l type tag status reason body := by
  subst hr
  exact takeFrame_query h.1 h.2 type tag _ hs (by simp [hu, h.1.1]) ha

theorem query_badField (h : s.answers l) (type tag : Byte) (hr : read = none) (serve : α → Serve) :
    takeFrame l type tag (asQuery l (served read serve)) s = (s.listening l).replies l type tag 2 0 [] := by
  subst hr
  exact takeFrame_query (t := s.listening l) h.1 h.2 type tag _ rfl (by simp [h.1.1]) rfl

end Served

/-! ### Settings -/

theorem increasing_iff (l : List Nat) : increasing l = true ↔ l.Pairwise (· < ·) := by
  induction l with
  | nil => simp [increasing]
  | cons x rest ih =>
    cases rest with
    | nil => simp [increasing]
    | cons y rest =>
      rw [increasing, Bool.and_eq_true, ih, decide_eq_true_eq, List.pairwise_cons (a := x)]
      refine ⟨fun ⟨hxy, hp⟩ => ⟨fun z hz => ?_, hp⟩, fun ⟨hx, hp⟩ => ⟨hx y List.mem_cons_self, hp⟩⟩
      obtain rfl | hz := List.mem_cons.1 hz
      · exact hxy
      · exact hxy.trans ((List.pairwise_cons.1 hp).1 z hz)

theorem scheduleOk_iff (starts : List Nat) : scheduleOk starts = true ↔
    1 ≤ starts.length ∧ starts.length ≤ 4 ∧ (∀ x ∈ starts, x < 86400) ∧ starts.Pairwise (· < ·) := by
  simp only [scheduleOk, Bool.and_eq_true, decide_eq_true_eq, List.all_eq_true, increasing_iff, and_assoc]

theorem clampFlash_eq (c df da g : Nat) : clampFlash c df da g =
    { c := max 20 (min 200 c), df := max 1 (min (max 20 (min 200 c)) df)
      da := max 1 (min (max 20 (min 200 c) / 2) da), g := min 15 g } := rfl

/-- Settles O50, setting by setting. -/
theorem settingsReplaced : Obligations.SettingsReplaced := by
  intro s l tag hcom
  refine ⟨scheduleOk_iff, fun starts m hold pad hok hpad => ?_, fun c df da g hc hdf hda hg => ?_,
    fun up down a b c hup hdown ha hb hc => ?_⟩
  · exact congrArg _ (command_served hcom 15 tag (readSchedule_spelt hok m hold hpad) serveSchedule rfl
      (listening_phase l s) rfl)
  · exact ⟨congrArg _ (command_served hcom 18 tag (readFlash_be hc hdf hda hg) serveSetFlash rfl
      (listening_phase l s) rfl), clampFlash_lawful c df da g⟩
  · have hread := readLimits_be hup hdown ha hb hc
    refine ⟨fun h => ?_, fun h => ?_⟩
    · rw [if_neg (by omega)] at hread
      exact congrArg _ (command_badField hcom 17 tag hread serveSetLimits)
    · rw [if_pos h] at hread
      have hlimits := listening_limits l s
      rw [← hlimits]
      exact congrArg _ (command_served hcom 17 tag hread serveSetLimits rfl (listening_phase l s) rfl)

/-! ### The store -/

/-- The records a store keeps of the points, read off one by one (R3, R5). -/
theorem storedPoints_eq (s : State) : s.storedPoints = s.points.filterMap (fun e =>
    match e.2.origin with
    | .configured => some (e.1, { area := e.2.area, base := e.2.base, step := e.2.step, shelvable := e.2.shelvable })
    | .provisional => none) := by
  rw [State.storedPoints, tableMap]
  induction s.points with
  | nil => rfl
  | cons e rest ih =>
    cases h : e.2.origin with
    | configured => simpa [h, Point.stored] using ih
    | provisional => simpa [h] using ih

@[simp] theorem listening_storedPoints (l : Link) (s : State) : (s.listening l).storedPoints = s.storedPoints := by
  simp [State.storedPoints]

@[simp] theorem listening_storedDesk (l : Link) (s : State) : (s.listening l).storedDesk = s.storedDesk := by
  funext d
  simp [State.storedDesk, State.inService]

@[simp] theorem listening_snapshot (l : Link) (s : State) : (s.listening l).snapshot = s.snapshot := by
  simp [State.snapshot]

/-- Settles O52. -/
theorem storeSaves : Obligations.StoreSaves := by
  intro s l tag records image
  have hrecords : s.storedPoints = records := storedPoints_eq s
  have himage : s.snapshot = image := by rw [State.snapshot, hrecords]; rfl
  have hlen : image.points = records := rfl
  have hsave : ∀ {u a status reason body}, s.commands l → serveStoreSave () (s.listening l) = (u, a) → u.phase = s.phase →
      a.body = status :: reason :: body → exec (.storeSave l tag []) s = .next (u.replies l 21 tag status reason body) :=
    fun hcom hs hu ha => congrArg _ (command_served hcom 21 tag (read := readNothing []) rfl serveStoreSave hs hu ha)
  refine ⟨fun hcom => ⟨fun hstore => ?_, fun i hstore => ?_⟩, fun hw i hstore => ?_⟩
  · refine hsave hcom (a := .ok (be 2 records.length ++ [byte s.operators.length])) ?_ (listening_phase l s) rfl
    rw [← himage, ← hrecords, ← listening_snapshot l s]
    obtain h | h := hstore <;> simp only [serveStoreSave, listening_store, h] <;> simp [State.snapshot]
  · refine hsave hcom (a := .busy) ?_ (listening_phase l s) rfl
    simp only [serveStoreSave, listening_store, hstore]
  · have hexec : ∀ b, exec (.storeWriteComplete b) s = .next (storeWriteComplete b s) := fun b =>
      congrArg _ (whileWorking_of_works hw)
    simp only [hexec, storeWriteComplete, hstore]
    exact ⟨rfl, rfl⟩

end Sys2Proof.Machine
end

section
/-! PROOFS. Frames byte by byte and by type (O53, O54). -/

namespace Sys2Proof.Machine

/-! ### The rule of a frame's type -/

/-- The types whose command may itself change routing (R37; log 13). -/
def routingType (type : Byte) : Bool := decide (type ∈ ([3, 4, 5, 16] : List Byte))

/-- What a command's rule does with its body, by its type (R208). -/
def commandServe (type : Byte) (body : List Byte) : Serve :=
  match type.toNat with
  | 1 => served (readSetPoint body) serveSetPoint
  | 2 => served (readTag body) serveClearPoint
  | 3 => served (readAssignArea body) serveAssignArea
  | 4 => served (readSetOperator body) serveSetOperator
  | 5 => served (readIndex body) serveClearOperator
  | 6 => served (readDeskTag body) serveAck
  | 7 => served (readDesk body) serveSilence
  | 8 => served (readShelve body) serveShelve
  | 9 => served (readDeskTag body) serveUnshelve
  | 10 => served (readDesk body) serveHandoverOpen
  | 11 => served (readDesk body) serveHandoverCancel
  | 12 => served (readDesk body) serveHandoverCommit
  | 13 => served (readDeskTag body) serveBrief
  | 14 => served (readTimeMark body) serveTimeMark
  | 15 => served (readSchedule body) serveSchedule
  | 16 => served (readSetDesk body) serveSetDesk
  | 17 => served (readLimits body) serveSetLimits
  | 18 => served (readFlash body) serveSetFlash
  | 19 => served (readAttnControl body) serveAttnControl
  | 20 => served (readAttnClear body) serveAttnClear
  | 21 => served (readNothing body) serveStoreSave
  | 23 => served (readNothing body) serveReset
  | _ => fun s => (s, .badType)

/-- What a query's rule does with its body, by its type; any other type is answered BAD_TYPE (R193, R208). -/
def queryServe (l : Link) (type : Byte) (body : List Byte) : Serve :=
  match type.toNat with
  | 32 => served (readNothing body) (serveStatus l)
  | 33 => served (readTag body) fun t => readOut fun s => pointReadBody s t
  | 34 => served (readListRead body) fun x => readOut fun s => listReadBody s x.1 x.2.1 x.2.2
  | 35 => served (readJournalRead body) fun x => readOut fun s => journalReadBody s x.1 x.2
  | 36 => served (readDeskRead body) fun x => readOut fun s => deskReadBody s x
  | 37 => served (readIndex body) fun i => readOut fun s => operatorReadBody s i
  | 38 => served (readNothing body) fun _ => readOut timeReadBody
  | _ => fun s => (s, .badType)

/-- How a frame of a type is carried out (R193, R195). -/
def frameServe (l : Link) (type : Byte) (body : List Byte) : Serve :=
  if routingType type then asRoutingCommand l (commandServe type body)
  else if type = 22 then serveTakeCommand l body
  else if commandType type then asCommand l (commandServe type body)
  else asQuery l (queryServe l type body)

/-- A type's number, one by one up to the last accepted one. -/
theorem type_cases (type : Byte) : (∃ n : Fin 39, type = BitVec.ofNat 8 n) ∨ 39 ≤ type.toNat := by
  by_cases h : type.toNat < 39
  · exact .inl ⟨⟨type.toNat, h⟩, by simp⟩
  · exact .inr (by omega)

theorem handOn_eq (l : Link) (type tag : Byte) (body : List Byte) (s : State) :
    handOn l type tag body s = takeFrame l type tag (frameServe l type body) s := by
  obtain ⟨n, rfl⟩ | h := type_cases type
  · fin_cases n <;> rfl
  · have hr : routingType type = false := by
      simp only [routingType, decide_eq_false_iff_not, List.mem_cons, List.not_mem_nil, or_false]
      rintro (rfl | rfl | rfl | rfl) <;> exact absurd h (by decide)
    have h22 : type ≠ 22 := by rintro rfl; exact absurd h (by decide)
    have hc : commandType type = false := by simp [commandType]; omega
    obtain ⟨m, hm⟩ := Nat.exists_eq_add_of_le' h
    simp only [frameServe, hr, h22, hc, Bool.false_eq_true, if_false]
    simp only [handOn, queryServe, hm, takeUnaccepted]

theorem exec_frameCommand (l : Link) (type tag : Byte) (body : List Byte) (s : State) :
    exec (frameCommand l type tag body) s = .next (takeFrame l type tag (frameServe l type body) s) := by
  rw [← handOn_eq]
  obtain ⟨n, rfl⟩ | h := type_cases type
  · fin_cases n <;> rfl
  · obtain ⟨m, hm⟩ := Nat.exists_eq_add_of_le' h
    simp only [frameCommand, handOn, hm]
    rfl

/-! ### Receivers -/

@[simp] theorem setReceiver_link (l : Link) (r : Receiver) (s : State) :
    (setReceiver l r s).link l = { s.link l with receiver := r } := State.link_putLink_self _ _ _

@[simp] theorem setReceiver_setReceiver (l : Link) (r r' : Receiver) (s : State) :
    setReceiver l r (setReceiver l r' s) = setReceiver l r s := by
  simp only [setReceiver, State.link_putLink_self]
  cases l <;> rfl

theorem setReceiver_same {l : Link} {r : Receiver} {s : State} (h : (s.link l).receiver = r) : setReceiver l r s = s := by
  subst h
  cases l <;> rfl

@[simp] theorem setReceiver_works (l : Link) (r : Receiver) (s : State) : (setReceiver l r s).works = s.works := rfl

theorem exec_byte {s : State} (hw : s.works = true) (l : Link) (b : Byte) :
    exec (.receiverTakesByte l b) s = .next (receiveByte l b s) := congrArg _ (whileWorking_of_works hw)

theorem receiveAll_cons {s : State} (hw : s.works = true) (l : Link) (b : Byte) (rest : List Byte) :
    receiveAll l (b :: rest) s = receiveAll l rest (receiveByte l b s) := by
  rw [receiveAll, exec_byte hw]

theorem receiveByte_hunting {l : Link} {s : State} (h : (s.link l).receiver = .hunting) (b : Byte) :
    receiveByte l b s = if b = 0xA5 then setReceiver l (.inside []) s else s := by
  simp only [receiveByte, h]
  rfl

theorem receiveByte_inside (l : Link) (bytes : List Byte) (b : Byte) (s : State) :
    receiveByte l b (setReceiver l (.inside bytes) s) = collected l (bytes ++ [b]) (setReceiver l (.inside bytes) s) := by
  simp only [receiveByte, setReceiver_link]

/-- Inside a frame of a length that fits, a byte that is not the last is kept (R191). -/
theorem collected_more {l : Link} {n : Byte} (hn : n.toNat ≤ 120) {bytes : List Byte}
    (h : bytes.length + 1 < n.toNat + 5) (r : Receiver) (s : State) :
    collected l (n :: bytes) (setReceiver l r s) = setReceiver l (.inside (n :: bytes)) s := by
  have h1 : ¬ Config.maxBody < n.toNat := by rw [show Config.maxBody = 120 from rfl]; omega
  have h2 : (n :: bytes).length ≠ n.toNat + 5 := by rw [List.length_cons]; omega
  simp only [collected, h1, h2, if_false, setReceiver_setReceiver]

/-- The bytes of a frame but the last are all kept (R191). -/
theorem receiveAll_inside {s : State} (hw : s.works = true) {l : Link} {n : Byte} (hn : n.toNat ≤ 120)
    (rest bytes last : List Byte) (h : bytes.length + rest.length + 1 < n.toNat + 5) :
    receiveAll l (rest ++ last) (setReceiver l (.inside (n :: bytes)) s) =
      receiveAll l last (setReceiver l (.inside (n :: (bytes ++ rest))) s) := by
  induction rest generalizing bytes with
  | nil => rw [List.nil_append, List.append_nil]
  | cons b rest ih =>
    rw [List.length_cons] at h
    have hone : bytes.length + 1 + rest.length + 1 < n.toNat + 5 := by omega
    rw [List.cons_append, receiveAll_cons (by simpa using hw), receiveByte_inside, List.cons_append,
      collected_more hn (by rw [List.length_append, List.length_singleton]; omega),
      ih _ (by rw [List.length_append, List.length_singleton]; omega), List.append_assoc, List.singleton_append]

/-- A start byte on a hunting receiver, then a length that fits (R191). -/
theorem receiveAll_start {s : State} (hw : s.works = true) {l : Link} (hr : (s.link l).receiver = .hunting) {n : Byte}
    (hn : n.toNat ≤ 120) (rest : List Byte) :
    receiveAll l (0xA5 :: n :: rest) s = receiveAll l rest (setReceiver l (.inside [n]) s) := by
  rw [receiveAll_cons hw, receiveByte_hunting hr, if_pos rfl, receiveAll_cons (by simpa using hw), receiveByte_inside,
    List.nil_append, collected_more hn (by rw [List.length_nil]; omega)]

/-- The whole of a frame's bytes after the start byte, with any two bytes for the check (R191, R192). -/
theorem receiveAll_whole {s : State} (hw : s.works = true) {l : Link} (hr : (s.link l).receiver = .hunting)
    (type tag x y : Byte) {body : List Byte} (hb : body.length ≤ 120) :
    receiveAll l (0xA5 :: byte body.length :: type :: tag :: (body ++ [x, y])) s =
      .next (if [x, y] = checkBytes (byte body.length :: type :: tag :: body) then handOn l type tag body s else s) := by
  have hn : (byte body.length).toNat = body.length := by simp; omega
  have hlen : (type :: tag :: body ++ [x]).length = body.length + 3 := by simp
  have hall : type :: tag :: (body ++ [x, y]) = (type :: tag :: body ++ [x]) ++ [y] := by simp
  rw [receiveAll_start hw hr (by omega), hall, receiveAll_inside hw (by omega) _ _ _ (by
    rw [hlen, List.length_nil]; omega), receiveAll_cons (by simpa using hw), receiveByte_inside, receiveAll]
  congr 1
  have hends : ((byte body.length :: ([] ++ (type :: tag :: body ++ [x]))) ++ [y]) =
      (byte body.length :: type :: tag :: body) ++ [x, y] := by simp
  have hall' : ((byte body.length :: type :: tag :: body) ++ [x, y]).length = body.length + 5 := by simp
  have hfits : ¬ Config.maxBody < (byte body.length).toNat := by rw [show Config.maxBody = 120 from rfl]; omega
  have htake : ((byte body.length :: type :: tag :: body) ++ [x, y]).take (body.length + 5 - 2) =
      byte body.length :: type :: tag :: body := List.take_left' (by simp)
  have hdrop : ((byte body.length :: type :: tag :: body) ++ [x, y]).drop (body.length + 5 - 2) = [x, y] :=
    List.drop_left' (by simp)
  rw [hends]
  show collected l (byte body.length :: (type :: tag :: body ++ [x, y])) _ = _
  simp only [collected, hfits, if_false]
  rw [if_pos (by rw [hn]; simp)]
  show frameEnds l ((byte body.length :: type :: tag :: body) ++ [x, y]) _ = _
  simp only [frameEnds, hall', htake, hdrop, setReceiver_setReceiver, setReceiver_same hr]

/-! ### The field conventions -/

/-- Eight bytes of an area set, one byte after the other (R206). -/
theorem foldr_bytes_getLsbD (bytes : List Byte) (i : Nat) :
    (bytes.foldr (fun (b : Byte) acc => b.toNat + 256 * acc) 0).testBit i = (bytes.getD (i / 8) 0).getLsbD (i % 8) := by
  induction bytes generalizing i with
  | nil => simp
  | cons b rest ih =>
    have hb : b.toNat < 2 ^ 8 := b.isLt
    have hcons : (b :: rest).foldr (fun (b : Byte) acc => b.toNat + 256 * acc) 0 =
        2 ^ 8 * rest.foldr (fun (b : Byte) acc => b.toNat + 256 * acc) 0 + b.toNat := Nat.add_comm _ _
    rw [hcons, Nat.testBit_two_pow_mul_add _ hb]
    by_cases hi : i < 8
    · rw [if_pos hi, Nat.div_eq_of_lt hi, Nat.mod_eq_of_lt hi]
      rfl
    · rw [if_neg hi, ih, show i / 8 = (i - 8) / 8 + 1 by omega, show i % 8 = (i - 8) % 8 by omega]
      rfl

theorem inSet_areaSetOf (bytes : List Byte) (a : Area) :
    inSet (areaSetOf bytes) a = (bytes.getD (a.val / 8) 0).getLsbD (a.val % 8) := by
  rw [inSet, areaSetOf, BitVec.getLsbD_ofNat, foldr_bytes_getLsbD]
  simp [a.isLt]

/-- Settles O53: the bytes up to the last are collected, and the last hands the frame on by its type. -/
theorem frameReceived : Obligations.FrameReceived := by
  refine ⟨⟨fun len n => ⟨be_length len n, num_be len n⟩, rfl, fun body x => ?_, fun set => ⟨rfl, areaSetOf_bytes set⟩,
    fun bytes a _ => inSet_areaSetOf bytes a⟩, fun s l type tag body hb hrun hr => ?_⟩
  · rw [num_append]
    simp [num, Nat.mul_comm]
  · have hw : s.works = true := by simp [State.works, hrun]
    have hwhole := receiveAll_whole hw hr type tag (byte (checkSums (byte body.length :: type :: tag :: body) 0 0).1)
      (byte (checkSums (byte body.length :: type :: tag :: body) 0 0).2) hb
    rw [if_pos (by rfl)] at hwhole
    rw [exec_frameCommand, ← handOn_eq, ← hwhole]
    rfl

/-- Settles O54. -/
theorem damagedFrameDropped : Obligations.DamagedFrameDropped := by
  refine ⟨fun s l hw hr => ⟨fun type tag x y body hb hne => ?_, fun n hn => ?_, fun b hb => ?_, ?_⟩, fun s l hw => ?_⟩
  · rw [receiveAll_whole hw hr type tag x y hb, if_neg hne]
  · rw [receiveAll_cons hw, receiveByte_hunting hr, if_pos rfl, receiveAll_cons (by simpa using hw), receiveByte_inside,
      receiveAll, List.nil_append]
    have hlong : Config.maxBody < n.toNat := hn
    simp only [collected, hlong, if_true, setReceiver_setReceiver, setReceiver_same hr]
  · rw [exec_byte hw, receiveByte_hunting hr, if_neg hb]
  · rw [exec_byte hw, receiveByte_hunting hr, if_pos rfl]
    rfl
  · exact ⟨congrArg _ (whileWorking_of_works hw), congrArg _ (whileWorking_of_works hw)⟩

end Sys2Proof.Machine
end

section
/-! PROOFS. Bodies that do not read (O55), fifth frames (O56) and the silence timer (O58). -/

namespace Sys2Proof.Machine

/-! ### Codes and numbers out of range -/

theorem tagOf_eq_none {n : Nat} (h : 1023 < n) : tagOf n = none := dif_neg (by omega)
theorem areaOf_eq_none {n : Nat} (h : 63 < n) : areaOf n = none := dif_neg (by omega)
theorem opOf_eq_none {n : Nat} (h : 63 < n) : opOf n = none := dif_neg (by omega)

theorem desk_ofCode_eq_none {n : Nat} (h : 5 < n) : Desk.ofCode n = none := by
  obtain ⟨m, rfl⟩ := Nat.exists_eq_add_of_le' h; rfl

theorem target_ofCode_eq_none {n : Nat} (h : 6 < n) : Target.ofCode n = none := by
  rw [Target.ofCode, if_neg (by omega), desk_ofCode_eq_none (by omega)]; rfl

theorem role_ofCode_eq_none {n : Nat} (h : 3 < n) : Role.ofCode n = none := by
  obtain ⟨m, rfl⟩ := Nat.exists_eq_add_of_le' h; rfl

theorem yesNoOf_eq_none {n : Nat} (h : 1 < n) : yesNoOf n = none := by
  obtain ⟨m, rfl⟩ := Nat.exists_eq_add_of_le' h; rfl

theorem markMode_ofCode_eq_none {n : Nat} (h : 1 < n) : MarkMode.ofCode n = none := by
  obtain ⟨m, rfl⟩ := Nat.exists_eq_add_of_le' h; rfl

theorem clearMode_ofCode_eq_none {n : Nat} (h : 1 < n) : ClearMode.ofCode n = none := by
  obtain ⟨m, rfl⟩ := Nat.exists_eq_add_of_le' h; rfl

theorem deskOrNone_eq_none {n : Nat} (h : 5 < n) (h' : n ≠ 255) : deskOrNone n = none := by
  rw [deskOrNone, if_neg h', desk_ofCode_eq_none h]; rfl

theorem optField_eq_none {n : Nat} (h : 1 < n) (v : Nat) : optField n v = none := by
  rw [optField, yesNoOf_eq_none h]

theorem slice_drop (body : List Byte) (m off len : Nat) : slice (body.drop m) off len = slice body (m + off) len := by
  rw [slice, slice, List.drop_drop]

theorem field_drop (body : List Byte) (m off len : Nat) : field (body.drop m) off len = field body (m + off) len := by
  rw [field, field, slice_drop]

/-- A byte of a body, read as a number. -/
theorem field_one {body : List Byte} {off : Nat} (h : off < body.length) : field body off 1 = body[off].toNat := by
  rw [field, slice, List.drop_eq_getElem_cons h, List.take_succ_cons, List.take_zero]
  exact Nat.zero_add _

/-! ### Bodies that do not read -/

theorem readNothing_bad {body : List Byte} (h : body.length ≠ 0) : readNothing body = none := if_neg h

theorem readTag_bad {body : List Byte} (h : body.length ≠ 2 ∨ 1023 < field body 0 2) : readTag body = none := by
  rw [readTag]
  split
  · exact tagOf_eq_none (h.resolve_left (not_not_intro ‹_›))
  · rfl

theorem readDesk_bad {body : List Byte} (h : body.length ≠ 1 ∨ 5 < field body 0 1) : readDesk body = none := by
  rw [readDesk]
  split
  · exact desk_ofCode_eq_none (h.resolve_left (not_not_intro ‹_›))
  · rfl

theorem readIndex_bad {body : List Byte} (h : body.length ≠ 1 ∨ 63 < field body 0 1) : readIndex body = none := by
  rw [readIndex]
  split
  · exact opOf_eq_none (h.resolve_left (not_not_intro ‹_›))
  · rfl

theorem readDeskTag_bad {body : List Byte} (h : body.length ≠ 3 ∨ 5 < field body 0 1 ∨ 1023 < field body 1 2) :
    readDeskTag body = none := by
  rw [readDeskTag]
  split
  · obtain h | h := h.resolve_left (not_not_intro ‹_›)
    · rw [desk_ofCode_eq_none h]
    · rw [tagOf_eq_none h]
      cases Desk.ofCode _ <;> rfl
  · rfl

theorem readShelve_bad {body : List Byte} (h : body.length ≠ 5 ∨ 5 < field body 0 1 ∨ 1023 < field body 1 2) :
    readShelve body = none := by
  rw [readShelve]
  split
  · obtain h | h := h.resolve_left (not_not_intro ‹_›)
    · rw [desk_ofCode_eq_none h]
    · rw [tagOf_eq_none h]
      cases Desk.ofCode _ <;> rfl
  · rfl

theorem readSetPoint_bad {body : List Byte} (h : body.length ≠ 6 ∨ 1023 < field body 0 2 ∨ 63 < field body 2 1 ∨
    field body 3 1 = 0 ∨ 4 < field body 3 1 ∨ 1 < field body 5 1) : readSetPoint body = none := by
  rw [readSetPoint]
  split
  · have h' := h.resolve_left (not_not_intro ‹_›)
    split
    · rename_i t a sh ht ha hsh
      refine if_neg fun hb => ?_
      obtain h | h | h | h | h := h'
      · rw [tagOf_eq_none h] at ht; cases ht
      · rw [areaOf_eq_none h] at ha; cases ha
      · omega
      · omega
      · rw [yesNoOf_eq_none h] at hsh; cases hsh
    · rfl
  · rfl

theorem readAssignArea_bad {body : List Byte} (h : body.length ≠ 2 ∨ 63 < field body 0 1 ∨
    5 < field body 1 1 ∧ field body 1 1 ≠ 255) : readAssignArea body = none := by
  rw [readAssignArea]
  split
  · obtain h | ⟨h, h'⟩ := h.resolve_left (not_not_intro ‹_›)
    · rw [areaOf_eq_none h]
    · rw [deskOrNone_eq_none h h']
      cases areaOf _ <;> rfl
  · rfl

theorem readTimeMark_bad {body : List Byte} (h : body.length ≠ 5 ∨ 86400 ≤ field body 2 3) : readTimeMark body = none :=
  if_neg fun ⟨h1, h2⟩ => h.elim (· h1) (by omega)

theorem readSetDesk_bad {body : List Byte} (h : body.length ≠ 13 ∨ 5 < field body 0 1 ∨ 1 < field body 1 1 ∨
    1 < field body 2 1 ∨ 7 < field body 11 1) : readSetDesk body = none := by
  rw [readSetDesk]
  split
  · rename_i hlen
    obtain ⟨hlen, htone⟩ := hlen
    split
    · rename_i d serv sup hd hserv hsup
      obtain h | h | h | h := h.resolve_left (not_not_intro hlen)
      · rw [desk_ofCode_eq_none h] at hd; cases hd
      · rw [yesNoOf_eq_none h] at hserv; cases hserv
      · rw [yesNoOf_eq_none h] at hsup; cases hsup
      · omega
    · rfl
  · rfl

theorem readLimits_bad {body : List Byte} (h : body.length ≠ 7) : readLimits body = none := if_neg h

theorem readFlash_bad {body : List Byte} (h : body.length ≠ 4) : readFlash body = none := if_neg h

theorem readAttnClear_bad {body : List Byte} (h : body.length ≠ 1) : readAttnClear body = none := if_neg h

theorem readJournalRead_bad {body : List Byte} (h : body.length ≠ 5) : readJournalRead body = none := if_neg h

theorem readAttnControl_bad {body : List Byte} (h : body.length ≠ 3 ∨ 1 < field body 1 1 ∨ 1 < field body 2 1) :
    readAttnControl body = none := by
  rw [readAttnControl]
  split
  · obtain h | h := h.resolve_left (not_not_intro ‹_›)
    · rw [yesNoOf_eq_none h]
    · rw [clearMode_ofCode_eq_none h]
      cases yesNoOf _ <;> rfl
  · rfl

theorem readListRead_bad {body : List Byte} (h : body.length ≠ 4 ∨ 6 < field body 0 1) : readListRead body = none := by
  rw [readListRead]
  split
  · rw [target_ofCode_eq_none (h.resolve_left (not_not_intro ‹_›))]; rfl
  · rfl

theorem readDeskRead_bad {body : List Byte} (h : body.length ≠ 2 ∨ 5 < field body 0 1 ∨ 1 < field body 1 1) :
    readDeskRead body = none := by
  rw [readDeskRead]
  split
  · obtain h | h := h.resolve_left (not_not_intro ‹_›)
    · rw [desk_ofCode_eq_none h]
    · rw [yesNoOf_eq_none h]
      cases Desk.ofCode _ <;> rfl
  · rfl

/-- The starts of a SET_SCHEDULE (R204). -/
theorem starts_getElem {body : List Byte} {n j : Nat} (hj : j < n) (hn : n ≤ 4) :
    (([field body 1 3, field body 4 3, field body 7 3, field body 10 3]).take n)[j]? = some (field body (1 + 3 * j) 3) := by
  rw [List.getElem?_take_of_lt hj]
  have : j < 4 := by omega
  interval_cases j <;> rfl

theorem readSchedule_bad {body : List Byte} (h : body.length ≠ 15 ∨ field body 0 1 = 0 ∨ 4 < field body 0 1 ∨
    (∃ j, j < field body 0 1 ∧ 86400 ≤ field body (1 + 3 * j) 3) ∨
    (∃ j, j + 1 < field body 0 1 ∧ field body (4 + 3 * j) 3 ≤ field body (1 + 3 * j) 3) ∨ 1 < field body 13 1 ∨
    1 < field body 14 1) : readSchedule body = none := by
  rw [readSchedule]
  split
  · rename_i hlen
    obtain ⟨hlen, hn⟩ := hlen
    have h' := h.resolve_left (not_not_intro hlen)
    dsimp only
    split
    · rename_i m hold hm hhold
      refine if_neg fun hok => ?_
      obtain ⟨h1, -, hlt, hinc⟩ := (scheduleOk_iff _).1 hok
      obtain h | h | ⟨j, hj, h⟩ | ⟨j, hj, h⟩ | h | h := h'
      · rw [h] at h1; exact absurd h1 (by simp)
      · omega
      · exact absurd (hlt _ (List.mem_of_getElem? (starts_getElem hj hn))) (by omega)
      · obtain ⟨hl1, e1⟩ := List.getElem?_eq_some_iff.1 (starts_getElem (body := body) (Nat.lt_of_succ_lt hj) hn)
        obtain ⟨hl2, e2⟩ := List.getElem?_eq_some_iff.1 (starts_getElem (body := body) hj hn)
        have := List.pairwise_iff_getElem.1 hinc j (j + 1) hl1 hl2 (by omega)
        rw [e1, e2, show 1 + 3 * (j + 1) = 4 + 3 * j by ring] at this
        omega
      · rw [markMode_ofCode_eq_none h] at hm; cases hm
      · rw [yesNoOf_eq_none h] at hhold; cases hhold
    · rfl
  · rfl

theorem readDisplayTag_bad {len : Nat} {chars : List Byte} (h : 12 < len ∧ len ≠ 255 ∨
    len ≤ 12 ∧ ∃ j, ∃ h : j < chars.length, j < len ∧ printable chars[j] = false) : readDisplayTag len chars = none := by
  obtain ⟨h, h'⟩ | ⟨hlen, j, hj, hjl, hp⟩ := h
  · rw [readDisplayTag, if_neg h', if_neg (by omega)]
  · rw [readDisplayTag, if_neg (by omega), if_neg]
    rintro ⟨-, hall⟩
    have hmem : chars[j] ∈ chars.take len := List.mem_take_iff_getElem.2 ⟨j, by omega, rfl⟩
    rw [List.all_eq_true.1 hall _ hmem] at hp
    cases hp

theorem readSetOperator_bad {body : List Byte} (h : body.length ≠ 34 ∨ 63 < field body 0 1 ∨ field body 1 3 = 0 ∨
    3 < field body 5 1 ∨ 1 < field body 14 1 ∨ 1 < field body 17 1 ∨
    (field body 14 1 = 1 ∧ field body 17 1 = 1 ∧ field body 18 2 < field body 15 2) ∨ 1 < field body 20 1 ∨
    (12 < field body 21 1 ∧ field body 21 1 ≠ 255) ∨
    (field body 21 1 ≤ 12 ∧ ∃ j, j < field body 21 1 ∧ (field body (22 + j) 1 < 32 ∨ 126 < field body (22 + j) 1))) :
    readSetOperator body = none := by
  rw [readSetOperator]
  split
  · rename_i hlen
    have h' := h.resolve_left (not_not_intro hlen)
    by_cases hop : 63 < field body 0 1
    · rw [opOf_eq_none hop]
    · have hrec : readRecord (body.drop 1) = none := by
        rw [readRecord]
        simp only [field_drop, slice_drop, Nat.reduceAdd]
        split
        · rename_i role vf vu lk dt hrole hvf hvu hlk hdt
          refine if_neg fun ⟨hkey, hwin⟩ => ?_
          obtain h | h | h | h | ⟨hf, hu, h⟩ | h | h | ⟨h, j, hj, hchar⟩ := h'.resolve_left hop
          · exact hkey h
          · rw [role_ofCode_eq_none h] at hrole; cases hrole
          · rw [optField_eq_none h] at hvf; cases hvf
          · rw [optField_eq_none h] at hvu; cases hvu
          · rw [hf] at hvf
            rw [hu] at hvu
            cases hvf
            cases hvu
            simp only [decide_eq_true_eq] at hwin
            omega
          · rw [yesNoOf_eq_none h] at hlk; cases hlk
          · rw [readDisplayTag_bad (.inl h)] at hdt; cases hdt
          · have hin : j < (slice body 22 12).length := by simp [slice]; omega
            rw [readDisplayTag_bad (.inr ⟨h, j, hin, hj, ?_⟩)] at hdt
            · cases hdt
            · rw [field_one (by omega)] at hchar
              have hget : (slice body 22 12)[j] = body[22 + j] := by simp [slice]
              rw [hget, printable, Bool.and_eq_false_iff, decide_eq_false_iff_not, decide_eq_false_iff_not]
              omega
        · rfl
      rw [hrec]
      cases opOf _ <;> rfl
  · rfl

end Sys2Proof.Machine
end

section
/-! PROOFS. Requests that are not carried out (O55), fifth frames (O56) and the silence timer (O58). -/

namespace Sys2Proof.Machine

/-! ### Bodies that do not read, by type -/

theorem served_none {α : Type} {read : Option α} (h : read = none) (serve : α → Serve) (s : State) :
    served read serve s = (s, .badField) := by rw [h]; rfl

/-- A command's body of the wrong length or out of range is answered BAD_FIELD (R193, R208). -/
theorem commandServe_bad {type : Byte} {body : List Byte} (hc : commandType type = true)
    (h : body.length ≠ requestLength type ∨ outOfRange type body) (s : State) :
    commandServe type body s = (s, .badField) := by
  obtain ⟨n, rfl⟩ | h39 := type_cases type
  · fin_cases n
    · exact absurd hc (by decide)
    · exact served_none (readSetPoint_bad h) _ s
    · exact served_none (readTag_bad h) _ s
    · exact served_none (readAssignArea_bad h) _ s
    · exact served_none (readSetOperator_bad h) _ s
    · exact served_none (readIndex_bad h) _ s
    · exact served_none (readDeskTag_bad h) _ s
    · exact served_none (readDesk_bad h) _ s
    · exact served_none (readShelve_bad h) _ s
    · exact served_none (readDeskTag_bad h) _ s
    · exact served_none (readDesk_bad h) _ s
    · exact served_none (readDesk_bad h) _ s
    · exact served_none (readDesk_bad h) _ s
    · exact served_none (readDeskTag_bad h) _ s
    · exact served_none (readTimeMark_bad h) _ s
    · exact served_none (readSchedule_bad h) _ s
    · exact served_none (readSetDesk_bad h) _ s
    · exact served_none (readLimits_bad (h.resolve_right id)) _ s
    · exact served_none (readFlash_bad (h.resolve_right id)) _ s
    · exact served_none (readAttnControl_bad h) _ s
    · exact served_none (readAttnClear_bad (h.resolve_right id)) _ s
    · exact served_none (readNothing_bad (h.resolve_right id)) _ s
    · exact absurd hc (by decide)
    · exact served_none (readNothing_bad (h.resolve_right id)) _ s
    all_goals exact absurd hc (by decide)
  · simp [commandType] at hc; omega

/-- A query's body of the wrong length or out of range is answered BAD_FIELD (R193, R208). -/
theorem queryServe_bad {type : Byte} {body : List Byte} (hq : queryType type = true)
    (h : body.length ≠ requestLength type ∨ outOfRange type body) (l : Link) (s : State) :
    queryServe l type body s = (s, .badField) := by
  obtain ⟨n, rfl⟩ | h39 := type_cases type
  · fin_cases n
    iterate 32 exact absurd hq (by decide)
    · exact served_none (readNothing_bad (h.resolve_right id)) _ s
    · exact served_none (readTag_bad h) _ s
    · exact served_none (readListRead_bad h) _ s
    · exact served_none (readJournalRead_bad (h.resolve_right id)) _ s
    · exact served_none (readDeskRead_bad h) _ s
    · exact served_none (readIndex_bad h) _ s
    · exact served_none (readNothing_bad (h.resolve_right id)) _ s
  · simp [queryType] at hq; omega

/-! ### Frames by type -/

section Frames
variable {s t : State} {l : Link} {type : Byte} {body reply : List Byte} {a : Answer} {status reason : Byte}

theorem frameServe_command (hc : commandType type = true) : frameServe l type body =
    if routingType type then asRoutingCommand l (commandServe type body) else asCommand l (commandServe type body) := by
  have h22 : type ≠ 22 := by rintro rfl; exact absurd hc (by decide)
  simp only [frameServe, h22, hc, if_false, if_true]

theorem frameServe_query (hc : commandType type = false) (h22 : type ≠ 22) :
    frameServe l type body = asQuery l (queryServe l type body) := by
  have hr : routingType type = false := by
    rw [routingType, decide_eq_false_iff_not]
    intro hm
    simp only [List.mem_cons, List.not_mem_nil, or_false] at hm
    obtain rfl | rfl | rfl | rfl := hm <;> exact absurd hc (by decide)
  simp only [frameServe, hr, h22, hc, Bool.false_eq_true, if_false]

/-- A command on the latched command link, whatever its type (R193, R195). -/
theorem takeFrame_commandServe (h : s.commands l) (hc : commandType type = true) (tag : Byte)
    (hs : commandServe type body (s.listening l) = (t, a)) (hp : t.phase = s.phase)
    (ha : a.body = status :: reason :: reply) :
    takeFrame l type tag (frameServe l type body) s =
      (if routingType type then reroute s t else t).replies l type tag status reason reply := by
  rw [frameServe_command hc]
  split
  · exact takeFrame_routing h type tag _ hs (by simp [(reroute_quiet s t).phase, hp, h.1.1]) ha
  · exact takeFrame_command h type tag _ hs (by simp [hp, h.1.1]) ha

/-- A command that leaves the state it is served in. -/
theorem takeFrame_commandServe_same (h : s.commands l) (hc : commandType type = true) (tag : Byte)
    (hs : commandServe type body (s.listening l) = (s.listening l, a)) (ha : a.body = status :: reason :: reply) :
    takeFrame l type tag (frameServe l type body) s = (s.listening l).replies l type tag status reason reply := by
  rw [takeFrame_commandServe h hc tag hs (listening_phase l s) ha,
    reroute_eq (after := s.listening l) fun x => (listening_target l s x).symm, ite_self]

/-- A query, whatever its type (R193). -/
theorem takeFrame_queryServe (h : s.answers l) (hc : commandType type = false) (h22 : type ≠ 22) (tag : Byte)
    (hs : queryServe l type body (s.listening l) = (t, a)) (hp : t.phase = s.phase)
    (ha : a.body = status :: reason :: reply) :
    takeFrame l type tag (frameServe l type body) s = t.replies l type tag status reason reply := by
  rw [frameServe_query hc h22]
  exact takeFrame_query h.1 h.2 type tag _ hs (by simp [hp, h.1.1]) ha

end Frames

theorem State.commands.answers {s : State} {l : Link} (h : s.commands l) : s.answers l := by
  obtain ⟨hcan, e, he⟩ := h
  exact ⟨hcan, fun lostAt => by rw [he]; exact fun h => by cases h⟩

theorem query_not_command {type : Byte} (h : queryType type = true) : commandType type = false ∧ type ≠ 22 := by
  simp only [queryType, Bool.and_eq_true, decide_eq_true_eq] at h
  refine ⟨?_, ?_⟩
  · simp [commandType]; omega
  · rintro rfl; exact absurd h.1 (by decide)

/-- TAKE_COMMAND's body of the wrong length (R195, R196). -/
theorem takeFrame_takeCommand_bad {s : State} {l : Link} (h : s.commands l) (tag : Byte) {body : List Byte}
    (hb : body.length ≠ 0) :
    takeFrame l 22 tag (serveTakeCommand l body) s = (s.listening l).replies l 22 tag 2 0 [] := by
  obtain ⟨hcan, e, he⟩ := h
  rw [takeFrame_eq hcan]
  refine handle_eq l 22 tag _ _ (a := .badField) ?_ (by simp [hcan.1]) rfl
  have hne : ∀ e', (takeOpportunity l (setReceiver l .hunting s)).command ≠ .lost l e' := by simp [he]
  simp only [serveTakeCommand, latch, State.commandLink, takeOpportunity_command, setReceiver_command, he, if_true,
    reroute_heard hne, served_none (readNothing_bad hb)]
  rfl

/-- Off the command link no command is carried out, whatever its body (R193, R195; log 30). -/
theorem takeFrame_elsewhere {s : State} {l c : Link} (h : s.canTake l) (hc : s.commandLink = some c) (hne : c ≠ l)
    {type : Byte} (hcom : commandType type = true) (tag : Byte) (body : List Byte) :
    takeFrame l type tag (frameServe l type body) s = (s.listening l).replies l type tag 3 0 [] := by
  rw [frameServe_command hcom, ← takeFrame_notCommandLink h hc hne type tag (commandServe type body)]
  have hlatch : latch l (takeOpportunity l (setReceiver l .hunting s)) = none := by
    have hc' : (takeOpportunity l (setReceiver l .hunting s)).commandLink = some c := hc
    simp only [latch, hc', hne, if_false]
  split
  · rw [takeFrame_eq h, takeFrame_eq h]
    simp only [handle, asRoutingCommand, asCommand, hlatch]
  · rfl

/-- Settles O55. -/
theorem badRequestsAnswered : Obligations.BadRequestsAnswered := by
  have hcommand : ∀ {s l type tag body}, s.commands l → commandType type = true →
      (body.length ≠ requestLength type ∨ outOfRange type body) →
      exec (frameCommand l type tag body) s = .next ((s.listening l).replies l type tag 2 0 []) :=
    fun h hc hb => by
      rw [exec_frameCommand, takeFrame_commandServe_same h hc _ (commandServe_bad hc hb _) rfl]
  have hquery : ∀ {s l type tag body}, s.answers l → queryType type = true →
      (body.length ≠ requestLength type ∨ outOfRange type body) →
      exec (frameCommand l type tag body) s = .next ((s.listening l).replies l type tag 2 0 []) :=
    fun {s l type tag body} h hq hb => by
      obtain ⟨hc, h22⟩ := query_not_command hq
      rw [exec_frameCommand, takeFrame_queryServe h hc h22 tag (queryServe_bad hq hb l _) (listening_phase l s) rfl]
  refine ⟨fun s l type tag body => ⟨fun h hc hb => ?_, fun h hq hb => hquery h hq (.inl hb), fun h => ?_, fun h => ?_⟩,
    fun s l c type tag body h hc hne hcom => ?_, fun s l type tag body _ hb =>
    ⟨fun h hc => hcommand h hc (.inr hb), fun h hq => hquery h hq (.inr hb)⟩⟩
  · obtain hc | rfl := hc
    · exact hcommand h hc (.inl hb)
    · rw [exec_frameCommand]
      exact congrArg _ (takeFrame_takeCommand_bad h tag hb)
  · exact congrArg _ (takeFrame_query (t := s.listening l) h.1 h.2 type tag _ rfl (by simp [h.1.1]) rfl)
  · simp only [frameCommand]
    split
    case h_31 => rfl
    all_goals rename_i e; simp [acceptedType, e] at h
  · rw [exec_frameCommand, takeFrame_elsewhere h hc hne hcom]

/-- Outside LOCAL or on the other link a frame is served in the state `State.listening` gives. -/
theorem listening_lost {s : State} {l : Link} {lostAt : Word32} (h : s.command = .lost l lostAt) :
    s.listening l = takeOpportunity l (setReceiver l .hunting s) := by
  simp only [State.listening, State.timerRestarted, takeOpportunity_command, setReceiver_command, h]

/-- Hearing a frame on the link of LOCAL, from the state in which it is served (R197). -/
theorem heard_listening {s : State} {l : Link} {lostAt : Word32} (h : s.command = .lost l lostAt) :
    heard l (s.listening l) = enter { kind := .linkBack, d1 := some l.code
                                      d2 := some (min 65535 (s.runSeconds - lostAt).toNat) }
      { s.listening l with command := .latched l (s.runSeconds + BitVec.ofNat 32 s.limits.silenceTime) } := by
  have hcom : (s.listening l).command = .lost l lostAt := by rw [listening_lost h]; exact h
  rw [← listening_runSeconds l s, ← listening_limits l s]
  exact heard_lost hcom

/-- Settles O56: the four cases of a frame that is not taken. -/
theorem fifthFrame : Obligations.FifthFrame := by
  intro s l type tag body
  simp only [exec_frameCommand]
  refine ⟨fun hrun h4 => ⟨fun hb => ⟨fun hne => ?_, fun lostAt hlost => ?_⟩, fun hb => ?_⟩, fun hidle => ?_⟩
  · rw [takeFrame_fifth hrun h4 hb, reroute_heard (by simpa using hne)]
    rfl
  · rw [takeFrame_fifth hrun h4 hb, ← listening_lost hlost, heard_listening hlost]
  · have h1 : ((setReceiver l .hunting s).link l).taken = (s.link l).taken := by
      simp [SupLink.taken, SupLink.unsent]
    have h2 : ((setReceiver l .hunting s).link l).busyUnsent = true := by
      rw [busyUnsent_eq]; simpa [SupLink.busyCount, SupLink.unsent] using hb
    have h3 : ¬ (s.link l).taken < Config.linkDepth := by simp only [Config.linkDepth]; omega
    simp only [takeFrame, hrun, if_true, h1, h3, if_false, h2]
    rfl
  · rw [takeFrame_idle hidle]

/-- Settles O58. -/
theorem linkLostAndBack : Obligations.LinkLostAndBack := by
  refine fun s l => ⟨fun hw expiry hcom hnow => ?_, fun lostAt tag hcan hlost => ?_⟩
  · refine congrArg Host.Outcome.next ((whileWorking_of_works hw).trans ?_)
    have hreached : reached expiry s.runSeconds = true := by rw [hnow]; simp [reached]
    simp only [linkLost, hcom, hreached, if_true]
  · refine congrArg Host.Outcome.next ?_
    rw [takeTimeRead, takeFrame_eq hcan]
    refine handle_eq l 38 tag _ _ (a := .ok _) ?_ ?_ rfl
    · simp only [asQuery, ← listening_lost hlost, heard_listening hlost]
      rfl
    · simp [(reroute_quiet _ _).phase, hcan.1]

end Sys2Proof.Machine
end

section
/-! PROOFS. What a link sends (O48) and the resets (O59). -/

namespace Sys2Proof.Machine

/-! ### Opportunities to send -/

section Opportunity
variable {s : State} {l : Link}

theorem takeOpportunity_sending {f : OutFrame} (h : (s.link l).sending = some f) : takeOpportunity l s = s := by
  simp only [takeOpportunity, SupLink.opportunity, h, Option.isSome_some, if_true]
  cases l <;> rfl

theorem takeOpportunity_notice (h : (s.link l).sending = none) (hn : (s.link l).notice = true) (hc : s.noticeClasses ≠ 0) :
    takeOpportunity l s = s.putLink l { s.link l with
      notice := false, sending := some { role := .attention, type := 241, tag := 0, body := [s.noticeClasses] } } := by
  simp only [takeOpportunity, SupLink.opportunity, h, Option.isSome_none, Bool.false_eq_true, if_false, hn, if_true, hc,
    ne_eq, not_false_eq_true]
  rfl

theorem startWaiting_eq {v : SupLink} (h : v.sending = none) :
    v.startWaiting = { v with sending := v.waiting.head?, waiting := v.waiting.tail } := by
  obtain ⟨receiver, sending, waiting, notice⟩ := v
  dsimp only at h
  subst h
  cases waiting <;> rfl

theorem takeOpportunity_waiting (h : (s.link l).sending = none) (hn : (s.link l).notice = false ∨ s.noticeClasses = 0) :
    takeOpportunity l s = s.putLink l { s.link l with
      notice := false, sending := (s.link l).waiting.head?, waiting := (s.link l).waiting.tail } := by
  simp only [takeOpportunity, SupLink.opportunity, h, Option.isSome_none, Bool.false_eq_true, if_false]
  by_cases hnotice : (s.link l).notice = true
  · have hz := hn.resolve_left (by simp [hnotice])
    simp only [hnotice, hz, ne_eq, not_true, if_true, if_false]
    exact congrArg (s.putLink l) (startWaiting_eq rfl)
  · rw [if_neg hnotice, startWaiting_eq h]
    have hf : (s.link l).notice = false := by simpa using hnotice
    rw [← hf]

end Opportunity

theorem putLink_putLink (s : State) (l : Link) (v w : SupLink) : (s.putLink l v).putLink l w = s.putLink l w := by
  cases l <;> rfl

/-- Settles O48. -/
theorem linkSends : Obligations.LinkSends := by
  refine ⟨fun s l hw => ?_, fun s l f hw hf hrole => ?_, fun s l => ⟨fun f hf => ?_, fun h => ?_, ?_, fun f hf =>
    takeOpportunity_sending hf, fun h => ⟨takeOpportunity_notice h, takeOpportunity_waiting h⟩⟩⟩
  · have hexec : exec (.attention l) s = .next (attention l s) := congrArg _ (whileWorking_of_works hw)
    rw [hexec]
    refine ⟨fun hn hs => ⟨fun hc => ?_, fun hc hwait => ?_⟩, fun h => ?_⟩
    · simp only [attention, hn, hs, Option.isNone_none, Bool.and_self, if_true]
      rw [takeOpportunity_notice hs hn hc]
    · simp only [attention, hn, hs, Option.isNone_none, Bool.and_self, if_true]
      rw [takeOpportunity_waiting hs (.inr hc), hwait, List.head?_nil, List.tail_nil, ← hs, ← hwait]
    · have hidle : ((s.link l).notice && (s.link l).sending.isNone) = false := by
        obtain h | h := h
        · simp [h]
        · simp [Option.isNone_eq_false_iff, Option.isSome_iff_ne_none, h]
      simp only [attention, hidle, Bool.false_eq_true, if_false]
  · have hexec : exec (.frameSendComplete l) s =
        .next (takeOpportunity l (s.putLink l { s.link l with sending := none })) := by
      refine congrArg Host.Outcome.next ((whileWorking_of_works hw).trans ?_)
      simp only [frameSendComplete, hf, hrole, if_false]
    have hlink : (s.putLink l { s.link l with sending := none }).link l = { s.link l with sending := none } :=
      State.link_putLink_self _ _ _
    have hclasses : (s.putLink l { s.link l with sending := none }).noticeClasses = s.noticeClasses := rfl
    have hput : ∀ w, (s.putLink l { s.link l with sending := none }).putLink l w = s.putLink l w := putLink_putLink s l _
    rw [hexec]
    generalize s.putLink l { s.link l with sending := none } = v at *
    have hnone : (v.link l).sending = none := by rw [hlink]
    refine ⟨fun hn hc => ?_, fun h => ?_⟩
    · rw [takeOpportunity_notice hnone (by rw [hlink]; exact hn) (by rw [hclasses]; exact hc), hlink, hput, hclasses]
    · rw [takeOpportunity_waiting hnone (by rw [hlink, hclasses]; exact h), hlink, hput]
  · simp only [State.onWire, hf, OutFrame.bytes, frameBytes, checkBytes, checkSums_eq_foldl]
    rfl
  · simp only [State.onWire, h]
  · simp only [State.noticeClasses, Attention.enabled]
    split <;> simp

/-! ### Resets -/

/-- What a reset leaves, in full (R198, R201). -/
theorem resetTo_eq (ph : Phase) (s : State) : resetTo ph s = { State.reset with
    phase := ph
    resetInput := s.resetInput
    desks := PerDesk.of (fun d => { State.reset.unit d with
      slotA := { Slot.atReset with pins := (s.slot d .a).pins }
      slotB := { Slot.atReset with pins := (s.slot d .b).pins } })
    image := (match s.store with
      | .writing _ => none
      | .valid | .invalid => s.image)
    pending := s.pending } := by
  have hdesk : (fun d => keepPins (State.reset.unit d) (s.unit d)) = fun d => { State.reset.unit d with
      slotA := { Slot.atReset with pins := (s.slot d .a).pins }
      slotB := { Slot.atReset with pins := (s.slot d .b).pins } } := by
    funext d
    cases d <;> rfl
  rw [resetTo, hdesk] <;> cases s.store <;> rfl

/-- Settles O59. -/
theorem resets : Obligations.Resets := by
  intro s afterReset
  have hreset : ∀ ph, resetTo ph s = afterReset ph := fun ph => resetTo_eq ph s
  refine ⟨fun l tag hcom => ?_, fun l f hw hf hrole => ?_, fun hin => ?_, fun hin => ?_, ?_, fun hw => ?_, fun c hc => ?_,
    fun c hc => ?_, fun c hc => ?_, fun hne => ?_⟩
  · obtain ⟨hcan, e, he⟩ := hcom
    have hne : ∀ e', (takeOpportunity l (setReceiver l .hunting s)).command ≠ .lost l e' := by simp [he]
    refine congrArg Host.Outcome.next ?_
    rw [takeReset, takeFrame_eq hcan]
    simp only [handle, asCommand, latch, State.commandLink, takeOpportunity_command, setReceiver_command, he, if_true,
      reroute_heard hne]
    show answer l (if Phase.closing = Phase.closing then _ else _) 23 tag (.ok []) { s.listening l with phase := .closing } = _
    rw [if_pos rfl]
    simp only [answer, SupLink.offer, State.sends, replyFrame]
    generalize ({ s.listening l with phase := .closing } : State) = t
    cases (t.link l).sending <;> rfl
  · refine congrArg Host.Outcome.next ((whileWorking_of_works hw).trans ?_)
    simp only [frameSendComplete, hf, hrole, if_true, hreset]
  · refine congrArg Host.Outcome.next ?_
    simp only [powerOn, hin, Bool.false_eq_true, if_false, hreset]
  · refine congrArg Host.Outcome.next ?_
    simp only [powerOn, hin, if_true, hreset]
  · refine congrArg Host.Outcome.next ?_
    simp only [resetPin, hreset]
  · refine congrArg Host.Outcome.next ?_
    cases hphase : s.phase with
    | running => simp only [supplyLow, hphase, hreset]
    | closing => simp only [supplyLow, hphase, hreset]
    | hold c => simp [State.works, hphase] at hw
    | inReset c => simp [State.works, hphase] at hw
  · exact congrArg Host.Outcome.next (by simp only [supplyLow, hc])
  · exact congrArg Host.Outcome.next (by simp only [supplyLow, hc])
  · exact congrArg Host.Outcome.next (by simp only [resetEnd, hc])
  · refine congrArg Host.Outcome.next ?_
    cases hphase : s.phase with
    | inReset c => exact absurd hphase (hne c)
    | _ => simp only [resetEnd, hphase]

end Sys2Proof.Machine
end

section
/-! PROOFS. The flash cycle, the lamps and the horn (O39, O40, O41). -/

namespace Sys2Proof.Machine

/-! ### The cycle -/

section Cycle
variable {s : State}

theorem exec_flashTick (hw : s.works = true) : exec .flashTick s = .next (flashTick s) :=
  congrArg _ (whileWorking_of_works hw)

theorem exec_cycleStart (hw : s.works = true) (h : s.flash.c ≤ s.position + 1) : exec .cycleStart s = .next (cycleStart s) := by
  refine congrArg Host.Outcome.next ((whileWorking_of_works hw).trans ?_)
  rw [cycleStartEvent, if_pos h]

theorem exec_cycleStart_early (hw : s.works = true) (h : s.position + 1 < s.flash.c) : exec .cycleStart s = .next s := by
  refine congrArg Host.Outcome.next ((whileWorking_of_works hw).trans ?_)
  rw [cycleStartEvent, if_neg (by omega)]

end Cycle

/-! ### Patterns -/

section Patterns
variable {f : Flash} {pos : Nat}

theorem lit_altFirst : Pattern.lit f pos .altFirst = true ↔ f.g ≤ pos ∧ pos < f.da := by simp [Pattern.lit]

theorem lit_altSecond : Pattern.lit f pos .altSecond = true ↔ f.c / 2 + f.g ≤ pos ∧ pos < f.c / 2 + f.da := by
  simp only [Pattern.lit, Bool.and_eq_true, decide_eq_true_eq]
  exact Iff.rfl

/-- The positions that pass a test that only positions of a range pass are no more than the range has. -/
theorem filter_range_length_le {p : Nat → Bool} {a b n : Nat} (h : ∀ q, p q = true → a ≤ q ∧ q < b) :
    ((List.range n).filter p).length ≤ b - a := by
  rw [← List.toFinset_card_of_nodup (List.nodup_range.filter _), ← Nat.card_Ico]
  refine Finset.card_le_card fun q hq => ?_
  rw [List.mem_toFinset, List.mem_filter] at hq
  exact Finset.mem_Ico.2 (h q hq.2)

end Patterns

/-- Settles O39. -/
theorem flashCycle : Obligations.FlashCycle := by
  refine ⟨fun s hw => ⟨fun h => ⟨?_, exec_cycleStart_early hw h⟩, fun h => ⟨?_, ?_⟩⟩, ?_, fun f pos hf => ?_⟩
  · rw [exec_flashTick hw, flashTick, if_neg (by omega)]
  · rw [exec_flashTick hw, exec_cycleStart hw h, flashTick, if_pos h]
  · refine ⟨_, _, exec_cycleStart hw h, fun d => ?_⟩
    rw [PerDesk.get_of]
  · intro table
    have htable : ∀ f pos p, Pattern.lit f pos p = table f pos p := fun f pos p => by
      cases p <;> simp only [Pattern.lit, table, Bool.decide_and]
      rfl
    refine ⟨htable, fun s d => ?_⟩
    simp only [State.lampsLit, List.map_cons, List.map_nil, htable]
  · obtain ⟨hc, -, -, -, hda, hhalf, -⟩ := hf
    simp only [lit_altFirst, lit_altSecond]
    have hfirst : ∀ q, Pattern.lit f q .altFirst = true → 0 ≤ q ∧ q < f.c / 2 := fun q h => by
      rw [lit_altFirst] at h; omega
    have hsecond : ∀ q, Pattern.lit f q .altSecond = true → f.c / 2 ≤ q ∧ q < f.c / 2 + f.c / 2 := fun q h => by
      rw [lit_altSecond] at h; omega
    refine ⟨fun h => by omega, fun h => by omega, ?_, ?_, fun h => by omega, ?_, fun h => ⟨f.g, by omega, by omega, h⟩,
      fun ⟨q, h⟩ => by omega⟩
    · simpa using filter_range_length_le (n := f.c) hfirst
    · simpa using filter_range_length_le (n := f.c) hsecond
    · rw [Bool.eq_iff_iff, lit_altFirst, lit_altSecond]
      omega

/-! ### The lamps -/

def Point.isReturn (p : Point) : Bool :=
  match p.state with
  | .rtnUnack _ => true
  | _ => false

def Point.isAcked (p : Point) : Bool :=
  match p.state with
  | .acked _ => true
  | _ => false

theorem listHolds_eq (s : State) (d : Desk) (kind : Point → Bool) : s.listHolds (.desk d) kind = s.points.any (fun e =>
    e.2.standing.isSome && decide (s.target e.2.area = .desk d) && kind e.2) := rfl

/-- A point stands in a list by its base priority and its state (R44). -/
theorem standing_isSome_eq (p : Point) :
    p.standing.isSome = (decide (p.base ≤ 3) && (p.isUnack || (p.isReturn || p.isAcked))) := by
  simp only [Point.standing, Point.isUnack, Point.isReturn, Point.isAcked]
  split <;> cases p.state <;> simp [*]

/-- Settles O40: a lamp at a time, each list fact spelt over the point table. -/
theorem lampsChosen : Obligations.LampsChosen := by
  intro s t d hw h hexec u holds unack return_ acked bad
  rw [exec_cycleStart hw h] at hexec
  obtain rfl : cycleStart s = t := by injection hexec
  have hlamps : ((cycleStart s).unit d).lamps = chooseLamps s d := by rw [cycleStart_unit]
  have hpoint : ∀ f g : Point → Bool, (∀ p : Point, (p.standing.isSome && f p) = (decide (p.base ≤ 3) && g p)) →
      s.listHolds (.desk d) f = holds g := fun f g hfg => by
    rw [listHolds_eq]
    refine List.any_congr rfl fun e => ?_
    have := hfg e.2
    cases h1 : decide (s.target e.2.area = .desk d) <;> simp [this]
  have hunack : s.hasUnack (.desk d) = unack := hpoint Point.isUnack Point.isUnack fun p => by
    rw [standing_isSome_eq]
    cases p.isUnack <;> simp
  have hreturn : s.hasReturn (.desk d) = return_ := hpoint _ Point.isReturn fun p => by
    simp only [Point.standing, Point.isReturn]
    split <;> cases p.state <;> simp [*]
  have hstanding : s.hasStanding (.desk d) = (unack || (return_ || acked)) := by
    have hany : s.hasStanding (.desk d) = holds fun p => p.isUnack || (p.isReturn || p.isAcked) :=
      hpoint (fun _ => true) (fun p => p.isUnack || (p.isReturn || p.isAcked)) fun p => by
        rw [standing_isSome_eq, Bool.and_true]
    have hor : ∀ f g : Point → Bool, holds (fun p => f p || g p) = (holds f || holds g) := fun f g => by
      rw [Bool.eq_iff_iff]
      simp only [holds, Bool.or_eq_true, List.any_eq_true, Bool.and_eq_true, and_or_left, exists_or]
    rw [hany, hor Point.isUnack fun p => p.isReturn || p.isAcked, hor Point.isReturn Point.isAcked]
    rfl
  have hbad : ∀ k, (u.slot k).state.flashesKey = bad k := fun _ => rfl
  refine ⟨fun hst => ?_, fun hst => ?_⟩
  · rw [hlamps, chooseLamps, show (s.unit d).state = .outOfService from hst]
  · have hchosen : chooseLamps s d = ⟨lampAlarm s d, lampReturn s d, lampHand u, lampKey u, lampLink s⟩ := by
      rw [chooseLamps]
      split
      · exact absurd ‹_› hst
      all_goals rfl
    rw [hlamps, hchosen]
    congr 1
    · rw [lampAlarm, hunack, hstanding]
      cases (s.loadOf (.desk d)).flood <;> cases unack <;> rfl
    · rw [lampReturn, hreturn]
    · rw [lampHand]
      cases u.state <;> rfl

end Sys2Proof.Machine
end

section
/-! PROOFS. The horn at a cycle start (O41). -/

namespace Sys2Proof.Machine

/-! ### The targets in order -/

theorem mem_allTargets (x : Target) : x ∈ allTargets := by
  cases x with
  | room => decide
  | desk d => cases d <;> decide

theorem allTargets_pairwise : allTargets.Pairwise fun z w => z.code ≤ w.code := by decide

/-- How far a target lies behind another in round-robin order (R159). -/
def Target.after (x z : Target) : Nat := (z.code + 7 - x.code) % 7

theorem mem_othersAfter {x y : Target} : y ∈ othersAfter x ↔ y ≠ x := by
  cases x with
  | room => cases y with
    | room => decide
    | desk e => cases e <;> decide
  | desk d => cases y with
    | room => cases d <;> decide
    | desk e => cases d <;> cases e <;> decide

theorem othersAfter_pairwise (x : Target) : (othersAfter x).Pairwise fun z w => x.after z ≤ x.after w := by
  cases x with
  | room => decide
  | desk d => cases d <;> decide

theorem Target.code_inj {x y : Target} (h : x.code = y.code) : x = y := by
  have hx := target_ofCode_code x
  rw [h, target_ofCode_code] at hx
  exact (Option.some.inj hx).symm

/-- In an ordered list the first element with a property lies before every other that has it. -/
theorem le_of_find?_eq_some {α : Type} {r : α → α → Prop} (hr : ∀ a, r a a) {p : α → Bool} {l : List α} {z w : α}
    (hl : l.Pairwise r) (hz : l.find? p = some z) (hw : w ∈ l) (hp : p w = true) : r z w := by
  obtain ⟨-, as, bs, rfl, has⟩ := List.find?_eq_some_iff_append.mp hz
  rcases List.mem_append.mp hw with hw | hw
  · exact absurd hp (by simpa using has w hw)
  · rcases List.mem_cons.mp hw with rfl | hw
    · exact hr _
    · exact List.rel_of_pairwise_cons (List.pairwise_append.mp hl).2.1 hw

/-! ### The owner decided -/

section Owner
variable {s : State} {x z : Target} {count : Nat} {req : PerTarget Bool}

theorem requestsHorn_eq (s : State) (x : Target) : s.requestsHorn x = s.points.any (fun e =>
    decide (e.2.base ≤ 3) && e.2.isUnack && !e.2.silenced && decide (s.target e.2.area = x)) := by
  refine List.any_congr rfl fun e => ?_
  have hstand : (e.2.standing.isSome && e.2.isUnack) = (decide (e.2.base ≤ 3) && e.2.isUnack) := by
    rw [standing_isSome_eq]
    cases e.2.isUnack <;> simp
  calc (e.2.standing.isSome && decide (s.target e.2.area = x) && (e.2.isUnack && !e.2.silenced))
      _ = ((e.2.standing.isSome && e.2.isUnack) && !e.2.silenced && decide (s.target e.2.area = x)) := by
        cases e.2.standing.isSome <;> cases e.2.isUnack <;> simp [Bool.and_comm]
      _ = _ := by rw [hstand]

theorem countUp_some {h : Horn} (ho : h.owner = some x) :
    countUp h = if h.requests.get x then min 15 (h.count + 1) else h.count := by
  rw [countUp, ho]

theorem decideOwner_none (s : State) (count : Nat) (req : PerTarget Bool) :
    decideOwner s none count req = allTargets.find? req.get := rfl

/-- No other requester: the owner keeps the horn. -/
theorem decideOwner_kept (h : ∀ y, y ≠ x → req.get y = false) : decideOwner s (some x) count req = some x := by
  have hnone : (othersAfter x).find? req.get = none :=
    List.find?_eq_none.mpr fun y hy => by simp [h y (mem_othersAfter.mp hy)]
  rw [decideOwner, hnone]

/-- The owner's request stands and its hold is not used up: it keeps the horn. -/
theorem decideOwner_held (hreq : req.get x = true) (hcount : count < s.hornHold x) :
    decideOwner s (some x) count req = some x := by
  rw [decideOwner]
  cases (othersAfter x).find? req.get with
  | none => rfl
  | some u => exact if_pos ⟨hreq, hcount⟩

/-- Another requester takes the horn: the next in round-robin order. -/
theorem decideOwner_passed {y : Target} (hy : y ≠ x) (hreq : req.get y = true)
    (h : req.get x = false ∨ s.hornHold x ≤ count) : ∃ z, z ≠ x ∧ decideOwner s (some x) count req = some z ∧
      req.get z = true ∧ ∀ w, req.get w = true → w ≠ x → x.after z ≤ x.after w := by
  cases hfind : (othersAfter x).find? req.get with
  | none => exact absurd hreq (by simpa using List.find?_eq_none.mp hfind y (mem_othersAfter.mpr hy))
  | some z =>
    refine ⟨z, mem_othersAfter.mp (List.mem_of_find?_eq_some hfind), ?_, List.find?_some hfind, fun w hw hne =>
      le_of_find?_eq_some (r := fun z w => x.after z ≤ x.after w) (fun _ => Nat.le_refl _) (othersAfter_pairwise x) hfind (mem_othersAfter.mpr hne) hw⟩
    rw [decideOwner, hfind]
    refine if_neg ?_
    rintro ⟨hx, hlt⟩
    rcases h with h | h
    · simp [h] at hx
    · omega

theorem code_le_of_find? {w : Target} (h : allTargets.find? req.get = some z) (hw : req.get w = true) :
    z.code ≤ w.code :=
  le_of_find?_eq_some (r := fun z w : Target => z.code ≤ w.code) (fun _ => Nat.le_refl _) allTargets_pairwise h
    (mem_allTargets w) hw

theorem find?_allTargets_iff : allTargets.find? req.get = some z ↔
    req.get z = true ∧ ∀ w, req.get w = true → z.code ≤ w.code := by
  constructor
  · intro h
    exact ⟨List.find?_some h, fun w hw => code_le_of_find? h hw⟩
  · rintro ⟨hz, hmin⟩
    cases hfind : allTargets.find? req.get with
    | none => exact absurd hz (by simpa using List.find?_eq_none.mp hfind z (mem_allTargets z))
    | some y =>
      have hle : y.code ≤ z.code := code_le_of_find? hfind hz
      rw [Target.code_inj (Nat.le_antisymm hle (hmin y (List.find?_some hfind)))]

theorem hornOutput_eq_some_iff {owner : Option Target} {v : Nat} : hornOutput s owner req = some v ↔
    ∃ z, owner = some z ∧ req.get z = true ∧ v = s.hornTone z := by
  cases owner with
  | none => simp [hornOutput]
  | some z =>
    have hout : hornOutput s (some z) req = if req.get z then some (s.hornTone z) else none := rfl
    rw [hout]
    refine ⟨fun h => ?_, ?_⟩
    · split at h
      · exact ⟨z, rfl, ‹_›, (Option.some.inj h).symm⟩
      · cases h
    · rintro ⟨y, hy, hreq, rfl⟩
      cases hy
      exact if_pos hreq

end Owner

/-- Settles O41: the arbiter's owner by the owner before it. -/
theorem hornDecided : Obligations.HornDecided := by
  intro s t hw h hexec
  rw [exec_cycleStart hw h] at hexec
  obtain rfl : cycleStart s = t := by injection hexec
  have hhorn : (cycleStart s).horn = arbitrate s := rfl
  rw [hhorn]
  generalize hreq : PerTarget.of s.requestsHorn = req
  have hrequests : (arbitrate s).requests = req := hreq
  have howner : (arbitrate s).owner = decideOwner s s.horn.owner (countUp s.horn) req := by rw [← hreq]; rfl
  have hcount : (arbitrate s).count = if (arbitrate s).owner = s.horn.owner then countUp s.horn else 0 := rfl
  have houtput : (arbitrate s).output = hornOutput s (arbitrate s).owner req := by rw [← hreq]; rfl
  rw [hcount, houtput, hrequests]
  refine ⟨fun x => ?_, fun x hx => ?_, fun hnone => ?_, fun v => ?_⟩
  · rw [← hreq, PerTarget.get_of, requestsHorn_eq]
  · intro count hold
    have hc : countUp s.horn = count := countUp_some hx
    have hh : s.hornHold x = hold := by cases x <;> rfl
    rw [howner, hx, hc, ← hh]
    refine ⟨fun hothers => ?_, fun hx hlt => ?_, fun y hy hreqy hpass => ?_⟩
    · rw [decideOwner_kept hothers, if_pos rfl]
      exact ⟨rfl, rfl⟩
    · rw [decideOwner_held hx hlt, if_pos rfl]
      exact ⟨rfl, rfl⟩
    · obtain ⟨z, hne, hz, hreqz, hmin⟩ := decideOwner_passed (s := s) (count := count) hy hreqy hpass
      have hzx : some z ≠ some x := fun h => hne (Option.some.inj h)
      rw [hz, if_neg hzx]
      exact ⟨hzx, rfl, z, rfl, hreqz, hmin⟩
  · rw [howner, hnone, decideOwner_none]
    refine ⟨fun z => find?_allTargets_iff, fun hno => List.find?_eq_none.mpr fun z _ => by simp [hno z]⟩
  · rw [hornOutput_eq_some_iff]
    refine exists_congr fun z => ?_
    cases z <;> exact Iff.rfl

end Sys2Proof.Machine
end

section
/-! PROOFS. The order of the attention lists and the minute tick's escalation (O19, O20). -/

namespace Sys2Proof.Machine

/-! ### The order of R45 -/

/-- The order of R45, items equal in all four keys included. -/
def itemLe (now : Word32) (x y : Item) : Prop :=
  x.2.group < y.2.group ∨ (x.2.group = y.2.group ∧
    (x.2.effective < y.2.effective ∨ (x.2.effective = y.2.effective ∧
      (y.2.age now < x.2.age now ∨ (x.2.age now = y.2.age now ∧ x.1 ≤ y.1)))))

theorem itemLe_trans {now : Word32} {x y z : Item} (h : itemLe now x y) (h' : itemLe now y z) : itemLe now x z := by
  simp only [itemLe, Fin.le_def] at *
  omega

theorem itemLe_of_itemBefore {now : Word32} {x y : Item} (h : itemBefore now x y = true) : itemLe now x y := by
  simp only [itemLe, Fin.le_def]
  simp only [itemBefore] at h
  split at h
  · simp only [decide_eq_true_eq] at h; omega
  split at h
  · simp only [decide_eq_true_eq] at h; omega
  split at h
  · simp only [decide_eq_true_eq] at h; omega
  · simp only [decide_eq_true_eq, Fin.lt_def] at h; omega

theorem itemLe_of_not_itemBefore {now : Word32} {x y : Item} (h : itemBefore now x y = false) : itemLe now y x := by
  simp only [itemLe, Fin.le_def]
  simp only [itemBefore] at h
  split at h
  · simp only [decide_eq_false_iff_not] at h; omega
  split at h
  · simp only [decide_eq_false_iff_not] at h; omega
  split at h
  · simp only [decide_eq_false_iff_not] at h; omega
  · simp only [decide_eq_false_iff_not, Fin.lt_def] at h; omega

theorem insertItem_pairwise {now : Word32} {x : Item} {l : List Item} (h : l.Pairwise (itemLe now)) :
    (insertItem (itemBefore now) x l).Pairwise (itemLe now) := by
  induction l with
  | nil => exact List.pairwise_singleton _ _
  | cons y rest ih =>
    obtain ⟨hy, hrest⟩ := List.pairwise_cons.mp h
    simp only [insertItem]
    split
    · next hyx =>
      refine List.pairwise_cons.mpr ⟨fun e he => ?_, ih hrest⟩
      rcases mem_insertItem.mp he with rfl | he
      · exact itemLe_of_itemBefore hyx
      · exact hy e he
    · next hyx =>
      have hxy := itemLe_of_not_itemBefore (Bool.eq_false_iff.mpr hyx)
      exact List.pairwise_cons.mpr ⟨List.forall_mem_cons.mpr ⟨hxy, fun e he => itemLe_trans hxy (hy e he)⟩, h⟩

theorem sortItems_pairwise (now : Word32) (l : List Item) : (sortItems (itemBefore now) l).Pairwise (itemLe now) := by
  induction l with
  | nil => exact .nil
  | cons x rest ih => exact insertItem_pairwise ih

/-- Settles O19: the list is its standing points put in order. -/
theorem attentionListOrdered : Obligations.AttentionListOrdered :=
  fun s _ => ⟨sortItems_perm _ _, sortItems_pairwise s.runSeconds _⟩

/-! ### The minute tick -/

theorem escalate_eq (p : Point) (now : Word32) : p.escalate now =
    if p.base ≤ 3 then
      match p.state with
      | .unack τ | .rtnUnack τ =>
        { p with effective := if p.step = 0 then p.base else max 1 (p.base - (now - τ).toNat / 60 / p.step) }
      | .normal | .acked _ | .shelved _ _ => p
    else p := by
  rw [Point.escalate]
  by_cases hb : p.base ≤ 3
  · rw [if_pos hb]
    cases hst : p.state <;> simp [Point.unacknowledged, Point.escalatedNow, Point.age, escalated, since, hst, hb,
      PointState.activation?]
  · rw [if_neg hb, if_neg fun h => hb h.1]

/-- Settles O20. -/
theorem escalationTick : Obligations.EscalationTick := by
  intro s hw
  have hexec : exec .escalation s = .next (escalation s) := congrArg _ (whileWorking_of_works hw)
  refine ⟨fun h => ?_, fun h => ?_⟩
  · rw [hexec, escalation, if_pos h]
    simp only [escalate_eq] <;> rfl
  · rw [hexec, escalation, if_neg (by simp [h])]

end Sys2Proof.Machine
end

section
/-! PROOFS. What a class set pending and an entry do (O46), and the entries that lie between two states. -/

namespace Sys2Proof.Machine

/-! ### Class flags -/

theorem classFlag_eq (set : ClassSet) (c : AttnClass) : classFlag set c = inClasses set c := by
  cases c <;> rfl

theorem number_lt (c : AttnClass) : c.number < 8 := by cases c <;> decide

theorem number_inj {c x : AttnClass} : x.number = c.number → x = c := by
  cases c <;> cases x <;> decide

theorem classFlag_or_classBit (set : ClassSet) (c x : AttnClass) :
    classFlag (set ||| classBit c) x = (classFlag set x || decide (x = c)) := by
  rw [classFlag_eq, classFlag_eq, inClasses, classBit, BitVec.getLsbD_or, BitVec.getLsbD_twoPow, inClasses]
  congr 1
  by_cases h : x = c
  · simp [h, number_lt c]
  · have hne : c.number ≠ x.number := fun hn => h (number_inj hn.symm)
    simp [h, hne]

theorem classFlag_enabled (a : Attention) (c : AttnClass) :
    classFlag a.enabled c = (a.globalEnable && classFlag a.enables c) := by
  rw [Attention.enabled]
  cases a.globalEnable
  · rw [classFlag_eq, inClasses]
    simp
  · rfl

/-! ### A class set pending, a notice raised -/

@[simp] theorem raiseNotice_link (s : State) (l : Link) : (raiseNotice s).link l = { s.link l with notice := true } := by
  cases l <;> rfl

theorem setPending_as (c : AttnClass) (s : State) : setPending c s =
    { s with attention := { s.attention with pending := (setPending c s).attention.pending }
             links := (setPending c s).links } := by
  obtain ⟨p, n0, n1, h⟩ := setPending_eq c s
  rw [h]

theorem setPending_classFlag (c x : AttnClass) (s : State) :
    classFlag (setPending c s).attention.pending x = (classFlag s.attention.pending x || decide (x = c)) := by
  rw [setPending]
  split
  · next h =>
    rw [← classFlag_eq] at h
    by_cases hx : x = c
    · simp [hx, h]
    · simp [hx]
  · rw [← classFlag_or_classBit]
    dsimp only
    split <;> rfl

theorem setPending_link (c : AttnClass) (s : State) (l : Link) : (setPending c s).link l = { s.link l with
    notice := (s.link l).notice ||
      (!classFlag s.attention.pending c && s.attention.globalEnable && classFlag s.attention.enables c) } := by
  rw [Bool.and_assoc, ← classFlag_enabled, classFlag_eq, classFlag_eq, setPending]
  cases hp : inClasses s.attention.pending c
  · rw [if_neg (by simp)]
    cases he : inClasses s.attention.enabled c
    · rw [Bool.not_false, Bool.true_and, Bool.or_false]
      rfl
    · rw [Bool.not_false, Bool.true_and, Bool.or_true]
      exact raiseNotice_link _ l
  · rw [if_pos rfl, Bool.not_true, Bool.false_and, Bool.or_false]

/-! ### An entry -/

theorem Kind.attnClass_eq (k : Kind) : k.attnClass = k.row.2 := by cases k <;> rfl

theorem Kind.code_eq (k : Kind) : k.code = k.row.1 := by cases k <;> rfl

theorem enter_some {w : Draft} {c : AttnClass} (h : w.kind.row.2 = some c) (s : State) :
    enter w s = setPending c (append w s) := by
  rw [enter, Kind.attnClass_eq, h]

theorem enter_none {w : Draft} (h : w.kind.row.2 = none) (s : State) : enter w s = append w s := by
  rw [enter, Kind.attnClass_eq, h]

theorem append_link (w : Draft) (s : State) (l : Link) : (append w s).link l = s.link l := by
  simp only [append, State.link]

theorem append_attention (w : Draft) (s : State) : (append w s).attention = s.attention := by
  simp only [append]

theorem enter_classFlag (w : Draft) (s : State) (c : AttnClass) : classFlag (enter w s).attention.pending c =
    (classFlag s.attention.pending c || decide (w.kind.row.2 = some c)) := by
  cases hw : w.kind.row.2 with
  | none => simp [enter_none hw, append]
  | some x =>
    rw [enter_some hw, setPending_classFlag]
    simp [append, eq_comm]

theorem enter_notice (w : Draft) (s : State) (l : Link) : ((enter w s).link l).notice = ((s.link l).notice ||
    (match w.kind.row.2 with
      | some c => !classFlag s.attention.pending c && s.attention.globalEnable && classFlag s.attention.enables c
      | none => false)) := by
  cases hw : w.kind.row.2 with
  | none => rw [enter_none hw, append_link, Bool.or_false]
  | some c => rw [enter_some hw, setPending_link, append_link, append_attention]

/-- Settles O46. -/
theorem entryMade : Obligations.EntryMade := by
  refine ⟨Kind.code_eq, fun s w _ => ?_⟩
  obtain ⟨p, n0, n1, h⟩ := enter_eq w s
  refine ⟨?_, ?_, ?_, ?_, fun l => ?_, enter_classFlag w s, enter_notice w s, fun c =>
    ⟨setPending_as c s, fun x => setPending_classFlag c x s, setPending_link c s⟩, rfl, raiseNotice_link s⟩
  · rw [enter_journal, append]
    simp [retain, State.stamp, Config.journalDepth]
  · exact enter_nextSeq w s
  · exact enter_as w s
  · rw [h]
  · rw [h]
    cases l <;> rfl

/-! ### The entries between two states -/

/-- The entries `ws` are made, in this order and no others, between `s` and `t`: they carry the next numbers, and of the
journal with them the ring retains the end (R178). -/
def State.Logs (s t : State) (ws : List Draft) : Prop :=
  ∃ es : List Entry, es.map (·.what) = ws ∧
    es.map (·.seq) = (List.range ws.length).map (fun i => s.nextSeq + BitVec.ofNat 32 i) ∧
    t.nextSeq = s.nextSeq + BitVec.ofNat 32 ws.length ∧
    t.journal <:+ s.journal ++ es ∧ min 2048 (s.journal.length + ws.length) ≤ t.journal.length

section Logs
variable {s t u : State} {ws vs : List Draft} {w : Draft}

theorem State.Logs.of_eq (hj : t.journal = s.journal) (hn : t.nextSeq = s.nextSeq) : s.Logs t [] :=
  ⟨[], rfl, rfl, by simp [hn], by simp [hj], by simp [hj]⟩

theorem State.Logs.refl (s : State) : s.Logs s [] := .of_eq rfl rfl

theorem State.Logs.trans (h : s.Logs t ws) (h' : t.Logs u vs) : s.Logs u (ws ++ vs) := by
  obtain ⟨es, hes, hseq, hnext, hsuf, hlen⟩ := h
  obtain ⟨fs, hfs, hseq', hnext', hsuf', hlen'⟩ := h'
  refine ⟨es ++ fs, by rw [List.map_append, hes, hfs], ?_, ?_, ?_, ?_⟩
  · rw [List.map_append, hseq, hseq', hnext, List.length_append, List.range_add, List.map_append, List.map_map]
    congr 1
    refine List.map_congr_left fun i _ => ?_
    rw [Function.comp_apply, BitVec.ofNat_add, BitVec.add_assoc]
  · rw [hnext', hnext, List.length_append, BitVec.ofNat_add, BitVec.add_assoc]
  · rw [← List.append_assoc]
    exact hsuf'.trans (List.suffix_append_inj_of_length_eq rfl |>.mpr ⟨hsuf, rfl⟩)
  · rw [List.length_append]
    omega

theorem State.Logs.enter (w : Draft) (s : State) : s.Logs (Machine.enter w s) [w] := by
  refine ⟨[s.stamp w], rfl, by simp [State.stamp], by rw [enter_nextSeq]; rfl, ?_, ?_⟩
  · simp only [enter_journal, append, retain]
    exact List.drop_suffix _ _
  · rw [enter_journal, append]
    simp only [retain, Config.journalDepth, List.length_drop, List.length_append, List.length_singleton]
    omega

/-- One more entry. -/
theorem State.Logs.then_enter (h : s.Logs t ws) (w : Draft) : s.Logs (Machine.enter w t) (ws ++ [w]) :=
  h.trans (.enter w t)

/-- One entry after changes outside the journal. -/
theorem State.Logs.enter_after (hj : t.journal = s.journal) (hn : t.nextSeq = s.nextSeq) :
    s.Logs (Machine.enter w t) [w] :=
  (State.Logs.of_eq hj hn).then_enter w

/-- Changes outside the journal make no entry. -/
theorem State.Logs.congr (h : s.Logs t ws) (hj : u.journal = t.journal) (hn : u.nextSeq = t.nextSeq) : s.Logs u ws := by
  simpa using h.trans (.of_eq hj hn)

theorem State.Logs.nextSeq (h : s.Logs t ws) : t.nextSeq = s.nextSeq + BitVec.ofNat 32 ws.length := by
  obtain ⟨-, -, -, h, -⟩ := h
  exact h

/-- As many entries as the ring holds are all retained, each under its number. -/
theorem State.Logs.records_getElem? {i : Nat} (h : s.Logs t ws) (hws : ws.length ≤ 2048) (hi : ws[i]? = some w) :
    t.records (s.nextSeq + BitVec.ofNat 32 i) w := by
  obtain ⟨es, rfl, hseq, -, hsuf, hlen⟩ := h
  rw [List.length_map] at hws hlen hseq
  have hes : es <:+ t.journal := List.suffix_of_suffix_length_le (List.suffix_append _ _) hsuf (by omega)
  obtain ⟨e, he, rfl⟩ : ∃ e, es[i]? = some e ∧ e.what = w := by simpa using hi
  refine ⟨e, hes.subset (List.mem_of_getElem? he), ?_, rfl⟩
  have hseqi : (es.map (·.seq))[i]? = some e.seq := by rw [List.getElem?_map, he]; rfl
  have hlt : i < es.length := (List.getElem?_eq_some_iff.mp he).1
  rw [hseq, List.getElem?_map, List.getElem?_range hlt] at hseqi
  exact (Option.some.inj hseqi).symm

theorem State.Logs.records_of_mem (h : s.Logs t ws) (hws : ws.length ≤ 2048) (hw : w ∈ ws) : ∃ n, t.records n w := by
  obtain ⟨i, hi⟩ := List.mem_iff_getElem?.mp hw
  exact ⟨_, h.records_getElem? hws hi⟩

theorem State.Logs.records_head (h : s.Logs t (w :: ws)) (hws : ws.length < 2048) : t.records s.nextSeq w := by
  have := h.records_getElem? (i := 0) (by simpa using hws) rfl
  simpa using this

end Logs

end Sys2Proof.Machine
end

section
/-! PROOFS. The minute tick of the desk units (O45). -/

namespace Sys2Proof.Machine

/-! ### Changes of the desk units and the journal alone -/

/-- Only the desk units, the journal and the flags and marks an entry sets differ. -/
def State.OnDesks (s t : State) : Prop :=
  t = { s with desks := t.desks, journal := t.journal, nextSeq := t.nextSeq, attention := t.attention, links := t.links }

section OnDesks
variable {s t u : State}

theorem State.OnDesks.refl (s : State) : s.OnDesks s := rfl

theorem State.OnDesks.trans (h : s.OnDesks t) (h' : t.OnDesks u) : s.OnDesks u := by
  unfold State.OnDesks at *
  calc u = { t with desks := u.desks, journal := u.journal, nextSeq := u.nextSeq, attention := u.attention
                    links := u.links } := h'
    _ = _ := by rw [h]

theorem enter_onDesks (w : Draft) (s : State) : s.OnDesks (enter w s) := by
  unfold State.OnDesks
  obtain ⟨p, n0, n1, h⟩ := enter_eq w s
  rw [h]

theorem putUnit_onDesks (d : Desk) (v : DeskUnit) (s : State) : s.OnDesks (s.putUnit d v) := rfl

end OnDesks

/-! ### The late shift changes -/

/-- A desk whose due time is the due grace or more ago and which is not yet DUE_LATE (R144). -/
def State.turnsLate (s : State) (d : Desk) : Bool :=
  match (s.unit d).due with
  | some m => lateNow s.limits.dueGrace s.runSeconds m
  | none => false

/-- The entry of such a desk. -/
def State.lateEntry (s : State) (d : Desk) : Draft :=
  { kind := .dueLate, desk := some d, op := s.holder d, d1 := some s.limits.dueGrace }

/-- A mark after the tick. -/
def DueMark.ticked (grace : Nat) (now : Word32) (m : DueMark) : DueMark :=
  { m with late := m.late || decide (60 * grace ≤ (now - m.time).toNat) }

/-- A desk unit after the tick. -/
def State.lateUnit (s : State) (d : Desk) : DeskUnit :=
  { s.unit d with due := (s.unit d).due.map (DueMark.ticked s.limits.dueGrace s.runSeconds) }

theorem ticked_of_lateNow {grace : Nat} {now : Word32} {m : DueMark} (h : lateNow grace now m = true) :
    m.ticked grace now = { m with late := true } := by
  simp only [lateNow, Bool.and_eq_true] at h
  rw [DueMark.ticked]
  congr 1
  exact (congrArg _ h.2).trans (Bool.or_true _)

theorem ticked_of_not_lateNow {grace : Nat} {now : Word32} {m : DueMark} (h : lateNow grace now m = false) :
    m.ticked grace now = m := by
  obtain ⟨time, late⟩ := m
  cases late
  · exact congrArg (DueMark.mk time) h
  · rfl

theorem mem_allDesks (d : Desk) : d ∈ allDesks := by cases d <;> decide

section Late
variable (d e : Desk) (s : State)

theorem checkLate_eq : checkLate d s =
    if s.turnsLate d then enter (s.lateEntry d) (s.putUnit d (s.lateUnit d)) else s.putUnit d (s.lateUnit d) := by
  have hkept : ∀ v, v = s.unit d → s.putUnit d v = s := fun v hv => by rw [hv, State.putUnit_unit]
  rw [checkLate, State.turnsLate, State.lateUnit, State.lateEntry]
  cases hdue : (s.unit d).due with
  | none => exact (hkept _ (by rw [Option.map_none, ← hdue])).symm
  | some m =>
    dsimp only [Option.map_some]
    by_cases h : lateNow s.limits.dueGrace s.runSeconds m = true
    · rw [if_pos h, if_pos h, ticked_of_lateNow h]
    · rw [if_neg h, if_neg h, ticked_of_not_lateNow (Bool.eq_false_iff.mpr h)]
      exact (hkept _ (by rw [← hdue])).symm

theorem checkLate_onDesks : s.OnDesks (checkLate d s) := by
  rw [checkLate_eq]
  split
  · exact (putUnit_onDesks _ _ _).trans (enter_onDesks _ _)
  · exact putUnit_onDesks _ _ _

theorem checkLate_unit : (checkLate d s).unit e = if e = d then s.lateUnit d else s.unit e := by
  rw [checkLate_eq]
  split <;> simp [State.unit_putUnit]

theorem checkLate_logs : s.Logs (checkLate d s) (([d].filter s.turnsLate).map s.lateEntry) := by
  rw [checkLate_eq]
  cases h : s.turnsLate d
  · rw [List.filter_cons_of_neg (by simp [h]), if_neg (by simp)]
    exact .of_eq rfl rfl
  · rw [List.filter_cons_of_pos h, if_pos rfl]
    exact .enter_after rfl rfl

theorem checkLate_fixed : (checkLate d s).limits = s.limits ∧ (checkLate d s).runSeconds = s.runSeconds := by
  have h := checkLate_onDesks d s
  unfold State.OnDesks at h
  exact ⟨by rw [h], by rw [h]⟩

theorem checkLate_ahead (h : e ≠ d) : (checkLate d s).turnsLate e = s.turnsLate e ∧
    (checkLate d s).lateEntry e = s.lateEntry e ∧ (checkLate d s).lateUnit e = s.lateUnit e := by
  obtain ⟨hlim, hnow⟩ := checkLate_fixed d s
  have hunit : (checkLate d s).unit e = s.unit e := by rw [checkLate_unit, if_neg h]
  have hholder : (checkLate d s).holder e = s.holder e := by simp only [State.holder, State.slot, hunit]
  simp only [State.turnsLate, State.lateEntry, State.lateUnit, hlim, hnow, hunit, hholder, and_self]

end Late

/-- The desks one after the other. -/
theorem foldl_checkLate {ds : List Desk} (hds : ds.Nodup) (s : State) :
    let t := ds.foldl (fun s' d => checkLate d s') s
    s.OnDesks t ∧ (∀ e, t.unit e = if e ∈ ds then s.lateUnit e else s.unit e) ∧
      s.Logs t ((ds.filter s.turnsLate).map s.lateEntry) := by
  induction ds generalizing s with
  | nil => exact ⟨.refl s, fun _ => rfl, .refl s⟩
  | cons d ds ih =>
    obtain ⟨hd, hnodup⟩ := List.nodup_cons.mp hds
    obtain ⟨hrest, hunit, hlogs⟩ := ih hnodup (checkLate d s)
    have hne : ∀ e ∈ ds, e ≠ d := fun e he h => hd (h ▸ he)
    refine ⟨(checkLate_onDesks d s).trans hrest, fun e => ?_, ?_⟩
    · refine (hunit e).trans ?_
      by_cases he : e ∈ ds
      · rw [if_pos he, if_pos (List.mem_cons_of_mem d he), (checkLate_ahead d e s (hne e he)).2.2]
      · rw [if_neg he, checkLate_unit]
        by_cases hed : e = d
        · simp [hed]
        · simp [hed, he]
    · have hfilter : ds.filter (checkLate d s).turnsLate = ds.filter s.turnsLate :=
        List.filter_congr fun e he => (checkLate_ahead d e s (hne e he)).1
      have hmap : (ds.filter s.turnsLate).map (checkLate d s).lateEntry = (ds.filter s.turnsLate).map s.lateEntry :=
        List.map_congr_left fun e he => (checkLate_ahead d e s (hne e (List.mem_of_mem_filter he))).2.1
      have hall := (checkLate_logs d s).trans hlogs
      rw [hfilter, hmap, ← List.map_append, ← List.filter_append] at hall
      exact hall

/-- Settles O45. -/
theorem dueLateTick : Obligations.DueLateTick := by
  intro s hw htick
  obtain ⟨hrest, hunit, hlogs⟩ :=
    foldl_checkLate (by decide : allDesks.Nodup) { s with tick := { s.tick with late := false } }
  refine ⟨_, congrArg Host.Outcome.next ((whileWorking_of_works hw).trans (if_pos htick)), ?_, ?_, ?_, ?_⟩
  · exact hrest
  · rw [hlogs.nextSeq, List.length_map]
    rfl
  · intro d m hdue hlate hgrace
    have hturns : s.turnsLate d = true := by
      rw [State.turnsLate, hdue]
      simp only [lateNow, since, hlate, hgrace, Bool.not_false, decide_true, Bool.and_self]
    refine hlogs.records_of_mem ?_ (List.mem_map_of_mem (List.mem_filter.mpr ⟨mem_allDesks d, hturns⟩))
    rw [List.length_map]
    exact (List.length_filter_le _ _).trans (by decide)
  · intro d
    refine (hunit d).trans ?_
    rw [if_pos (mem_allDesks d)]
    rfl

end Sys2Proof.Machine
end

section
/-! PROOFS. The minute tick of the load monitor (O21). -/

namespace Sys2Proof.Machine

/-! ### The entries of an abort -/

/-- HANDOVER_ABORT at a desk unit in handover, nothing at any other (R134). -/
def abortLog (d : Desk) (reason : Nat) (u : DeskUnit) : List Draft :=
  match u.state.handover? with
  | some h => [{ kind := .handoverAbort, desk := some d, op := some h.outgoing, d1 := some reason
                 d2 := some h.carried.length }]
  | none => []

theorem abortHandover_logs (d : Desk) (reason : AbortReason) (s : State) :
    s.Logs (abortHandover d reason s) (abortLog d reason.code (s.unit d)) := by
  rw [abortHandover, abortLog]
  cases (s.unit d).state with
  | handoverOpen k h => exact State.Logs.enter _ s
  | handoverReview k h op => exact State.Logs.enter_after (w := ⟨_, _, _, _, _, _⟩) rfl rfl
  | _ => exact .refl s

theorem abortHandover_onDesks (d : Desk) (reason : AbortReason) (s : State) : s.OnDesks (abortHandover d reason s) := by
  rw [abortHandover]
  split
  · exact (enter_onDesks _ _).trans rfl
  · exact State.OnDesks.trans (t := s.setResult _ _ _) rfl ((enter_onDesks _ _).trans rfl)
  · exact .refl s

theorem abortHandover_unit_ne {d e : Desk} (h : e ≠ d) (reason : AbortReason) (s : State) :
    (abortHandover d reason s).unit e = s.unit e :=
  (abortHandover_atDesk d reason s).others e h

/-! ### One target -/

section Target
variable (x y : Target) (s : State)

/-- The figure of a target for the next minute (R56). -/
def State.nextFigure : Nat := nextLoad (s.loadOf x).w (s.loadOf x).l

/-- The flood flag of a target for the next minute (R58). -/
def State.nextFlood : Bool :=
  if (s.loadOf x).flood then decide (s.limits.flood.offAt < s.nextFigure x) else decide (s.limits.flood.onAt ≤ s.nextFigure x)

def State.nextLoadOf : Load := { w := 0, l := s.nextFigure x, flood := s.nextFlood x }

def State.floodOff : Draft :=
  { kind := .floodOff, desk := x.desk?, d1 := some (s.nextFigure x), d2 := some s.limits.flood.offAt }

def State.floodOn : Draft :=
  { kind := .floodOn, desk := x.desk?, d1 := some (s.nextFigure x), d2 := some s.limits.flood.onAt }

/-- What a flag set at a target does besides its entry (R61, R137). -/
def floodAt (x : Target) (s : State) : State :=
  match x with
  | .desk d => abortHandover d .flood s
  | .room => s

/-- Whether a flag is set at this update. -/
def State.floods : Bool := !(s.loadOf x).flood && s.nextFlood x

/-- The entries that follow FLOOD_ON of a target. -/
def State.floodAborts : List Draft :=
  match x with
  | .desk d => abortLog d 3 (s.unit d)
  | .room => []

/-- The entries of a target's update. -/
def State.floodLog : List Draft :=
  if s.floods x then s.floodOn x :: s.floodAborts x
  else if (s.loadOf x).flood && !s.nextFlood x then [s.floodOff x] else []

theorem updateLoad_floods (h : s.floods x = true) :
    updateLoad x s = floodAt x (enter (s.floodOn x) (s.putLoad x (s.nextLoadOf x))) := by
  simp only [State.floods, Bool.and_eq_true, Bool.not_eq_true'] at h
  obtain ⟨hoff, hflood⟩ := h
  have hon := hflood
  rw [State.nextFlood, hoff, if_neg (by simp), decide_eq_true_eq] at hon
  rw [State.nextLoadOf, hflood]
  simp only [updateLoad]
  rw [hoff, if_neg (by simp)]
  exact (if_pos hon).trans (by cases x <;> rfl)

theorem updateLoad_clears (hon : (s.loadOf x).flood = true) (h : s.nextFlood x = false) :
    updateLoad x s = enter (s.floodOff x) (s.putLoad x (s.nextLoadOf x)) := by
  have hle : s.nextFigure x ≤ s.limits.flood.offAt := by
    rw [State.nextFlood, hon, if_pos rfl, decide_eq_false_iff_not] at h
    omega
  simp only [updateLoad, State.nextLoadOf, h]
  rw [hon, if_pos rfl]
  exact if_pos hle

theorem updateLoad_same (h : s.nextFlood x = (s.loadOf x).flood) : updateLoad x s = s.putLoad x (s.nextLoadOf x) := by
  rw [State.nextLoadOf, h]
  simp only [State.nextFlood] at h
  simp only [updateLoad]
  cases hf : (s.loadOf x).flood
  · rw [hf, if_neg (by simp), decide_eq_false_iff_not] at h
    rw [if_neg (by simp)]
    exact if_neg h
  · rw [hf, if_pos rfl, decide_eq_true_eq] at h
    rw [if_pos rfl]
    exact if_neg (by unfold State.nextFigure at h; omega)

/-- What one update is, by what it does to the flag. -/
theorem updateLoad_cases (motive : State → Prop)
    (floods : s.floods x = true → motive (floodAt x (enter (s.floodOn x) (s.putLoad x (s.nextLoadOf x)))))
    (clears : s.floods x = false → (s.loadOf x).flood = true → s.nextFlood x = false →
      motive (enter (s.floodOff x) (s.putLoad x (s.nextLoadOf x))))
    (same : s.floods x = false → s.nextFlood x = (s.loadOf x).flood → motive (s.putLoad x (s.nextLoadOf x))) :
    motive (updateLoad x s) := by
  cases hf : (s.loadOf x).flood <;> cases hn : s.nextFlood x
  · rw [updateLoad_same x s (by rw [hf, hn])]
    exact same (by simp [State.floods, hf, hn]) (by rw [hf, hn])
  · rw [updateLoad_floods x s (by simp [State.floods, hf, hn])]
    exact floods (by simp [State.floods, hf, hn])
  · rw [updateLoad_clears x s hf hn]
    exact clears (by simp [State.floods, hf]) hf hn
  · rw [updateLoad_same x s (by rw [hf, hn])]
    exact same (by simp [State.floods, hf]) (by rw [hf, hn])

/-- Only the loads, the desk units, the journal and what an entry sets differ. -/
def State.OnLoads (s t : State) : Prop :=
  t = { s with load := t.load, desks := t.desks, journal := t.journal, nextSeq := t.nextSeq, attention := t.attention
               links := t.links }

theorem State.OnLoads.trans {s t u : State} (h : s.OnLoads t) (h' : t.OnLoads u) : s.OnLoads u := by
  unfold State.OnLoads at *
  calc u = { t with load := u.load, desks := u.desks, journal := u.journal, nextSeq := u.nextSeq
                    attention := u.attention, links := u.links } := h'
    _ = _ := by rw [h]

theorem State.OnDesks.onLoads {s t : State} (h : s.OnDesks t) : s.OnLoads t := by
  unfold State.OnDesks at h
  unfold State.OnLoads
  rw [h]

theorem floodAt_onDesks : s.OnDesks (floodAt x s) := by
  cases x with
  | room => exact .refl s
  | desk d => exact abortHandover_onDesks d .flood s

theorem updateLoad_onLoads : s.OnLoads (updateLoad x s) := by
  have hput : s.OnLoads (s.putLoad x (s.nextLoadOf x)) := rfl
  refine updateLoad_cases x s _ (fun _ => ?_) (fun _ _ _ => ?_) (fun _ _ => hput)
  · exact hput.trans ((enter_onDesks _ _).trans (floodAt_onDesks x _)).onLoads
  · exact hput.trans (enter_onDesks _ _).onLoads

theorem loadOf_onDesks {s t : State} (h : s.OnDesks t) (x : Target) : t.loadOf x = s.loadOf x := by
  unfold State.OnDesks at h
  rw [h]
  rfl

theorem updateLoad_loadOf : (updateLoad x s).loadOf y = if y = x then s.nextLoadOf x else s.loadOf y := by
  have hput := State.loadOf_putLoad s x y (s.nextLoadOf x)
  refine updateLoad_cases x s (fun t => t.loadOf y = _) (fun _ => ?_) (fun _ _ _ => ?_) (fun _ _ => ?_)
  · rw [loadOf_onDesks ((enter_onDesks _ _).trans (floodAt_onDesks x _)), hput]
  · rw [loadOf_onDesks (enter_onDesks _ _), hput]
  · rw [hput]

theorem updateLoad_logs : s.Logs (updateLoad x s) (s.floodLog x) := by
  rw [State.floodLog]
  refine updateLoad_cases x s (fun t => s.Logs t _) (fun h => ?_) (fun h hon hoff => ?_) (fun h hsame => ?_)
  · rw [if_pos h]
    have hone : s.Logs (enter (s.floodOn x) (s.putLoad x (s.nextLoadOf x))) [s.floodOn x] := .enter_after rfl rfl
    cases x with
    | room => exact hone
    | desk d =>
      have habort := abortHandover_logs d .flood (enter (s.floodOn (.desk d)) (s.putLoad (.desk d) (s.nextLoadOf (.desk d))))
      rw [enter_unit] at habort
      exact hone.trans habort
  · rw [if_neg (by simp [h]), hon, hoff, if_pos (by simp)]
    exact .enter_after rfl rfl
  · rw [if_neg (by simp [h]), hsame, Bool.and_not_self, if_neg (by simp)]
    exact .of_eq rfl rfl

/-- A desk unit after the load monitor's work: out of handover where a flag is set (R137). -/
def State.loadUnit (s : State) (d : Desk) : DeskUnit := if s.floods (.desk d) then (s.unit d).aborted else s.unit d

theorem updateLoad_unit (d : Desk) :
    (updateLoad x s).unit d = if x = .desk d then s.loadUnit d else s.unit d := by
  rw [State.loadUnit]
  refine updateLoad_cases x s (fun t => t.unit d = _) (fun h => ?_) (fun h _ _ => ?_) (fun h _ => ?_)
  · cases x with
    | room =>
      rw [if_neg (by simp)]
      exact enter_unit _ _ d
    | desk e =>
      by_cases he : d = e
      · subst he
        rw [if_pos rfl, if_pos h]
        exact (abortHandover_unit d .flood _).trans (by rw [enter_unit]; rfl)
      · rw [if_neg (by simpa using Ne.symm he)]
        exact (abortHandover_unit_ne he .flood _).trans (enter_unit _ _ d)
  · rw [enter_unit]
    split
    · subst x
      rw [if_neg (by simp [h])]
      rfl
    · rfl
  · split
    · subst x
      rw [if_neg (by simp [h])]
      rfl
    · rfl

end Target

/-! ### All targets -/

theorem updateLoad_limits (x : Target) (s : State) : (updateLoad x s).limits = s.limits := by
  have h := updateLoad_onLoads x s
  unfold State.OnLoads at h
  rw [h]

section Ahead
variable {x y : Target} (s : State)

theorem updateLoad_ahead (h : y ≠ x) : (updateLoad x s).nextLoadOf y = s.nextLoadOf y ∧
    (updateLoad x s).floods y = s.floods y ∧ (updateLoad x s).floodLog y = s.floodLog y := by
  have hlim := updateLoad_limits x s
  have hload : (updateLoad x s).loadOf y = s.loadOf y := by rw [updateLoad_loadOf, if_neg h]
  have haborts : (updateLoad x s).floodAborts y = s.floodAborts y := by
    cases y with
    | room => rfl
    | desk d => rw [State.floodAborts, updateLoad_unit, if_neg (Ne.symm h)]; rfl
  have hfigure : (updateLoad x s).nextFigure y = s.nextFigure y := by rw [State.nextFigure, hload]; rfl
  have hflood : (updateLoad x s).nextFlood y = s.nextFlood y := by
    rw [State.nextFlood, hlim, hload, hfigure]
    rfl
  refine ⟨?_, ?_, ?_⟩
  · rw [State.nextLoadOf, hfigure, hflood, State.nextLoadOf]
  · rw [State.floods, hload, hflood, State.floods]
  · simp only [State.floodLog, State.floods, State.floodOn, State.floodOff, hlim, hload, hfigure, hflood, haborts] <;> rfl

theorem updateLoad_loadUnit {d : Desk} (h : .desk d ≠ x) : (updateLoad x s).loadUnit d = s.loadUnit d := by
  rw [State.loadUnit, (updateLoad_ahead s h).2.1, updateLoad_unit, if_neg (Ne.symm h)]
  rfl

end Ahead

/-- The targets one after the other. -/
theorem foldl_updateLoad {xs : List Target} (hxs : xs.Nodup) (s : State) :
    let t := xs.foldl (fun s' x => updateLoad x s') s
    s.OnLoads t ∧ (∀ y, t.loadOf y = if y ∈ xs then s.nextLoadOf y else s.loadOf y) ∧
      (∀ d, t.unit d = if .desk d ∈ xs then s.loadUnit d else s.unit d) ∧ s.Logs t (xs.flatMap s.floodLog) := by
  induction xs generalizing s with
  | nil => exact ⟨rfl, fun _ => rfl, fun _ => rfl, .refl s⟩
  | cons x xs ih =>
    obtain ⟨hx, hnodup⟩ := List.nodup_cons.mp hxs
    obtain ⟨hrest, hload, hunit, hlogs⟩ := ih hnodup (updateLoad x s)
    have hne : ∀ y ∈ xs, y ≠ x := fun y hy h => hx (h ▸ hy)
    refine ⟨(updateLoad_onLoads x s).trans hrest, fun y => ?_, fun d => ?_, ?_⟩
    · refine (hload y).trans ?_
      by_cases hy : y ∈ xs
      · rw [if_pos hy, if_pos (List.mem_cons_of_mem x hy), (updateLoad_ahead s (hne y hy)).1]
      · rw [if_neg hy, updateLoad_loadOf]
        by_cases hyx : y = x
        · simp [hyx]
        · simp [hyx, hy]
    · refine (hunit d).trans ?_
      by_cases hd : .desk d ∈ xs
      · rw [if_pos hd, if_pos (List.mem_cons_of_mem x hd), updateLoad_loadUnit s (hne _ hd)]
      · rw [if_neg hd, updateLoad_unit]
        by_cases hdx : x = .desk d
        · simp [hdx]
        · simp [hdx, hd, Ne.symm hdx]
    · have hflat : xs.flatMap (updateLoad x s).floodLog = xs.flatMap s.floodLog :=
        List.flatMap_congr fun y hy => (updateLoad_ahead s (hne y hy)).2.2
      have hall := (updateLoad_logs x s).trans hlogs
      rw [hflat] at hall
      exact hall

/-! ### How many entries -/

/-- A desk that a flag set at its target takes out of handover. -/
def State.leavesHandover (s : State) : Target → Bool
  | .desk d => s.inHandover d && s.floods (.desk d)
  | .room => false

theorem floodLog_length (s : State) (x : Target) : (s.floodLog x).length =
    (if (s.loadOf x).flood != s.nextFlood x then 1 else 0) + if s.leavesHandover x then 1 else 0 := by
  have haborts : s.floods x = true → (s.floodAborts x).length = if s.leavesHandover x then 1 else 0 := by
    intro h
    cases x with
    | room => rfl
    | desk d =>
      simp only [State.floodAborts, State.leavesHandover, h, Bool.and_true, abortLog, State.inHandover]
      cases (s.unit d).state.handover? <;> rfl
  rw [State.floodLog]
  by_cases h : s.floods x = true
  · rw [if_pos h, List.length_cons, haborts h]
    simp only [State.floods, Bool.and_eq_true, Bool.not_eq_true'] at h
    rw [h.1, h.2, Nat.add_comm]
    rfl
  · have hstays : s.leavesHandover x = false := by
      cases x with
      | room => rfl
      | desk d => simp [State.leavesHandover, h]
    rw [if_neg h, hstays]
    simp only [State.floods] at h
    cases hf : (s.loadOf x).flood <;> cases hn : s.nextFlood x <;> simp [hf, hn] at h ⊢

theorem floodLogs_length (s : State) (xs : List Target) : (xs.flatMap s.floodLog).length =
    (xs.filter fun x => (s.loadOf x).flood != s.nextFlood x).length + (xs.filter s.leavesHandover).length := by
  induction xs with
  | nil => rfl
  | cons x xs ih =>
    rw [List.flatMap_cons, List.length_append, ih, floodLog_length, ← List.countP_eq_length_filter,
      ← List.countP_eq_length_filter, ← List.countP_eq_length_filter, ← List.countP_eq_length_filter, List.countP_cons,
      List.countP_cons]
    omega

theorem leavesHandover_length (s : State) : (allTargets.filter s.leavesHandover).length =
    (allDesks.filter fun d => s.leavesHandover (.desk d)).length := by
  have htargets : allTargets = allDesks.map Target.desk ++ [.room] := rfl
  rw [htargets, List.filter_append, List.filter_map, List.length_append, List.length_map]
  rfl

/-- What one list of entries in a row holds is found in the journal under consecutive numbers. -/
theorem State.Logs.records_flatMap {s t : State} {α : Type} {f : α → List Draft} {xs : List α}
    (h : s.Logs t (xs.flatMap f)) (hlen : (xs.flatMap f).length ≤ 2048) {x : α} (hx : x ∈ xs) :
    ∃ n, ∀ i w, (f x)[i]? = some w → t.records (n + BitVec.ofNat 32 i) w := by
  obtain ⟨pre, post, rfl⟩ := List.append_of_mem hx
  refine ⟨s.nextSeq + BitVec.ofNat 32 (pre.flatMap f).length, fun i w hi => ?_⟩
  rw [BitVec.add_assoc, ← BitVec.ofNat_add]
  refine h.records_getElem? hlen ?_
  have hlt := (List.getElem?_eq_some_iff.mp hi).1
  rw [List.flatMap_append, List.flatMap_cons, List.getElem?_append_right (by omega), Nat.add_sub_cancel_left,
    List.getElem?_append_left hlt, hi]

/-! ### The obligation -/

theorem adoptFlood_eq (s : State) : adoptFlood s =
    { s with limits := { s.limits with flood := s.heldFlood.getD s.limits.flood }, heldFlood := none } := by
  rw [adoptFlood]
  cases h : s.heldFlood with
  | some p => rfl
  | none =>
    have : s = { s with heldFlood := none } := by rw [← h]
    exact this

/-- Settles O21: the update of one target by what its flag does, and the targets one after the other. -/
theorem loadTick : Obligations.LoadTick := by
  refine ⟨fun s hw htick => ?_, fun s x => ?_⟩
  · have hexec : exec .loadUpdate s =
        .next (allTargets.foldl (fun s' x => updateLoad x s') (adoptFlood { s with tick := { s.tick with load := false } })) :=
      congrArg Host.Outcome.next ((whileWorking_of_works hw).trans (if_pos htick))
    rw [hexec, adoptFlood_eq]
    generalize hv : ({ s with tick := { s.tick with load := false }
                              limits := { s.limits with flood := s.heldFlood.getD s.limits.flood }
                              heldFlood := none } : State) = v
    have hload : ∀ x, v.loadOf x = s.loadOf x := fun x => by subst hv; rfl
    have hunitv : ∀ d, v.unit d = s.unit d := fun d => by subst hv; rfl
    have hpair : v.limits.flood = s.heldFlood.getD s.limits.flood := by subst hv; rfl
    obtain ⟨hrest, hloads, hunits, hlogs⟩ := foldl_updateLoad (by decide : allTargets.Nodup) v
    have hlen : (allTargets.flatMap v.floodLog).length ≤ 2048 := by
      rw [floodLogs_length]
      have h1 := List.length_filter_le (fun x => (v.loadOf x).flood != v.nextFlood x) allTargets
      have h2 := List.length_filter_le v.leavesHandover allTargets
      have h3 : allTargets.length = 7 := rfl
      omega
    refine ⟨_, rfl, ?_⟩
    generalize allTargets.foldl (fun s' x => updateLoad x s') v = t at *
    replace hloads : ∀ x, t.loadOf x = v.nextLoadOf x := fun x => by rw [hloads, if_pos (mem_allTargets x)]
    replace hunits : ∀ d, t.unit d = v.loadUnit d := fun d => by rw [hunits, if_pos (mem_allTargets _)]
    have hfloods : ∀ x, v.floods x = true ↔ (s.loadOf x).flood = false ∧ (t.loadOf x).flood = true := fun x => by
      rw [hloads, ← hload, State.floods, State.nextLoadOf, Bool.and_eq_true, Bool.not_eq_true']
    have hrecords := fun x => hlogs.records_flatMap hlen (mem_allTargets x)
    unfold State.OnLoads at hrest
    refine ⟨fun x => ?_, ?_, ?_, ?_, ?_, fun d => ?_, fun x hon hoff => ?_, fun x hoff hon => ?_, ?_⟩
    · rw [hloads, State.nextLoadOf, State.nextFlood, State.nextFigure, hload, hpair]
      rfl
    · rw [hrest, ← hv]
    · rw [hrest, ← hv]
    · rw [hrest, ← hv]
    · rw [hrest, ← hv]
    · rw [hunits, State.loadUnit, ← hunitv]
      by_cases h : v.floods (.desk d) = true
      · rw [if_pos h, if_pos ((hfloods _).mp h), hunitv, DeskUnit.aborted]
        cases (s.unit d).state <;> rfl
      · rw [if_neg h, if_neg fun h' => h ((hfloods _).mpr h')]
    · obtain ⟨n, hn⟩ := hrecords x
      have hnot : v.floods x = false := Bool.eq_false_iff.mpr fun h =>
        absurd hon (by simp [((hfloods x).mp h).1])
      have hlog : v.floodLog x = [v.floodOff x] := by
        rw [hloads] at hoff
        rw [State.floodLog, if_neg (by simp [hnot]), hload, hon, show v.nextFlood x = false from hoff]
        rfl
      rw [hlog] at hn
      exact ⟨_, by simpa [State.floodOff, hloads, State.nextLoadOf, hpair] using hn 0 _ rfl⟩
    · obtain ⟨n, hn⟩ := hrecords x
      have hlog : v.floodLog x = v.floodOn x :: v.floodAborts x := by
        rw [State.floodLog, if_pos ((hfloods x).mpr ⟨hoff, hon⟩)]
      rw [hlog] at hn
      refine ⟨n, by simpa [State.floodOn, hloads, State.nextLoadOf, hpair] using hn 0 _ rfl, fun d h hx hstate => ?_⟩
      subst hx
      have haborts : v.floodAborts (.desk d) = [{ kind := .handoverAbort, desk := some d, op := some h.outgoing
                                                  d1 := some 3, d2 := some h.carried.length }] := by
        rw [State.floodAborts, abortLog, hunitv, hstate]
      exact hn 1 _ (by rw [haborts]; rfl)
    · rw [hlogs.nextSeq, floodLogs_length, leavesHandover_length]
      have hseq : v.nextSeq = s.nextSeq := by subst hv; rfl
      have htoggles : (fun x => (v.loadOf x).flood != v.nextFlood x) = fun x => (s.loadOf x).flood != (t.loadOf x).flood := by
        funext x
        rw [hloads, hload]
        rfl
      have hleaves : (fun d => v.leavesHandover (.desk d)) =
          fun d => s.inHandover d && !(s.loadOf (.desk d)).flood && (t.loadOf (.desk d)).flood := by
        funext d
        rw [hloads, ← hload, State.leavesHandover, State.floods, Bool.and_assoc]
        simp only [State.inHandover, hunitv]
        rfl
      rw [hseq, htoggles, hleaves]
  · intro ld l
    have hfig : s.nextFigure x = l := rfl
    refine ⟨fun hoff hlt => ?_, fun hon hlt => ?_, fun hon hle => ?_, fun hoff hle => ?_⟩
    · have hn : s.nextFlood x = false := by
        rw [State.nextFlood, show (s.loadOf x).flood = false from hoff, hfig]
        simpa using hlt
      rw [updateLoad_same x s (hn.trans hoff.symm), State.nextLoadOf, hn, hfig]
    · have hn : s.nextFlood x = true := by
        rw [State.nextFlood, show (s.loadOf x).flood = true from hon, hfig]
        simpa using hlt
      rw [updateLoad_same x s (hn.trans hon.symm), State.nextLoadOf, hn, hfig]
    · have hn : s.nextFlood x = false := by
        rw [State.nextFlood, show (s.loadOf x).flood = true from hon, hfig]
        simpa using hle
      rw [updateLoad_clears x s hon hn, State.nextLoadOf, hn]
      rfl
    · have hn : s.nextFlood x = true := by
        rw [State.nextFlood, show (s.loadOf x).flood = false from hoff, hfig]
        simpa using hle
      rw [updateLoad_floods x s (by rw [State.floods, show (s.loadOf x).flood = false from hoff, hn]; rfl),
        State.nextLoadOf, hn]
      cases x with
      | room => rfl
      | desk d => exact abortHandover_eq d .flood _

end Sys2Proof.Machine
end

section
/-! PROOFS. ASSIGN_AREA (O18). -/

namespace Sys2Proof.Machine

section Routed
variable {s u : State} {l : Link} {α : Type} {x : α} {read : Option α} {a : Answer} {status reason : Byte}
  {body : List Byte}

/-- A command that may change inputs of routing, whose body reads: routing is worked out over what its rule leaves (R37,
R193, R195). -/
theorem routing_served (h : s.commands l) (type tag : Byte) (hr : read = some x) (serve : α → Serve)
    (hs : serve x (s.listening l) = (u, a)) (hu : u.phase = s.phase) (ha : a.body = status :: reason :: body) :
    takeFrame l type tag (asRoutingCommand l (served read serve)) s = (reroute s u).replies l type tag status reason body := by
  subst hr
  exact takeFrame_routing h type tag _ hs (by simp [(reroute_quiet s u).phase, hu, h.1.1]) ha

/-- One whose rule leaves the state it is served in. -/
theorem routing_served_same (h : s.commands l) (type tag : Byte) (hr : read = some x) (serve : α → Serve)
    (hs : serve x (s.listening l) = (s.listening l, a)) (ha : a.body = status :: reason :: body) :
    takeFrame l type tag (asRoutingCommand l (served read serve)) s =
      (s.listening l).replies l type tag status reason body := by
  rw [routing_served h type tag hr serve hs (listening_phase l s) ha,
    reroute_eq fun y => (listening_target l s y).symm]

end Routed

/-! ### The tests of ASSIGN_AREA -/

theorem optDesk_none : optDesk none = 255 := rfl

theorem optDesk_some (d : Desk) : optDesk (some d) = byte d.code := rfl

section Serve
variable {s : State} {a : Area} {d : Desk} {op : OpIndex} {r : OperatorRecord}

theorem serveAssignArea_inHandover {x : Option Desk}
    (h : (s.deskInHandover (s.owner a) || s.deskInHandover x) = true) :
    serveAssignArea (a, x) s = (s, .refused .inHandover) := if_pos h

theorem serveAssignArea_none (h : s.deskInHandover (s.owner a) = false) :
    serveAssignArea (a, none) s = accepted (if (s.owner a).isSome then changeOwner a none s else s) :=
  if_neg (by rw [h]; simp [State.deskInHandover])

theorem serveAssignArea_some (h : s.deskInHandover (s.owner a) = false) (hd : s.inHandover d = false) :
    serveAssignArea (a, some d) s = match s.holderRecord d with
      | none => (s, .refused .notAttended)
      | some (_, r) =>
        if inSet r.areas a then accepted (if s.owner a = some d then s else changeOwner a (some d) s)
        else (s, .refused .notPermitted) := by
  rw [serveAssignArea]
  dsimp only
  rw [if_neg (by rw [h]; simp [State.deskInHandover, hd])] <;> rfl

theorem listening_deskInHandover (l : Link) (s : State) (x : Option Desk) :
    (s.listening l).deskInHandover x = s.deskInHandover x := by
  cases x with
  | none => rfl
  | some d => exact listening_inHandover l s d

theorem changeOwner_phase (a : Area) (x : Option Desk) (s : State) : (changeOwner a x s).phase = s.phase := by
  rw [changeOwner, enter_phase]
  cases x <;> rfl

end Serve

/-- Settles O18: the tests one after the other, in the state in which the frame is served. -/
theorem assignArea : Obligations.AssignArea := by
  intro s l tag a hcom
  have hnone := readAssignArea_none a
  have hsome := readAssignArea_some a
  have hheld : ∀ x, (s.deskInHandover (s.owner a) || s.deskInHandover x) = true →
      serveAssignArea (a, x) (s.listening l) = (s.listening l, .refused .inHandover) := fun x hx =>
    serveAssignArea_inHandover (by rw [listening_owner, listening_deskInHandover, listening_deskInHandover, hx])
  have hrefused : ∀ {x} {body : List Byte}, (s.deskInHandover (s.owner a) || s.deskInHandover x) = true →
      readAssignArea body = some (a, x) →
      exec (.assignArea l tag body) s = .next ((s.listening l).replies l 3 tag 4 9 []) := fun hx hr =>
    congrArg Host.Outcome.next (routing_served_same hcom 3 tag hr serveAssignArea (hheld _ hx) rfl)
  refine ⟨fun d ho hd x => ?_, fun d hd => hrefused (by simp [State.deskInHandover, hd]) (hsome d), fun hfree => ?_⟩
  · have hx : (s.deskInHandover (s.owner a) || s.deskInHandover x) = true := by simp [State.deskInHandover, ho, hd]
    cases x with
    | none => rw [optDesk_none]; exact hrefused hx hnone
    | some e => rw [optDesk_some]; exact hrefused hx (hsome e)
  · have hfree' : (s.listening l).deskInHandover ((s.listening l).owner a) = false := by
      rw [listening_owner, listening_deskInHandover]
      cases ho : s.owner a with
      | none => rfl
      | some e => exact hfree e ho
    refine ⟨fun ho => ?_, fun e ho => ?_, fun d hd => ?_⟩
    · have hs := serveAssignArea_none hfree'
      rw [if_neg (by simp [ho])] at hs
      exact congrArg Host.Outcome.next (routing_served_same hcom 3 tag hnone serveAssignArea hs rfl)
    · have hs := serveAssignArea_none hfree'
      rw [if_pos (by simp [ho])] at hs
      have hchange : changeOwner a none (s.listening l) = enter { kind := .area, d1 := some a.val, d2 := some e.code }
          ((s.listening l).setOwner a none) := by simp [changeOwner, ho]
      rw [hchange] at hs
      exact congrArg Host.Outcome.next (routing_served hcom 3 tag hnone serveAssignArea hs (by simp [State.setOwner]) rfl)
    · have hs := serveAssignArea_some hfree' ((listening_inHandover l s d).trans hd)
      rw [listening_holderRecord, listening_owner] at hs
      refine ⟨fun hr => ?_, fun op r hr => ⟨fun hin => ?_, fun hin ho => ?_, fun hin ho => ?_⟩⟩
      · rw [hr] at hs
        exact congrArg Host.Outcome.next (routing_served_same hcom 3 tag (hsome d) serveAssignArea hs rfl)
      · rw [hr] at hs
        replace hs := hs.trans (if_neg (by simp [hin]))
        exact congrArg Host.Outcome.next (routing_served_same hcom 3 tag (hsome d) serveAssignArea hs rfl)
      · rw [hr] at hs
        replace hs := hs.trans (if_pos hin)
        rw [if_pos ho] at hs
        exact congrArg Host.Outcome.next (routing_served_same hcom 3 tag (hsome d) serveAssignArea hs rfl)
      · rw [hr] at hs
        replace hs := hs.trans (if_pos hin)
        rw [if_neg ho] at hs
        have hholder : s.holder d = some op := (holderRecord_some_iff.mp hr).1
        have hchange : changeOwner a (some d) (s.listening l) = enter
            { kind := .area, desk := some d, op := some op, d1 := some a.val
              d2 := some (((s.owner a).map Desk.code).getD 255) }
            ((s.listening l).setOwner a (some d)) := by simp [changeOwner, hholder]
        rw [hchange] at hs
        exact congrArg Host.Outcome.next (routing_served hcom 3 tag (hsome d) serveAssignArea hs (by simp [State.setOwner]) rfl)

end Sys2Proof.Machine
end

section
/-! PROOFS. Reading a key (O25), briefing (O37), and what a desk in handover does with the word of a change (O38). -/

namespace Sys2Proof.Machine

/-! ### Key slots -/

section Reading
variable {s : State} {d : Desk} {k : SlotId} {record : SixBytes}

theorem exec_settleEnd (hw : s.works = true) (h : (s.slot d k).state = .settling) (sense1 sense2 : Bool) :
    exec (.settleEnd d k sense1 sense2) s = .next (sampleBattery d k sense1 sense2 s) := by
  refine congrArg Host.Outcome.next ((whileWorking_of_works hw).trans ?_)
  rw [settleEnd, h]

theorem exec_readComplete (hw : s.works = true) (r : SixBytes) :
    exec (.readComplete d k r) s = .next (readComplete d k r s) :=
  congrArg Host.Outcome.next (whileWorking_of_works hw)

theorem exec_readTimeout (hw : s.works = true) : exec (.readTimeout d k) s = .next (readTimeout d k s) :=
  congrArg Host.Outcome.next (whileWorking_of_works hw)

theorem recordKey_toNat (r : SixBytes) :
    (recordKey r).toNat = 65536 * r.b0.toNat + 256 * r.b1.toNat + r.b2.toNat := by
  have h0 := r.b0.isLt
  have h1 := r.b1.isLt
  have h2 := r.b2.isLt
  simp only [recordKey, num, List.foldl_cons, List.foldl_nil, BitVec.toNat_ofNat]
  omega

theorem recordKey_eq_zero_iff (r : SixBytes) : recordKey r = 0 ↔ r.b0 = 0 ∧ r.b1 = 0 ∧ r.b2 = 0 := by
  have h := recordKey_toNat r
  simp only [← BitVec.toNat_inj, BitVec.toNat_zero, BitVec.ofNat_eq_ofNat]
  omega

theorem judgeRecord_check (h : sumsToZero record = false) : judgeRecord record = some .check := by
  simp [judgeRecord, h]

theorem judgeRecord_zeroKey (h : sumsToZero record = true) (hk : recordKey record = 0) :
    judgeRecord record = some .zeroKey := by
  simp [judgeRecord, h, hk]

theorem judgeRecord_kind (h : sumsToZero record = true) (hk : recordKey record ≠ 0) (h4 : record.b4 ≠ 1) :
    judgeRecord record = some .kind := by
  rw [judgeRecord, h, if_neg (by simp), if_neg hk, if_pos h4]

theorem judgeRecord_valid (h : sumsToZero record = true) (hk : recordKey record ≠ 0) (h4 : record.b4 = 1) :
    judgeRecord record = none := by
  rw [judgeRecord, h, if_neg (by simp), if_neg hk, if_neg (by simp [h4])]

theorem judgeRecord_none_iff :
    judgeRecord record = none ↔ sumsToZero record = true ∧ recordKey record ≠ 0 ∧ record.b4 = 1 := by
  refine ⟨fun hj => ?_, fun ⟨h, hk, h4⟩ => judgeRecord_valid h hk h4⟩
  cases h : sumsToZero record
  · rw [judgeRecord_check h] at hj
    cases hj
  · refine ⟨rfl, fun hk => ?_, Decidable.byContradiction fun h4 => ?_⟩
    · rw [judgeRecord_zeroKey h hk] at hj
      cases hj
    · by_cases hk : recordKey record = 0
      · rw [judgeRecord_zeroKey h hk] at hj
        cases hj
      · rw [judgeRecord_kind h hk h4] at hj
        cases hj

theorem readComplete_failed {bat : Battery} {n : Nat} {last : Option ReadFailure} {cause : ReadFailure}
    (h : (s.slot d k).state = .reading bat n last) (hj : judgeRecord record = some cause) :
    readComplete d k record s = failRead d k bat n cause s := by
  rw [readComplete, h]
  dsimp only
  rw [hj]

theorem readTimeout_reading {bat : Battery} {n : Nat} {last : Option ReadFailure}
    (h : (s.slot d k).state = .reading bat n last) : readTimeout d k s = failRead d k bat n .noAnswer s := by
  rw [readTimeout, h]

/-- With no attempt in flight a completion and a time-out are discarded (R70). -/
theorem read_idle (h : ∀ bat n last, (s.slot d k).state ≠ .reading bat n last) :
    readComplete d k record s = s ∧ readTimeout d k s = s := by
  rw [readComplete, readTimeout]
  cases hst : (s.slot d k).state with
  | reading bat n last => exact absurd hst (h bat n last)
  | _ => exact ⟨rfl, rfl⟩

end Reading

/-- Settles O25. -/
theorem keyRead : Obligations.KeyRead := by
  refine ⟨fun s d k sense2 hw h => ?_, fun s d k record hw => ?_,
    fun record => ⟨?_, recordKey_toNat record, ?_⟩⟩
  · refine ⟨exec_settleEnd hw h _ _, ?_, exec_settleEnd hw h _ _⟩
    exact exec_settleEnd hw h _ _
  · intro failed keyZero
    have hzero : recordKey record = 0 ↔ keyZero := recordKey_eq_zero_iff record
    refine ⟨fun bat n last hst => ?_, fun hidle => ?_⟩
    · have hfailed : ∀ {cause : ReadFailure}, judgeRecord record = some cause →
          exec (.readComplete d k record) s = .next (failed bat n cause cause.code) := fun hj => by
        rw [exec_readComplete hw, readComplete_failed hst hj]
        rfl
      refine ⟨fun h => hfailed (judgeRecord_check h), fun h hz => hfailed (judgeRecord_zeroKey h (hzero.mpr hz)),
        fun h hz h4 => hfailed (judgeRecord_kind h (mt hzero.mp hz) h4), ?_⟩
      rw [exec_readTimeout hw, readTimeout_reading hst]
      rfl
    · rw [exec_readComplete hw, exec_readTimeout hw, (read_idle hidle).1, (read_idle (record := record) hidle).2]
      exact ⟨rfl, rfl⟩
  · simp [sumsToZero]
  · rw [judgeRecord_none_iff, Ne, recordKey_eq_zero_iff]

/-! ### The carried list of a desk in handover -/

section Carried
variable {s : State} {d : Desk} {h : Handover} {k : SlotId} {inc : OpIndex} {t : Tag}

theorem carried_of_handover (hh : (s.unit d).state.handover? = some h) : s.carried d = h.carried := by
  rw [State.carried, hh]

theorem inHandover_of_handover (hh : (s.unit d).state.handover? = some h) : s.inHandover d = true := by
  rw [State.inHandover, hh]
  rfl

/-- The state of a desk in handover with its carried list replaced. -/
def State.carrying (s : State) (d : Desk) (entries : List Carried) : State :=
  s.putDeskState d ((s.unit d).state.mapHandover fun x => { x with carried := entries })

theorem mapCarried_eq (hh : (s.unit d).state.handover? = some h) (f : List Carried → List Carried) :
    s.mapCarried d f = s.carrying d (f h.carried) := by
  rw [State.mapCarried, State.carrying]
  cases hst : (s.unit d).state with
  | handoverOpen k h' =>
    rw [hst] at hh
    cases hh
    rfl
  | handoverReview k h' inc =>
    rw [hst] at hh
    cases hh
    rfl
  | _ =>
    rw [hst] at hh
    cases hh

theorem mapCarried_out (hout : s.inHandover d = false) (f : List Carried → List Carried) : s.mapCarried d f = s := by
  have hsame : (s.unit d).state.mapHandover (fun h => { h with carried := f h.carried }) = (s.unit d).state := by
    rw [State.inHandover] at hout
    cases hst : (s.unit d).state with
    | handoverOpen k h => rw [hst] at hout; cases hout
    | handoverReview k h inc => rw [hst] at hout; cases hout
    | _ => rfl
  rw [State.mapCarried, hsame, State.putDeskState]
  exact State.putUnit_unit s d

theorem mapCarried_review (hst : (s.unit d).state = .handoverReview k h inc) (f : List Carried → List Carried) :
    s.mapCarried d f = s.putDeskState d (.handoverReview k { h with carried := f h.carried } inc) := by
  rw [State.mapCarried, hst]
  rfl

/-- An unbriefed entry for a point that has one (R125). -/
theorem carryEntry_again (hh : (s.unit d).state.handover? = some h) (he : ∃ e ∈ h.carried, e.tag = t) (st : Standing) :
    carryEntry d t st s = s.carrying d
      (h.carried.map fun e => if e.tag = t then { tag := t, standing := st, briefed := false } else e) := by
  rw [carryEntry, if_pos (by simpa [carried_of_handover hh] using he), mapCarried_eq hh]

/-- One more entry, while there is room. -/
theorem carryEntry_new (hh : (s.unit d).state.handover? = some h) (he : ∀ e ∈ h.carried, e.tag ≠ t)
    (hroom : h.carried.length < 32) (st : Standing) :
    carryEntry d t st s = s.carrying d (h.carried ++ [{ tag := t, standing := st, briefed := false }]) := by
  have hdepth : Config.carriedDepth = 32 := rfl
  rw [carryEntry, carried_of_handover hh, if_neg (by simpa using he), if_pos (by omega), mapCarried_eq hh]

/-- A 33rd entry aborts the handover. -/
theorem carryEntry_full (hh : (s.unit d).state.handover? = some h) (he : ∀ e ∈ h.carried, e.tag ≠ t)
    (hfull : 32 ≤ h.carried.length) (st : Standing) : carryEntry d t st s = s.aborted d 4 := by
  have hdepth : Config.carriedDepth = 32 := rfl
  rw [carryEntry, carried_of_handover hh, if_neg (by simpa using he), if_neg (by omega)]
  exact abortHandover_eq d .carryFull s

theorem tellDesk_unack (hh : (s.unit d).state.handover? = some h) :
    tellDesk d t (some .unack) s = carryEntry d t .unack s :=
  if_pos (inHandover_of_handover hh)

theorem tellDesk_out (hout : s.inHandover d = false) (st : Option Standing) : tellDesk d t st s = s := by
  cases st with
  | none => exact mapCarried_out hout _
  | some st =>
    cases st with
    | unack => exact if_neg (by simp [hout])
    | rtnUnack => exact mapCarried_out hout _
    | acked => exact mapCarried_out hout _

theorem takeIn_carried {p : Point} {st : Standing} (hh : (s.unit d).state.handover? = some h) (hp : p.standing = some st)
    (hst : st ≠ .acked ∨ p.effective = 1) : takeIn d (t, p) s = carryEntry d t st s := by
  rw [takeIn, hp]
  exact if_pos (by rw [(toCarry_iff p).mpr ⟨st, hp, hst⟩, inHandover_of_handover hh]; rfl)

theorem takeIn_nothing {p : Point}
    (hp : s.inHandover d = false ∨ p.standing = none ∨ (p.standing = some .acked ∧ p.effective ≠ 1)) :
    takeIn d (t, p) s = s := by
  rw [takeIn]
  rcases hp with hout | hp | ⟨hp, heff⟩
  · cases p.standing with
    | none => rfl
    | some st => exact if_neg (by simp [hout])
  · rw [hp]
  · rw [hp]
    exact if_neg (by simp [Point.toCarry, hp, heff])

end Carried

/-- Settles O38: each word by the entry it meets. -/
theorem carriedListFollows : Obligations.CarriedListFollows := by
  intro s d t h
  refine ⟨fun hout st => tellDesk_out hout st, fun hh => ?_, fun p hp => takeIn_nothing hp, fun st => ⟨rfl, rfl⟩⟩
  refine ⟨?_, fun st hst => ?_, fun he => ?_, fun he => ⟨fun hroom => ?_, fun hfull => ?_⟩, fun p st hp hst =>
    ⟨fun he => ?_, fun he => ⟨fun hroom => ?_, fun hfull => ?_⟩⟩⟩
  · refine (mapCarried_eq hh _).trans ?_
    simp only [decide_not]
    rfl
  · cases st with
    | unack => exact absurd rfl hst
    | rtnUnack => exact mapCarried_eq hh _
    | acked => exact mapCarried_eq hh _
  · exact (tellDesk_unack hh).trans (carryEntry_again hh he .unack)
  · exact (tellDesk_unack hh).trans (carryEntry_new hh he hroom .unack)
  · exact (tellDesk_unack hh).trans (carryEntry_full hh he hfull .unack)
  · exact (takeIn_carried hh hp hst).trans (carryEntry_again hh he st)
  · exact (takeIn_carried hh hp hst).trans (carryEntry_new hh he hroom st)
  · exact (takeIn_carried hh hp hst).trans (carryEntry_full hh he hfull st)

/-! ### Briefing -/

section Briefing
variable {s : State} {d : Desk} {h : Handover} {k : SlotId} {inc : OpIndex} {t : Tag} {e : Carried}

theorem putDeskState_handover (s : State) (d : Desk) (k : SlotId) (h : Handover) (inc : OpIndex) :
    ((s.putDeskState d (.handoverReview k h inc)).unit d).state.handover? = some h := by
  rw [putDeskState_unit]
  rfl

/-- A desk after an entry is briefed: the mark, and BRIEF with the number left (R130). -/
def State.briefed (s : State) (d : Desk) (k : SlotId) (h : Handover) (inc : OpIndex) (t : Tag) (how : Nat) : State :=
  enter { kind := .brief, desk := some d, op := some inc, tag := some t
          d1 := some (unbriefed (markBriefed t h.carried)).length, d2 := some how }
    (s.putDeskState d (.handoverReview k { h with carried := markBriefed t h.carried } inc))

theorem briefEntry_review (hst : (s.unit d).state = .handoverReview k h inc) (how : Nat) :
    briefEntry d inc t how s = s.briefed d k h inc t how := by
  have hcarried : (s.putDeskState d (.handoverReview k { h with carried := markBriefed t h.carried } inc)).carried d =
      markBriefed t h.carried := carried_of_handover (putDeskState_handover _ _ _ _ _)
  rw [briefEntry, mapCarried_review hst, State.briefed]
  rw [hcarried]

theorem briefed_carried (s : State) (d : Desk) (how : Nat) :
    (s.briefed d k h inc t how).carried d = markBriefed t h.carried :=
  carried_of_handover ((congrArg (fun u => u.state.handover?) (enter_unit _ _ d)).trans (putDeskState_handover _ _ _ _ _))

theorem serveBrief_found (hst : (s.unit d).state = .handoverReview k h inc)
    (hfind : h.carried.find? (fun e => decide (e.tag = t)) = some e) :
    serveBrief (d, t) s =
      (if e.briefed then s else briefEntry d inc t 2 s, .ok (briefBody d t (if e.briefed then s else briefEntry d inc t 2 s))) := by
  rw [serveBrief, hst]
  dsimp only
  rw [hfind]

theorem serveBrief_refused
    (h : (∀ k h inc, (s.unit d).state ≠ .handoverReview k h inc) ∨ (∀ e ∈ s.carried d, e.tag ≠ t)) :
    serveBrief (d, t) s = (s, .refused .wrongState) := by
  rw [serveBrief]
  cases hst : (s.unit d).state with
  | handoverReview k x inc =>
    rcases h with h | h
    · exact absurd hst (h k x inc)
    · have hnone : x.carried.find? (fun e => decide (e.tag = t)) = none := by
        rw [carried_of_handover (h := x) (by rw [hst]; rfl)] at h
        simpa using h
      dsimp only
      rw [hnone]
  | _ => rfl

theorem handPress_briefs (hst : (s.unit d).state = .handoverReview k h inc)
    (hhead : (unbriefed h.carried).head? = some e) : handPress d s = briefEntry d inc e.tag 1 s := by
  obtain ⟨rest, hrest⟩ := List.head?_eq_some_iff.mp hhead
  rw [handPress, hst]
  dsimp only
  rw [hrest]

end Briefing

/-- Settles O37. -/
theorem briefing : Obligations.Briefing := by
  refine ⟨fun s d k h inc t e hst hfind => ?_, fun s l tag d t hcom href => ?_⟩
  · intro marked left briefed
    have htag : e.tag = t := by simpa using List.find?_some hfind
    refine ⟨fun l tag hcom => ⟨fun hnot => ?_, fun hyes => ?_⟩, fun hw hhead => ?_⟩
    · have hst' : ((s.listening l).unit d).state = .handoverReview k h inc := by rw [listening_unit, hst]
      have hs := serveBrief_found hst' hfind
      rw [hnot, if_neg (by simp), briefEntry_review hst', briefBody, briefed_carried] at hs
      exact congrArg Host.Outcome.next (command_served hcom 13 tag (readDeskTag_be d t) serveBrief hs
        ((enter_phase _ _).trans (listening_phase l s)) rfl)
    · have hst' : ((s.listening l).unit d).state = .handoverReview k h inc := by rw [listening_unit, hst]
      have hs := serveBrief_found hst' hfind
      rw [hyes, if_pos rfl, briefBody, listening_carried, carried_of_handover (h := h) (by rw [hst]; rfl)] at hs
      exact congrArg Host.Outcome.next (command_served hcom 13 tag (readDeskTag_be d t) serveBrief hs
        (listening_phase l s) rfl)
    · refine congrArg Host.Outcome.next ((whileWorking_of_works hw).trans ?_)
      rw [handPress_briefs hst hhead, htag, briefEntry_review hst]
      rfl
  · have hs : serveBrief (d, t) (s.listening l) = (s.listening l, .refused .wrongState) :=
      serveBrief_refused (by rwa [listening_unit, listening_carried])
    exact congrArg Host.Outcome.next (command_served hcom 13 tag (readDeskTag_be d t) serveBrief hs
      (listening_phase l s) rfl)

end Sys2Proof.Machine
end

section
/-! PROOFS. Changes of a point's state, and the intake frames (O13, O14, O15). -/

namespace Sys2Proof.Machine

/-! ### Changes of state (R10) -/

section Change
variable {x : Target} {t : Tag} {old new : Point} {s : State}

/-- A change of state is written, journalled and told (R10). -/
theorem changePointAt_moves (h : old.state.code ≠ new.state.code) :
    changePointAt x t old new s = tellTarget x t new.standing
      (enter { kind := .state, desk := x.desk?, tag := some t, d1 := some old.state.code, d2 := some new.state.code }
        (s.putPoint t new.unlisted)) := if_pos h

/-- What an arrival at a target leaves: the weight, the record in UNACK, STATE and the word to the desk (R9, R55). -/
theorem arriveAt_eq {τ : Word32} (hst : new.state = .unack τ) (hold : old.state.code ≠ 1) (hb : new.base ≤ 3) :
    arriveAt x t old new s = tellTarget x t (some .unack)
      (enter { kind := .state, desk := x.desk?, tag := some t, d1 := some old.state.code, d2 := some 1 }
        ((s.putLoad x { s.loadOf x with w := min 255 ((s.loadOf x).w + arrivalWeight new.base) }).putPoint t
          { new with silenced := decide (new.base = 3) && (s.loadOf x).flood })) := by
  have hcode : new.state.code = 1 := by rw [hst]; rfl
  have hstand : ∀ b, ({ new with silenced := b } : Point).standing = some .unack := fun b => by
    simp only [Point.standing, hst, if_pos hb]
  rw [arriveAt, changePointAt_moves (by simpa only [hcode] using hold), hstand,
    unlisted_eq_self fun _ => by rw [hstand]; rfl]
  simp only [hcode]
  rfl

/-- An arrival at the target of the point's area. -/
theorem arrive_eq (hold : old.state.code ≠ 1) (hb : new.base ≤ 3) :
    arrive t old new s = tellTarget (s.target new.area) t (some .unack)
      (enter { kind := .state, desk := (s.target new.area).desk?, tag := some t, d1 := some old.state.code, d2 := some 1 }
        ((s.putLoad (s.target new.area) { s.loadOf (s.target new.area) with
            w := min 255 ((s.loadOf (s.target new.area)).w + arrivalWeight new.base) }).putPoint t
          { new with
            state := .unack s.runSeconds, effective := new.base
            silenced := decide (new.base = 3) && (s.loadOf (s.target new.area)).flood })) :=
  arriveAt_eq rfl hold hb

end Change

/-! ### The table written before or after an entry -/

theorem append_putPoint (w : Draft) (s : State) (t : Tag) (p : Point) :
    (append w s).putPoint t p = append w (s.putPoint t p) := by
  simp only [append, State.putPoint, State.stamp, State.millNow]

theorem setPending_putPoint (c : AttnClass) (s : State) (t : Tag) (p : Point) :
    (setPending c s).putPoint t p = setPending c (s.putPoint t p) := by
  rw [setPending, setPending, State.putPoint_attention]
  by_cases hp : inClasses s.attention.pending c = true
  · rw [if_pos hp, if_pos hp]
  · rw [if_neg hp, if_neg hp]
    dsimp only
    by_cases he : inClasses s.attention.enabled c = true
    · rw [if_pos he, if_pos he]
      rfl
    · rw [if_neg he, if_neg he]
      rfl

theorem enter_putPoint (w : Draft) (s : State) (t : Tag) (p : Point) :
    (enter w s).putPoint t p = enter w (s.putPoint t p) := by
  cases hw : w.kind.row.2 with
  | none => rw [enter_none hw, enter_none hw, append_putPoint]
  | some c => rw [enter_some hw, enter_some hw, setPending_putPoint, append_putPoint]

theorem append_putEventLink (w : Draft) (s : State) (l : EventLink) (v : IntakeLink) :
    (append w s).putEventLink l v = append w (s.putEventLink l v) := by
  simp only [append, State.putEventLink, State.stamp, State.millNow]

theorem setPending_putEventLink (c : AttnClass) (s : State) (l : EventLink) (v : IntakeLink) :
    (setPending c s).putEventLink l v = setPending c (s.putEventLink l v) := by
  rw [setPending, setPending, State.putEventLink_attention]
  by_cases hp : inClasses s.attention.pending c = true
  · rw [if_pos hp, if_pos hp]
  · rw [if_neg hp, if_neg hp]
    dsimp only
    by_cases he : inClasses s.attention.enabled c = true
    · rw [if_pos he, if_pos he]
      rfl
    · rw [if_neg he, if_neg he]
      rfl

theorem enter_putEventLink (w : Draft) (s : State) (l : EventLink) (v : IntakeLink) :
    (enter w s).putEventLink l v = enter w (s.putEventLink l v) := by
  cases hw : w.kind.row.2 with
  | none => rw [enter_none hw, enter_none hw, append_putEventLink]
  | some c => rw [enter_some hw, enter_some hw, setPending_putEventLink, append_putEventLink]

@[simp] theorem putEventLink_putEventLink (s : State) (l : EventLink) (v w : IntakeLink) :
    (s.putEventLink l v).putEventLink l w = s.putEventLink l w := by
  cases l <;> rfl

@[simp] theorem enter_eventLink (w : Draft) (s : State) (l : EventLink) : (enter w s).eventLink l = s.eventLink l := by
  simp [State.eventLink]

/-! ### A frame taken -/

section Taken
variable (l : EventLink) (f : SixBytes) (rest : List SixBytes) (s : State)

/-- The queue left by its head, the hold line released (R27, R28). -/
def State.popped : State := s.putEventLink l { s.eventLink l with queue := rest, holdLine := false }

theorem exec_intakeTake {s : State} (hw : s.works = true) (hq : (s.eventLink l).queue = f :: rest) :
    exec (.intakeTake l) s = .next (checkFrame l f (s.popped l rest)) := by
  refine congrArg Host.Outcome.next ((whileWorking_of_works hw).trans ?_)
  rw [intakeTake, hq]
  rfl

/-- The comparison of the sequence number of a frame taken (R30). -/
theorem compareSequence_popped : compareSequence l f.b4 (s.popped l rest) = s.frameTaken l f rest := by
  have hexp : ((s.popped l rest).eventLink l).expected = (s.eventLink l).expected := by
    rw [State.popped, State.eventLink_putEventLink_self]
  rw [compareSequence, State.frameTaken, hexp]
  cases (s.eventLink l).expected with
  | none => simp [State.popped]
  | some e =>
    dsimp only
    split
    · simp [State.popped]
    · rw [enter_putEventLink, State.popped, putEventLink_putEventLink, enter_eventLink, State.eventLink_putEventLink_self]
      rfl

theorem frameTaken_as : s.frameTaken l f rest = { s with
    intake := (s.frameTaken l f rest).intake, journal := (s.frameTaken l f rest).journal
    nextSeq := (s.frameTaken l f rest).nextSeq, attention := (s.frameTaken l f rest).attention
    links := (s.frameTaken l f rest).links } := by
  rw [State.frameTaken]
  split
  · split
    · rfl
    · rw [enter_as]
      rfl
  · rfl

@[simp] theorem frameTaken_points : (s.frameTaken l f rest).points = s.points := by rw [frameTaken_as]
@[simp] theorem frameTaken_runSeconds : (s.frameTaken l f rest).runSeconds = s.runSeconds := by rw [frameTaken_as]
@[simp] theorem frameTaken_load : (s.frameTaken l f rest).load = s.load := by rw [frameTaken_as]
@[simp] theorem frameTaken_target (a : Area) : (s.frameTaken l f rest).target a = s.target a := by
  rw [frameTaken_as]
  rfl

@[simp] theorem frameTaken_point (t : Tag) : (s.frameTaken l f rest).point t = s.point t := by simp [State.point]
@[simp] theorem frameTaken_loadOf (x : Target) : (s.frameTaken l f rest).loadOf x = s.loadOf x := by simp [State.loadOf]

end Taken

/-! ### The tests of a frame -/

section Tests
variable {l : EventLink} {f : SixBytes} {rest : List SixBytes} {s : State} {t : Tag}

theorem num_two (b c : Byte) : num [b, c] = 256 * b.toNat + c.toNat := by
  simp only [num, List.foldl_cons, List.foldl_nil]
  omega

theorem frameKind_none {b : Byte} (h1 : b ≠ 1) (h2 : b ≠ 2) : frameKind b.toNat = none := by
  have h1' : b.toNat ≠ 1 := fun h => h1 (BitVec.eq_of_toNat_eq h)
  have h2' : b.toNat ≠ 2 := fun h => h2 (BitVec.eq_of_toNat_eq h)
  unfold frameKind
  split
  · exact absurd ‹_› h1'
  · exact absurd ‹_› h2'
  · rfl

theorem checkFrame_check (h : sumsToZero f = false) : checkFrame l f s = badFrame l .check none none s :=
  if_neg (by simp [h])

theorem checkFrame_tag (h : sumsToZero f = true) (ht : 1023 < 256 * f.b1.toNat + f.b2.toNat) :
    checkFrame l f s = badFrame l .tag none (some f.b4.toNat) (compareSequence l f.b4 s) := by
  have htag : tagOf (num [f.b1, f.b2]) = none := by rw [num_two]; exact tagOf_eq_none ht
  rw [checkFrame, if_pos h]
  dsimp only
  rw [htag]

theorem checkFrame_tagged (h : sumsToZero f = true) (ht : 256 * f.b1.toNat + f.b2.toNat = t.val) :
    checkFrame l f s = match frameKind f.b3.toNat with
      | none => badFrame l .kind none (some f.b4.toNat) (compareSequence l f.b4 s)
      | some isActive => resolveFrame l f t isActive (compareSequence l f.b4 s) := by
  have htag : tagOf (num [f.b1, f.b2]) = some t := by rw [num_two, ht]; exact tagOf_val t
  rw [checkFrame, if_pos h]
  dsimp only
  rw [htag] <;> rfl

theorem checkFrame_kind (h : sumsToZero f = true) (ht : 256 * f.b1.toNat + f.b2.toNat = t.val) (h1 : f.b3 ≠ 1)
    (h2 : f.b3 ≠ 2) : checkFrame l f s = badFrame l .kind none (some f.b4.toNat) (compareSequence l f.b4 s) := by
  rw [checkFrame_tagged h ht, frameKind_none h1 h2]

theorem checkFrame_active (h : sumsToZero f = true) (ht : 256 * f.b1.toNat + f.b2.toNat = t.val) (h1 : f.b3 = 1) :
    checkFrame l f s = resolveFrame l f t true (compareSequence l f.b4 s) := by
  rw [checkFrame_tagged h ht, h1]
  rfl

theorem checkFrame_clear (h : sumsToZero f = true) (ht : 256 * f.b1.toNat + f.b2.toNat = t.val) (h2 : f.b3 = 2) :
    checkFrame l f s = resolveFrame l f t false (compareSequence l f.b4 s) := by
  rw [checkFrame_tagged h ht, h2]
  rfl

theorem resolveFrame_area {isActive : Bool} (hp : s.point t = none) (ha : 63 < f.b0.toNat) :
    resolveFrame l f t isActive s = badFrame l .area (some t) (some f.b4.toNat) s := by
  rw [resolveFrame, hp]
  dsimp only
  rw [areaOf_eq_none ha]

theorem exec_intakeFrame (hw : s.works = true) (bytes : List Byte) :
    exec (.intakeFrame l bytes) s = .next (intakeFrame l bytes s) :=
  congrArg Host.Outcome.next (whileWorking_of_works hw)

theorem sixOf_none {bytes : List Byte} (h : bytes.length ≠ 6) : sixOf bytes = none := by
  unfold sixOf
  split
  · exact absurd rfl h
  · rfl

end Tests

/-- Settles O13: the tests in their order. -/
theorem intakeFrames : Obligations.IntakeFrames := by
  refine ⟨fun s l f bytes hw => ⟨fun hlen => ?_, fun hfull => ?_, fun hroom => ?_, fun heighth => ?_⟩,
    fun s l f rest hw hq => ?_, fun s l received => ?_⟩
  · rw [exec_intakeFrame hw, intakeFrame, sixOf_none hlen]
    rfl
  · have hdepth : Config.intakeDepth = 8 := rfl
    rw [exec_intakeFrame hw, intakeFrame, show sixOf (sixList f) = some f from rfl]
    exact congrArg Host.Outcome.next (if_neg (by omega))
  · have hdepth : Config.intakeDepth = 8 := rfl
    rw [exec_intakeFrame hw, intakeFrame, show sixOf (sixList f) = some f from rfl]
    refine congrArg Host.Outcome.next ((if_pos (by omega)).trans (if_neg ?_))
    rw [List.length_append, List.length_singleton]
    omega
  · have hdepth : Config.intakeDepth = 8 := rfl
    rw [exec_intakeFrame hw, intakeFrame, show sixOf (sixList f) = some f from rfl]
    refine congrArg Host.Outcome.next ((if_pos (by omega)).trans (if_pos ?_))
    rw [List.length_append, List.length_singleton]
    omega
  · intro popped compared bad t
    rw [exec_intakeTake l f rest hw hq]
    have hcompared : compared = s.frameTaken l f rest := compareSequence_popped l f rest s
    refine ⟨fun hz => ?_, fun hz ht => ?_, fun hz ht h1 h2 => ?_, fun ht hz hk hp ha => ?_⟩
    · rw [checkFrame_check hz]
      rfl
    · rw [checkFrame_tag hz ht]
      rfl
    · rw [checkFrame_kind (t := ⟨t, by omega⟩) hz rfl h1 h2]
      rfl
    · have hp' : compared.point ⟨t, ht⟩ = none := by rw [hcompared, frameTaken_point, hp]
      rcases hk with h1 | h2
      · rw [checkFrame_active (t := ⟨t, ht⟩) hz rfl h1]
        exact congrArg Host.Outcome.next (resolveFrame_area hp' ha)
      · rw [checkFrame_clear (t := ⟨t, ht⟩) hz rfl h2]
        exact congrArg Host.Outcome.next (resolveFrame_area hp' ha)
  · rw [compareSequence]
    cases (s.eventLink l).expected with
    | none => rfl
    | some e =>
      dsimp only
      split
      · rfl
      · rw [enter_eventLink]
        rfl

end Sys2Proof.Machine
end

section
/-! PROOFS. The intake frames that reach a point (O14, O15). -/

namespace Sys2Proof.Machine

/-! ### The header of a frame (R32) -/

/-- A frame taken for a point of the table, a mismatched header journalled (R32). -/
def State.frameNoted (l : EventLink) (f : SixBytes) (rest : List SixBytes) (t : Tag) (p : Point) (s : State) : State :=
  if p.origin = .configured ∧ f.b0.toNat ≠ p.area.val then
    enter { kind := .intakeMismatch, tag := some t, d1 := some (256 * l.code + f.b0.toNat), d2 := some p.area.val }
      (s.frameTaken l f rest)
  else s.frameTaken l f rest

section Noted
variable {l : EventLink} {f : SixBytes} {rest : List SixBytes} {t : Tag} {p : Point} {s : State}

theorem frameNoted_target (a : Area) : (s.frameNoted l f rest t p).target a = s.target a := by
  rw [State.frameNoted]
  split <;> simp

theorem frameNoted_runSeconds : (s.frameNoted l f rest t p).runSeconds = s.runSeconds := by
  rw [State.frameNoted]
  split <;> simp

theorem frameNoted_loadOf (x : Target) : (s.frameNoted l f rest t p).loadOf x = s.loadOf x := by
  rw [State.frameNoted, State.loadOf, State.loadOf]
  split <;> simp

theorem frameNoted_point (u : Tag) : (s.frameNoted l f rest t p).point u = s.point u := by
  rw [State.frameNoted, State.point, State.point]
  split <;> simp

/-- A frame taken for a point of the table is applied after its header (R28, R32). -/
theorem resolveFrame_point (hp : s.point t = some p) (isActive : Bool) :
    resolveFrame l f t isActive (s.frameTaken l f rest) =
      if isActive then activeFrame t p (s.frameNoted l f rest t p) else clearFrame t p (s.frameNoted l f rest t p) := by
  have happly : resolveFrame l f t isActive (s.frameTaken l f rest) =
      applyFrame t isActive (s.frameNoted l f rest t p) := by
    rw [resolveFrame, frameTaken_point, hp, State.frameNoted]
    dsimp only
    split <;> rfl
  rw [happly, applyFrame, frameNoted_point, hp]

theorem exec_intakeTake_active (hw : s.works = true) (hq : (s.eventLink l).queue = f :: rest) (hz : sumsToZero f = true)
    (ht : 256 * f.b1.toNat + f.b2.toNat = t.val) (h1 : f.b3 = 1) (hp : s.point t = some p) :
    exec (.intakeTake l) s = .next (activeFrame t p (s.frameNoted l f rest t p)) := by
  rw [exec_intakeTake l f rest hw hq, checkFrame_active hz ht h1, compareSequence_popped, resolveFrame_point hp, if_pos rfl]

theorem exec_intakeTake_clear (hw : s.works = true) (hq : (s.eventLink l).queue = f :: rest) (hz : sumsToZero f = true)
    (ht : 256 * f.b1.toNat + f.b2.toNat = t.val) (h2 : f.b3 = 2) (hp : s.point t = some p) :
    exec (.intakeTake l) s = .next (clearFrame t p (s.frameNoted l f rest t p)) := by
  rw [exec_intakeTake l f rest hw hq, checkFrame_clear hz ht h2, compareSequence_popped, resolveFrame_point hp,
    if_neg (by simp)]

end Noted

/-! ### ACTIVE and CLEAR by the point's state -/

section Frames
variable {t : Tag} {p : Point} {s : State} {τ : Word32}

theorem Point.unlisted_of_recordOnly (h : 3 < p.base) : p.unlisted = { p with silenced := false } := by
  rw [Point.unlisted, if_neg (by simp [Point.standing, Nat.not_le.mpr h])]

theorem standing_of_recordOnly (h : 3 < p.base) : p.standing = none := by
  rw [Point.standing, if_neg (by omega)]

theorem Point.Lawful.not_silenced_of_recordOnly (hp : p.Lawful) (h : 3 < p.base) : p.silenced = false := by
  cases hs : p.silenced with
  | false => rfl
  | true =>
    have := hp.standing_of_silenced hs
    rw [standing_of_recordOnly h] at this
    cases this

theorem Point.Lawful.effective_of_recordOnly (hp : p.Lawful) (h : 3 < p.base) : p.effective = p.base := by
  obtain ⟨-, h4, -, -, -, -, -, -, heff, -⟩ := hp
  have hb : p.base = 4 := by omega
  rw [heff hb, hb]

/-- A record-only point's record as auto-acknowledgement leaves it. -/
theorem Point.Lawful.ackedRecord (hp : p.Lawful) (h : 3 < p.base) {st : PointState} {repeats : Nat} :
    ({ p with active := true, repeats := repeats, state := st, effective := p.base, silenced := false } : Point) =
      { p with active := true, repeats := repeats, state := st } := by
  simp [hp.effective_of_recordOnly h, hp.not_silenced_of_recordOnly h]

theorem arrivalWeight_eq (h1 : 1 ≤ p.base) (h3 : p.base ≤ 3) :
    arrivalWeight p.base = match p.base with | 1 => 4 | 2 => 2 | _ => 1 := by
  have hb : p.base = 1 ∨ p.base = 2 ∨ p.base = 3 := by omega
  rcases hb with hb | hb | hb <;> rw [hb] <;> rfl

/-- A record-only point is auto-acknowledged (R15, R103). -/
theorem autoAcknowledge_eq {old new : Point} (hold : old.state.code ≠ 2) (hb : 3 < new.base) :
    autoAcknowledge t old new s = tellTarget (s.target new.area) t none
      (enter { kind := .state, desk := (s.target new.area).desk?, tag := some t, d1 := some old.state.code, d2 := some 2 }
        ((enter { kind := .ack, tag := some t, d1 := some old.state.code } s).putPoint t
          { new with state := .acked s.runSeconds, effective := new.base, silenced := false })) := by
  have hstand : ({ new with state := .acked s.runSeconds, effective := new.base } : Point).standing = none :=
    standing_of_recordOnly hb
  have hunlisted := Point.unlisted_of_recordOnly (p := { new with state := .acked s.runSeconds, effective := new.base }) hb
  rw [autoAcknowledge, changePoint, changePointAt_moves hold, hstand, hunlisted, enter_target]
  rfl

theorem standing_toNormal (p : Point) : p.toNormal.standing = none := ite_self none

theorem activeFrame_normal (hst : p.state = .normal) : activeFrame t p s =
    if p.base ≤ 3 then arrive t p { p with active := true, repeats := 0 } s
    else autoAcknowledge t p { p with active := true, repeats := 0 } s := by
  rw [activeFrame, hst]

theorem activeFrame_rtnUnack (hst : p.state = .rtnUnack τ) (hb : p.base ≤ 3) : activeFrame t p s =
    arrive t p { p with active := true, repeats := min 255 (p.repeats + 1) } s := by
  rw [activeFrame, hst]
  exact if_pos hb

theorem activeFrame_stays (hst : p.state = .unack τ ∨ p.state = .acked τ ∨ ∃ op, p.state = .shelved τ op) :
    activeFrame t p s = s.putPoint t { p with active := true } := by
  rw [activeFrame]
  rcases hst with h | h | ⟨op, h⟩ <;> rw [h]

theorem clearFrame_unack (hst : p.state = .unack τ) (hb : p.base ≤ 3) : clearFrame t p s =
    tellTarget (s.target p.area) t (some .rtnUnack)
      (enter { kind := .state, desk := (s.target p.area).desk?, tag := some t, d1 := some 1, d2 := some 3 }
        (s.putPoint t { p with active := false, state := .rtnUnack τ })) := by
  have hstand : ({ p with active := false, state := .rtnUnack τ } : Point).standing = some .rtnUnack := by
    simp only [Point.standing, if_pos hb]
  have hclear : clearFrame t p s = changePoint t p { p with active := false, state := .rtnUnack τ } s := by
    rw [clearFrame, hst]
    exact if_pos hb
  rw [hclear, changePoint, changePointAt_moves (by rw [hst]; exact (by decide : (1 : Nat) ≠ 3)), hstand,
    unlisted_eq_self fun _ => by rw [hstand]; rfl, hst]
  rfl

theorem clearFrame_acked (hst : p.state = .acked τ) : clearFrame t p s =
    tellTarget (s.target p.area) t none
      (enter { kind := .state, desk := (s.target p.area).desk?, tag := some t, d1 := some 2, d2 := some 0 }
        (s.putPoint t { p with active := false, state := .normal, effective := p.base, silenced := false })) := by
  have hstand : (Point.toNormal { p with active := false }).standing = none := standing_toNormal _
  have hclear : clearFrame t p s = changePoint t p (Point.toNormal { p with active := false }) s := by
    rw [clearFrame, hst]
  rw [hclear, changePoint, changePointAt_moves (by rw [hst]; exact (by decide : (2 : Nat) ≠ 0)), hstand, Point.unlisted,
    hstand, hst]
  rfl

theorem clearFrame_stays (hst : p.state = .normal ∨ p.state = .rtnUnack τ ∨ ∃ op, p.state = .shelved τ op) :
    clearFrame t p s = s.putPoint t { p with active := false } := by
  rw [clearFrame]
  rcases hst with h | h | ⟨op, h⟩ <;> rw [h]

end Frames

/-- Settles O14: ACTIVE, then CLEAR, by the point's state. -/
theorem intakeApplied : Obligations.IntakeApplied := by
  refine ⟨fun s l f rest t p hw hq hz ht h1 hp hlaw => ?_, fun s l f rest t p hw hq hz ht h2 hp hlaw => ?_⟩
  · intro taken u tgt ld arrived weighed change
    have htgt : u.target p.area = tgt := frameNoted_target p.area
    have hnow : u.runSeconds = s.runSeconds := frameNoted_runSeconds
    have hload : u.loadOf tgt = ld := frameNoted_loadOf tgt
    refine (exec_intakeTake_active hw hq hz ht h1 hp).trans (congrArg Host.Outcome.next ?_)
    have harrive : ∀ (repeats : Nat) {code : Nat}, p.state.code = code → code ≠ 1 → p.base ≤ 3 →
        arrive t p { p with active := true, repeats := repeats } u =
          tellTarget tgt t (some .unack) (enter (change code 1) (weighed.putPoint t (arrived repeats))) := by
      intro repeats code hcode hne hb
      subst hcode
      have hweight := arrivalWeight_eq hlaw.1 hb
      refine (arrive_eq (new := { p with active := true, repeats := repeats }) hne hb).trans ?_
      dsimp only
      rw [htgt, hnow, hload, hweight] <;> rfl
    generalize hkept : u.putPoint t { p with active := true } = kept
    cases hst : p.state with
    | normal =>
      refine (activeFrame_normal hst).trans ?_
      by_cases hb : p.base ≤ 3
      · rw [if_pos hb]
        exact (harrive 0 (by rw [hst]; rfl) (by decide) hb).trans (if_pos hb).symm
      · have hb' : 3 < p.base := by omega
        have hack := autoAcknowledge_eq (t := t) (old := p) (new := { p with active := true, repeats := 0 }) (s := u)
          (by rw [hst]; exact (by decide : (0 : Nat) ≠ 2)) hb'
        dsimp only at hack
        rw [htgt, hnow, hst, hlaw.ackedRecord hb'] at hack
        rw [if_neg hb]
        exact hack.trans (if_neg hb).symm
    | rtnUnack τ =>
      have hb : p.base ≤ 3 := hlaw.base_of_unacknowledged (by rw [Point.unacknowledged, hst])
      exact (activeFrame_rtnUnack hst hb).trans (harrive _ (by rw [hst]; rfl) (by decide) hb)
    | unack τ => exact (activeFrame_stays (.inl hst)).trans hkept
    | acked τ => exact (activeFrame_stays (.inr (.inl hst))).trans hkept
    | shelved τ op => exact (activeFrame_stays (.inr (.inr ⟨op, hst⟩))).trans hkept
  · intro taken u tgt change
    have htgt : u.target p.area = tgt := frameNoted_target p.area
    refine (exec_intakeTake_clear hw hq hz ht h2 hp).trans (congrArg Host.Outcome.next ?_)
    generalize hkept : u.putPoint t { p with active := false } = kept
    cases hst : p.state with
    | unack τ =>
      have hb : p.base ≤ 3 := hlaw.base_of_unacknowledged (by rw [Point.unacknowledged, hst])
      refine (clearFrame_unack (s := u) hst hb).trans ?_
      rw [htgt]
    | acked τ =>
      refine (clearFrame_acked (s := u) hst).trans ?_
      rw [htgt]
    | normal => exact (clearFrame_stays (τ := 0) (.inl hst)).trans hkept
    | rtnUnack τ => exact (clearFrame_stays (.inr (.inl hst))).trans hkept
    | shelved τ op => exact (clearFrame_stays (.inr (.inr ⟨op, hst⟩))).trans hkept

/-! ### Unknown tags (R4, R33) -/

section Unknown
variable {l : EventLink} {f : SixBytes} {rest : List SixBytes} {t : Tag} {a : Area} {s : State}

/-- A provisional point is made and the frame applied to it. -/
theorem resolveFrame_unknown (hp : s.point t = none) (ha : f.b0.toNat = a.val) (isActive : Bool) :
    let u := enter { kind := .provisional, tag := some t, d1 := some (256 * l.code + a.val) } s
    resolveFrame l f t isActive s =
      if isActive then activeFrame t (provisionalPoint a) (u.putPoint t (provisionalPoint a))
      else clearFrame t (provisionalPoint a) (u.putPoint t (provisionalPoint a)) := by
  have harea : areaOf f.b0.toNat = some a := by rw [ha]; exact areaOf_val a
  intro u
  have happly : resolveFrame l f t isActive s = applyFrame t isActive (u.putPoint t (provisionalPoint a)) := by
    rw [resolveFrame, hp]
    dsimp only
    rw [harea, ha, enter_putPoint]
    rfl
  rw [happly, applyFrame, State.point_putPoint_self]

/-- The arrival of a point just made. -/
theorem arrive_provisional (u : State) :
    activeFrame t (provisionalPoint a) (u.putPoint t (provisionalPoint a)) =
      tellTarget (u.target a) t (some .unack)
        (enter { kind := .state, desk := (u.target a).desk?, tag := some t, d1 := some 0, d2 := some 1 }
          ((u.putLoad (u.target a) { u.loadOf (u.target a) with w := min 255 ((u.loadOf (u.target a)).w + 4) }).putPoint t
            { provisionalPoint a with state := .unack u.runSeconds, active := true })) := by
  have hload : ∀ (s : State) (x : Target) (v : Load) (p : Point),
      (s.putPoint t p).putLoad x v = (s.putLoad x v).putPoint t p := fun _ _ _ _ => rfl
  have harrive := arrive_eq (t := t) (old := provisionalPoint a)
    (new := { provisionalPoint a with active := true, repeats := 0 }) (s := u.putPoint t (provisionalPoint a))
    (by exact (by decide : (0 : Nat) ≠ 1)) (by exact (by decide : (1 : Nat) ≤ 3))
  rw [hload, State.putPoint_put] at harrive
  exact (activeFrame_normal rfl).trans ((if_pos (by exact (by decide : (1 : Nat) ≤ 3))).trans harrive)

end Unknown

/-- Settles O15. -/
theorem unknownTagArrives : Obligations.UnknownTagArrives := by
  intro s l f rest t a hw hq hz ht hp ha taken u tgt made
  have hp' : taken.point t = none := (frameTaken_point l f rest s t).trans hp
  have htgt : u.target a = tgt := (enter_target _ _ a).trans (frameTaken_target l f rest s a)
  have hnow : u.runSeconds = s.runSeconds := (enter_runSeconds _ _).trans (frameTaken_runSeconds l f rest s)
  have hload : u.loadOf tgt = s.loadOf tgt :=
    (congrArg (PerTarget.get · tgt) (enter_load _ _)).trans (frameTaken_loadOf l f rest s tgt)
  have htake : ∀ b, checkFrame l f (s.popped l rest) = resolveFrame l f t b taken →
      exec (.intakeTake l) s = .next (if b then activeFrame t made (u.putPoint t made) else clearFrame t made (u.putPoint t made)) :=
    fun b hb => (exec_intakeTake l f rest hw hq).trans
      (congrArg Host.Outcome.next (hb.trans (resolveFrame_unknown hp' ha b)))
  refine ⟨fun h1 => ?_, fun h2 => ?_⟩
  · refine (htake true ?_).trans (congrArg Host.Outcome.next ((arrive_provisional u).trans ?_))
    · rw [checkFrame_active hz ht h1, compareSequence_popped]
    · rw [htgt, hload, hnow] <;> rfl
  · refine (htake false ?_).trans (congrArg Host.Outcome.next
      ((clearFrame_stays (p := made) (s := u.putPoint t made) (τ := 0) (.inl rfl)).trans ?_))
    · rw [checkFrame_clear hz ht h2, compareSequence_popped]
    · exact State.putPoint_put u t made made

end Sys2Proof.Machine
end

section
/-! PROOFS. The permission check and acknowledging (O30). -/

namespace Sys2Proof.Machine

/-! ### The permission check (R95) -/

section Permission
variable {s : State} {d : Desk} {op : OpIndex} {r : OperatorRecord} {role : Role}

theorem holderWith_none (h : s.holderRecord d = none) : holderWith d role s = .error .notSignedOn := by
  rw [holderWith, h]

theorem holderWith_ok (h : s.holderRecord d = some (op, r)) (hr : r.role.atLeast role = true) :
    holderWith d role s = .ok (op, r) := by
  rw [holderWith, h]
  exact if_pos hr

theorem holderWith_low (h : s.holderRecord d = some (op, r)) (hr : r.role.atLeast role = false) :
    holderWith d role s = .error .notPermitted := by
  rw [holderWith, h]
  exact if_neg (by simp [hr])

theorem atLeast_operator_iff (x : Role) : x.atLeast .operator = true ↔ x ≠ .observer := by
  cases x <;> decide

theorem atLeast_operator_false {x : Role} (h : x = .observer) : x.atLeast .operator = false := by
  rw [h]
  rfl

end Permission

/-! ### Acknowledging (R11, R104) -/

section Acknowledge
variable {s : State} {d : Desk} {op : OpIndex} {t : Tag} {p : Point} {τ : Word32}

theorem acknowledge_unack (hst : p.state = .unack τ) (hb : p.base ≤ 3) :
    acknowledge d op t p s = tellTarget (s.target p.area) t (some .acked)
      (enter { kind := .state, desk := (s.target p.area).desk?, tag := some t, d1 := some 1, d2 := some 2 }
        ((enter { kind := .ack, desk := some d, op := some op, tag := some t, d1 := some 1
                  d2 := some (s.target p.area).code } s).putPoint t { p with state := .acked τ, lastAck := some op })) := by
  have hack : p.acknowledged op = { p with state := .acked τ, lastAck := some op } := by
    rw [Point.acknowledged, hst]
  have hstand : ({ p with state := .acked τ, lastAck := some op } : Point).standing = some .acked := by
    simp only [Point.standing, if_pos hb]
  rw [acknowledge, hack, changePoint, changePointAt_moves (by rw [hst]; exact (by decide : (1 : Nat) ≠ 2)), hstand,
    unlisted_eq_self fun _ => by rw [hstand]; rfl, enter_target, hst] <;> rfl

theorem acknowledge_rtnUnack (hst : p.state = .rtnUnack τ) :
    acknowledge d op t p s = tellTarget (s.target p.area) t none
      (enter { kind := .state, desk := (s.target p.area).desk?, tag := some t, d1 := some 3, d2 := some 0 }
        ((enter { kind := .ack, desk := some d, op := some op, tag := some t, d1 := some 3
                  d2 := some (s.target p.area).code } s).putPoint t
          { p with state := .normal, effective := p.base, silenced := false, lastAck := some op })) := by
  have hack : p.acknowledged op = { p.toNormal with lastAck := some op } := by rw [Point.acknowledged, hst]
  have hstand : ({ p.toNormal with lastAck := some op } : Point).standing = none := standing_toNormal p
  rw [acknowledge, hack, changePoint, changePointAt_moves (by rw [hst]; exact (by decide : (3 : Nat) ≠ 0)), hstand,
    Point.unlisted, hstand, enter_target, hst] <;> rfl

theorem unacknowledged_iff : p.unacknowledged = true ↔ ∃ τ, p.state = .unack τ ∨ p.state = .rtnUnack τ := by
  rw [Point.unacknowledged]
  cases p.state <;> simp

/-! ### ACK by message -/

variable {r : OperatorRecord}

theorem serveAck_untested {e : Reason} (h : holderWith d .operator s = .error e) :
    serveAck (d, t) s = ackRefusal d t e s := by
  rw [serveAck, h]

theorem serveAck_noPoint (h : holderWith d .operator s = .ok (op, r)) (hp : s.point t = none) :
    serveAck (d, t) s = ackRefusal d t .wrongState s := by
  rw [serveAck, h]
  dsimp only
  rw [hp]

theorem serveAck_point (h : holderWith d .operator s = .ok (op, r)) (hp : s.point t = some p) :
    serveAck (d, t) s = if !s.mayAcknowledge d r p then ackRefusal d t .notPermitted s
      else if p.base ≤ 3 ∧ p.unacknowledged then (acknowledge d op t p s, .ok (ackBody t (p.acknowledged op)))
      else ackRefusal d t .wrongState s := by
  rw [serveAck, h]
  dsimp only
  rw [hp]

theorem mayAcknowledge_iff : s.mayAcknowledge d r p = true ↔
    inSet r.areas p.area = true ∧ (s.target p.area = .desk d ∨ r.role = .supervisor) := by
  rw [State.mayAcknowledge, Bool.and_eq_true, Bool.or_eq_true, decide_eq_true_eq, decide_eq_true_eq]

theorem ackHead_unacknowledged {items : List Item} (h : ackHead items = some (t, p)) : p.unacknowledged = true :=
  List.find?_some (p := fun e : Item => e.2.unacknowledged) h

theorem exec_ackPress (hw : s.works = true) (d : Desk) : exec (.ackPress d) s = .next (ackPress d s) :=
  congrArg Host.Outcome.next (whileWorking_of_works hw)

theorem ackPress_noHolder (h : s.holderRecord d = none) : ackPress d s = refuseAck d none .notSignedOn 1 s := by
  rw [ackPress, h]

theorem ackPress_noHead (h : s.holderRecord d = some (op, r)) (hhead : ackHead (s.attentionList (.desk d)) = none) :
    ackPress d s = s := by
  rw [ackPress, h]
  dsimp only
  rw [hhead]

theorem ackPress_head (h : s.holderRecord d = some (op, r))
    (hhead : ackHead (s.attentionList (.desk d)) = some (t, p)) : ackPress d s =
      if r.role.atLeast .operator && inSet r.areas p.area then acknowledge d op t p s
      else refuseAck d (some t) .notPermitted 1 s := by
  rw [ackPress, h]
  dsimp only
  rw [hhead]

theorem acknowledge_phase (d : Desk) (op : OpIndex) (t : Tag) (p : Point) (s : State) :
    (acknowledge d op t p s).phase = s.phase := (acknowledge_quiet d op t p s).phase

end Acknowledge

/-- Settles O30: the acknowledgement by the point's state, then the tests by message and by press. -/
theorem ackTaken : Obligations.AckTaken := by
  refine ⟨fun s d op r t p hr hrole hp hb hin hlaw => ?_, fun s d => ?_, fun items => ?_⟩
  · intro tgt acked
    have hacked : ∀ u : State, u.target p.area = tgt → p.unacknowledged = true → acknowledge d op t p u = acked u := by
      intro u hu hun
      obtain ⟨τ, hst | hst⟩ := unacknowledged_iff.mp hun
      · have h := acknowledge_unack (d := d) (op := op) (t := t) (s := u) hst hb
        rw [hu] at h
        refine h.trans ?_
        simp only [acked]
        rw [hst] <;> rfl
      · have h := acknowledge_rtnUnack (d := d) (op := op) (t := t) (s := u) hst
        rw [hu] at h
        refine h.trans ?_
        simp only [acked]
        rw [hst] <;> rfl
    refine ⟨fun l tag hcom hun hmay => ?_, fun hw hhead => ?_⟩
    · have hbody : ackBody t (p.acknowledged op) = be 2 t.val ++
          (match p.state with
            | .unack _ => [2, byte p.effective]
            | _ => [0, byte p.base]) := by
        rw [ackBody, Point.acknowledged]
        obtain ⟨τ, hst | hst⟩ := unacknowledged_iff.mp hun <;> rw [hst] <;> rfl
      have hmay' : (s.listening l).mayAcknowledge d r p = true := by
        rw [mayAcknowledge_iff, listening_target]
        exact ⟨hin, hmay⟩
      have hs : serveAck (d, t) (s.listening l) = (acknowledge d op t p (s.listening l), .ok (ackBody t (p.acknowledged op))) := by
        rw [serveAck_point (holderWith_ok ((listening_holderRecord l s d).trans hr) hrole) ((listening_point l s t).trans hp),
          hmay', if_neg (by simp), if_pos ⟨hb, hun⟩]
      rw [hacked _ (listening_target l s p.area) hun, hbody] at hs
      refine congrArg Host.Outcome.next (command_served hcom 6 tag (readDeskTag_be d t) serveAck hs ?_ rfl)
      rw [← hacked _ (listening_target l s p.area) hun, acknowledge_phase, listening_phase]
    · rw [exec_ackPress hw, ackPress_head hr hhead, hrole, hin, if_pos (by rfl),
        hacked s rfl (ackHead_unacknowledged hhead)]
  · intro refused
    refine ⟨fun l tag t hcom => ?_, fun hw => ⟨fun hr => ?_, fun op r hr => ⟨fun hhead => ?_, fun t p hhead hno => ?_⟩⟩⟩
    · intro answered
      have href : ∀ reason : Reason, serveAck (d, t) (s.listening l) = ackRefusal d t reason (s.listening l) →
          exec (.ack l tag (byte d.code :: be 2 t.val)) s = .next (answered reason.code) := fun reason hs => by
        have hentry : refuseAck d (some t) reason 2 (s.listening l) = refused (some t) reason.code 2 (s.listening l) := by
          rw [refuseAck, listening_holder]
        rw [ackRefusal, hentry] at hs
        exact congrArg Host.Outcome.next (command_served hcom 6 tag (readDeskTag_be d t) serveAck hs
          ((enter_phase _ _).trans (listening_phase l s)) rfl)
      have hr' := listening_holderRecord l s d
      refine ⟨fun hr => href .notSignedOn (serveAck_untested (holderWith_none (hr'.trans hr))), fun op r hr =>
        ⟨fun hrole => ?_, fun hrole hp => ?_, fun p hrole hp => ⟨fun hno => ?_, fun hin hmay hno => ?_⟩⟩⟩
      · exact href .notPermitted (serveAck_untested (holderWith_low (hr'.trans hr) (atLeast_operator_false hrole)))
      · exact href .wrongState (serveAck_noPoint (holderWith_ok (hr'.trans hr) ((atLeast_operator_iff _).mpr hrole))
          ((listening_point l s t).trans hp))
      · refine href .notPermitted ((serveAck_point (holderWith_ok (hr'.trans hr) ((atLeast_operator_iff _).mpr hrole))
          ((listening_point l s t).trans hp)).trans (if_pos ?_))
        rw [Bool.not_eq_true', Bool.eq_false_iff, Ne, mayAcknowledge_iff, listening_target]
        rintro ⟨hin, hmay⟩
        rcases hno with hno | ⟨h1, h2⟩
        · simp [hin] at hno
        · exact hmay.elim h1 h2
      · refine href .wrongState ((serveAck_point (holderWith_ok (hr'.trans hr) ((atLeast_operator_iff _).mpr hrole))
          ((listening_point l s t).trans hp)).trans ((if_neg ?_).trans (if_neg ?_)))
        · have hyes : (s.listening l).mayAcknowledge d r p = true := by
            rw [mayAcknowledge_iff, listening_target]
            exact ⟨hin, hmay⟩
          simp [hyes]
        · rintro ⟨h1, h2⟩
          rcases hno with hno | hno
          · omega
          · simp [h2] at hno
    · rw [exec_ackPress hw, ackPress_noHolder hr]
      rfl
    · rw [exec_ackPress hw, ackPress_noHead hr hhead]
    · rw [exec_ackPress hw, ackPress_head hr hhead, if_neg]
      · rfl
      · rw [Bool.and_eq_true, atLeast_operator_iff]
        rintro ⟨h1, h2⟩
        exact hno.elim h1 (by simp [h2])
  · rw [List.head?_filter, ackHead]
    refine congrArg (items.find? ·) (funext fun e => ?_)
    rw [Point.unacknowledged]
    cases e.2.state <;> rfl

end Sys2Proof.Machine
end

section
/-! PROOFS. Silencing (O31). -/

namespace Sys2Proof.Machine

/-! ### The points a SILENCE silences -/

/-- Whether a SILENCE on a target's list silences a point, spelt over the record (R105). -/
def State.calls (s : State) (x : Target) (p : Point) : Bool :=
  decide (p.base ≤ 3) && p.isUnack && !p.silenced && decide (s.target p.area = x)

theorem silences_eq (s : State) (x : Target) (p : Point) : s.silences x p = s.calls x p := by
  have hstand : (p.standing.isSome && p.isUnack) = (decide (p.base ≤ 3) && p.isUnack) := by
    rw [standing_isSome_eq]
    cases p.isUnack <;> simp
  calc (p.standing.isSome && decide (s.target p.area = x) && p.isUnack && !p.silenced)
      _ = ((p.standing.isSome && p.isUnack) && !p.silenced && decide (s.target p.area = x)) := by
        cases p.standing.isSome <;> cases p.isUnack <;> simp [Bool.and_comm]
      _ = _ := by rw [hstand]; rfl

/-- The number of points a SILENCE silences in a target's list. -/
def State.callCount (s : State) (x : Target) : Nat := (s.points.filter fun e => s.calls x e.2).length

theorem silenceCount_eq (s : State) (x : Target) : s.silenceCount x = s.callCount x := by
  rw [State.silenceCount, State.callCount]
  simp only [silences_eq]

theorem tableMap_tableMap {n : Nat} {α β γ : Type} (f : Fin n → α → β) (g : Fin n → β → γ) (t : Table n α) :
    tableMap g (tableMap f t) = tableMap (fun i a => g i (f i a)) t := by
  simp [tableMap]

/-- The table after a SILENCE at a desk, the room's list with it at the supervisor desk (R105, R106). -/
def State.silencedPoints (s : State) (d : Desk) (sup : Bool) : Table 1024 Point :=
  tableMap (fun _ p => if s.calls (.desk d) p || (sup && s.calls .room p) then { p with silenced := true } else p) s.points

theorem silenceList_eq (x : Target) (s : State) : silenceList x s =
    { s with points := tableMap (fun _ p => if s.calls x p then { p with silenced := true } else p) s.points } := by
  rw [silenceList]
  simp only [silences_eq]

/-- The two lists one after the other. -/
theorem silenceLists_eq (s : State) (d : Desk) (sup : Bool) :
    (if sup then silenceList .room (silenceList (.desk d) s) else silenceList (.desk d) s) =
      { s with points := s.silencedPoints d sup } := by
  cases sup
  · rw [if_neg (by simp), silenceList_eq, State.silencedPoints]
    simp only [Bool.false_and, Bool.or_false]
  · have hcalls : ∀ p, (silenceList (.desk d) s).calls .room p = s.calls .room p := fun _ => rfl
    rw [if_pos rfl, silenceList_eq .room]
    simp only [hcalls]
    rw [silenceList_eq, State.silencedPoints]
    dsimp only
    rw [tableMap_tableMap]
    congr 2
    funext i p
    cases h : s.calls (.desk d) p
    · simp
    · have hroom : s.calls .room { p with silenced := true } = false := by simp [State.calls]
      simp [hroom]

/-- What a SILENCE at a desk leaves of `u`, the counts and the points taken from `s` (R105 to R107). -/
def State.silenceDone (s : State) (d : Desk) (op : OpIndex) (u : State) : State :=
  let sup := decide (s.supervisor = some d)
  let v := enter { kind := .silence, desk := some d, op := some op, d1 := some (s.callCount (.desk d))
                   d2 := if sup then some (s.callCount .room) else none } { u with points := s.silencedPoints d sup }
  if 0 < s.callCount (.desk d) ∨ (sup = true ∧ 0 < s.callCount .room) then setPending .alarm v else v

theorem roomSilenceCount_eq (s : State) (d : Desk) :
    s.roomSilenceCount d = if decide (s.supervisor = some d) then some (s.callCount .room) else none := by
  rw [State.roomSilenceCount, silenceCount_eq]
  simp only [decide_eq_true_eq]

theorem silenceDesk_eq (d : Desk) (op : OpIndex) (s : State) : silenceDesk d op s = s.silenceDone d op s := by
  rw [silenceDesk, State.silenceDone]
  simp only [silenceCount_eq, roomSilenceCount_eq]
  have hlists := silenceLists_eq s d (decide (s.supervisor = some d))
  cases h : decide (s.supervisor = some d)
  · rw [h] at hlists
    simp only [if_neg (by simp : ¬ false = true), Option.isSome_none, Option.getD_none, Nat.add_zero] at hlists ⊢
    rw [hlists]
    simp
  · rw [h] at hlists
    simp only [if_true, Option.isSome_some, Option.getD_some] at hlists ⊢
    rw [hlists]
    simp only [true_and, Nat.add_pos_iff_pos_or_pos]

/-! ### SILENCE by message and by press -/

section Press
variable {s : State} {d : Desk} {op : OpIndex} (l : Link)

theorem listening_callCount (s : State) (x : Target) : (s.listening l).callCount x = s.callCount x := by
  simp only [State.callCount, State.calls, listening_points, listening_target]

theorem listening_silenceDone (s : State) (d : Desk) (op : OpIndex) (u : State) :
    (s.listening l).silenceDone d op u = s.silenceDone d op u := by
  simp only [State.silenceDone, listening_callCount, State.silencedPoints, State.calls, listening_points,
    listening_target, listening_supervisor] <;> rfl

theorem serveSilence_some (h : s.silencer d = some op) :
    serveSilence d s = (s.silenceDone d op s, .ok (silenceBody s d)) := by
  rw [serveSilence, h]
  dsimp only
  rw [silenceDesk_eq]

theorem serveSilence_none (h : s.silencer d = none) : serveSilence d s = (s, .refused .notSignedOn) := by
  rw [serveSilence, h]

theorem exec_silencePress (hw : s.works = true) : exec (.silencePress d) s = .next (silencePress d s) :=
  congrArg Host.Outcome.next (whileWorking_of_works hw)

theorem silenceBody_eq (s : State) (d : Desk) : silenceBody s d = be 2 (s.callCount (.desk d)) ++
    be 2 (if decide (s.supervisor = some d) then s.callCount .room else 65535) := by
  rw [silenceBody, silenceCount_eq, roomSilenceCount_eq]
  cases decide (s.supervisor = some d) <;> rfl

end Press

/-- Settles O31. -/
theorem silenceSilences : Obligations.SilenceSilences := by
  intro s d calls n room sup done
  refine ⟨fun op hop => ⟨fun l tag hcom => ?_, fun hw => ?_⟩, fun h1 h2 h3 => ?_⟩
  · have hs := serveSilence_some ((listening_silencer l s d).trans hop)
    rw [listening_silenceDone, silenceBody_eq, listening_callCount, listening_callCount, listening_supervisor] at hs
    have hphase : (s.silenceDone d op (s.listening l)).phase = s.phase := by
      rw [← listening_silenceDone l, ← silenceDesk_eq, (silenceDesk_quiet d op _).phase, listening_phase]
    exact congrArg Host.Outcome.next (command_served hcom 7 tag (readDesk_byte d) serveSilence hs hphase rfl)
  · rw [exec_silencePress hw, silencePress, show s.silencer d = some op from hop]
    exact congrArg Host.Outcome.next (silenceDesk_eq d op s)
  · have hnone : s.silencer d = none := by rw [State.silencer, h1, h2, h3]; rfl
    refine ⟨fun l tag hcom => ?_, fun hw => ?_⟩
    · exact congrArg Host.Outcome.next (command_served hcom 7 tag (readDesk_byte d) serveSilence
        (serveSilence_none ((listening_silencer l s d).trans hnone)) (listening_phase l s) rfl)
    · rw [exec_silencePress hw, silencePress, hnone]

end Sys2Proof.Machine
end

section
/-! PROOFS. Shelving and its ends (O32, O33). -/

namespace Sys2Proof.Machine

/-! ### The tests SHELVE and UNSHELVE share -/

section Tests
variable {s : State} {d : Desk} {t : Tag} {op : OpIndex} {r : OperatorRecord} {p : Point}

theorem shelfTests_untested {e : Reason} (h : holderWith d .senior s = .error e) : shelfTests d t s = .error e := by
  rw [shelfTests, h]

theorem shelfTests_noPoint (h : holderWith d .senior s = .ok (op, r)) (hp : s.point t = none) :
    shelfTests d t s = .error .wrongState := by
  rw [shelfTests, h]
  dsimp only
  rw [hp]

theorem shelfTests_point (h : holderWith d .senior s = .ok (op, r)) (hp : s.point t = some p) :
    shelfTests d t s = if inSet r.areas p.area then .ok (op, p) else .error .notPermitted := by
  rw [shelfTests, h]
  dsimp only
  rw [hp]

variable {minutes : Nat}

theorem serveShelve_refused {e : Reason} (h : shelfTests d t s = .error e) :
    serveShelve (d, t, minutes) s = (s, .refused e) := by
  rw [serveShelve]
  dsimp only
  rw [h]

theorem serveShelve_tested (h : shelfTests d t s = .ok (op, p)) : serveShelve (d, t, minutes) s =
    if !p.shelvable then (s, .refused .notShelvable)
    else if p.isShelved then (s, .refused .wrongState)
    else if 64 ≤ s.shelfEntries.length then (s, .refused .shelfFull) else applyShelve d t minutes op p s := by
  rw [serveShelve]
  dsimp only
  rw [h]
  rfl

theorem serveUnshelve_refused {e : Reason} (h : shelfTests d t s = .error e) :
    serveUnshelve (d, t) s = (s, .refused e) := by
  rw [serveUnshelve]
  dsimp only
  rw [h]

theorem serveUnshelve_notShelved (h : shelfTests d t s = .ok (op, p)) (hst : ∀ x o, p.state ≠ .shelved x o) :
    serveUnshelve (d, t) s = (s, .refused .wrongState) := by
  rw [serveUnshelve]
  dsimp only
  rw [h]
  dsimp only
  cases hp : p.state with
  | shelved x o => exact absurd hp (hst x o)
  | _ => rfl

theorem serveUnshelve_shelved {expiry : Word32} {by_ : OpIndex} (h : shelfTests d t s = .ok (op, p))
    (hst : p.state = .shelved expiry by_) : serveUnshelve (d, t) s =
      (returnFromShelf t p
        (enter { kind := .unshelve, desk := some d, op := some op, tag := some t, d1 := some p.returnCode
                 d2 := some (min 65535 (secondsLeft expiry s.runSeconds)) } s), .ok [byte p.returnCode]) := by
  rw [serveUnshelve]
  dsimp only
  rw [h]
  dsimp only
  rw [hst]

end Tests

/-! ### A point into SHELVED -/

theorem shelfEntries_length (s : State) : s.shelfEntries.length = (s.points.filter fun e => e.2.isShelved).length := by
  rw [State.shelfEntries]
  generalize s.points = l
  induction l with
  | nil => rfl
  | cons e l ih =>
    rw [List.filterMap_cons, List.filter_cons, Point.isShelved]
    cases e.2.state <;> simpa using ih

section Shelve
variable {s : State} {t : Tag} {p : Point}

theorem isShelved_false (h : ∀ x o, p.state ≠ .shelved x o) : p.isShelved = false := by
  rw [Point.isShelved]
  cases hp : p.state with
  | shelved x o => exact absurd hp (h x o)
  | _ => rfl

theorem code_ne_shelved (h : ∀ x o, p.state ≠ .shelved x o) : p.state.code ≠ 4 := by
  cases hp : p.state with
  | shelved x o => exact absurd hp (h x o)
  | _ => simp [PointState.code]

theorem shelvePoint_eq (h : ∀ x o, p.state ≠ .shelved x o) (expiry : Word32) (op : OpIndex) :
    shelvePoint t p expiry op s = tellTarget (s.target p.area) t none
      (enter { kind := .state, desk := (s.target p.area).desk?, tag := some t, d1 := some p.state.code, d2 := some 4 }
        (s.putPoint t { p with state := .shelved expiry op, effective := p.base, silenced := false })) := by
  have hstand : ({ p with state := .shelved expiry op, effective := p.base, silenced := false } : Point).standing = none :=
    ite_self none
  rw [shelvePoint, changePoint, changePointAt_moves (code_ne_shelved h), hstand, unlisted_eq_self fun h => by cases h] <;> rfl

end Shelve

/-- Settles O32: the tests in their order. -/
theorem shelveShelves : Obligations.ShelveShelves := by
  intro s l tag d t m hcom hm minutes body refused onShelf
  have hr' := listening_holderRecord l s d
  have hp' := listening_point l s t
  have hread : readShelve body = some (d, t, minutes) := readShelve_be d t hm
  have href : ∀ {reason : Reason}, serveShelve (d, t, minutes) (s.listening l) = (s.listening l, .refused reason) →
      exec (.shelve l tag body) s = .next (refused (byte reason.code)) := fun hs =>
    congrArg Host.Outcome.next (command_served hcom 8 tag hread serveShelve hs (listening_phase l s) rfl)
  refine ⟨fun hr => href (serveShelve_refused (shelfTests_untested (holderWith_none (hr'.trans hr)))), fun op r hr =>
    ⟨fun hrole => href (serveShelve_refused (shelfTests_untested (holderWith_low (hr'.trans hr) hrole))),
      fun hrole hp => href (serveShelve_refused (shelfTests_noPoint (holderWith_ok (hr'.trans hr) hrole) (hp'.trans hp))),
      fun p hrole hp => ?_⟩⟩
  have htests := shelfTests_point (holderWith_ok (hr'.trans hr) hrole) (hp'.trans hp)
  refine ⟨fun hin => ?_, fun hin hsh => ?_, fun hin hsh hst => ?_, fun hin hsh hst => ?_⟩
  · rw [hin, if_neg (by simp)] at htests
    exact href (serveShelve_refused htests)
  all_goals
    rw [hin, if_pos rfl] at htests
    have hserve := serveShelve_tested (minutes := minutes) htests
  · exact href (hserve.trans (if_pos (by simp [hsh])))
  · obtain ⟨x, o, hst⟩ := hst
    exact href (hserve.trans ((if_neg (by simp [hsh])).trans (if_pos (by rw [Point.isShelved, hst]))))
  · replace hserve := hserve.trans ((if_neg (by simp [hsh])).trans (if_neg (by simp [isShelved_false hst])))
    rw [listening_shelfEntries, shelfEntries_length, show (s.points.filter fun e => e.2.isShelved).length = onShelf from rfl]
      at hserve
    refine ⟨fun hfull => href (hserve.trans (if_pos hfull)), fun hroom => ?_⟩
    rw [if_neg (by omega), applyShelve, shelvePoint_eq hst, enter_target, listening_target, listening_runSeconds] at hserve
    exact congrArg Host.Outcome.next (command_served hcom 8 tag hread serveShelve hserve
      (by rw [(tellTarget_quiet _ _ _ _).phase, enter_phase, State.putPoint_phase, enter_phase, listening_phase]) rfl)

/-! ### A point out of SHELVED -/

section Return
variable {s : State} {t : Tag} {p : Point} {expiry : Word32} {by_ : OpIndex}

theorem Point.Lawful.of_shelved (hp : p.Lawful) (hst : p.state = .shelved expiry by_) :
    p.effective = p.base ∧ p.silenced = false := by
  have hsil : p.silenced = false := by
    cases hs : p.silenced with
    | false => rfl
    | true =>
      have hstand := hp.standing_of_silenced hs
      rw [Point.standing, hst] at hstand
      simp at hstand
  obtain ⟨-, -, -, -, -, -, -, -, -, heff⟩ := hp
  rw [hst] at heff
  exact ⟨heff, hsil⟩

/-- A record with the fields that a shelved point already has. -/
theorem Point.Lawful.shelvedRecord (hp : p.Lawful) (hst : p.state = .shelved expiry by_) (st : PointState) :
    ({ p with state := st, effective := p.base, silenced := false } : Point) = { p with state := st } ∧
      ∀ b, ({ p with state := st, effective := p.base, silenced := b } : Point) = { p with state := st, silenced := b } := by
  obtain ⟨heff, hsil⟩ := hp.of_shelved hst
  simp [heff, hsil]

/-- What a point leaving SHELVED leaves of `u` (R13, R16, R113). -/
def State.returned (s : State) (t : Tag) (p : Point) (u : State) : State :=
  let x := s.target p.area
  let ld := s.loadOf x
  let change : Draft := { kind := .state, desk := x.desk?, tag := some t, d1 := some 4, d2 := some p.returnCode }
  if p.active = true then
    if p.base ≤ 3 then
      tellTarget x t (some .unack) (enter change
        ((u.putLoad x { ld with w := min 255 (ld.w + (match p.base with | 1 => 4 | 2 => 2 | _ => 1)) }).putPoint t
          { p with state := .unack s.runSeconds, silenced := decide (p.base = 3) && ld.flood }))
    else tellTarget x t none (enter change
      ((enter { kind := .ack, tag := some t, d1 := some 4 } u).putPoint t { p with state := .acked s.runSeconds }))
  else tellTarget x t none (enter change (u.putPoint t { p with state := .normal }))

theorem returnFromShelf_eq (hp : p.Lawful) (hst : p.state = .shelved expiry by_) {u : State}
    (htgt : u.target = s.target) (hload : u.loadOf = s.loadOf) (hnow : u.runSeconds = s.runSeconds) :
    returnFromShelf t p u = s.returned t p u := by
  have hcode : p.state.code = 4 := by rw [hst]; rfl
  rw [returnFromShelf, State.returned, Point.returnCode]
  by_cases ha : p.active = true
  · rw [if_pos ha, if_pos ha, if_pos ha]
    by_cases hb : p.base ≤ 3
    · have h1 : 1 ≤ p.base := hp.1
      rw [if_pos hb, if_pos hb, if_pos hb, arrive_eq (by rw [hcode]; decide) hb, htgt, hload, hnow, hcode,
        (hp.shelvedRecord hst _).2, arrivalWeight_eq h1 hb] <;> rfl
    · have hb' : 3 < p.base := by omega
      rw [if_neg hb, if_neg hb, if_neg hb, autoAcknowledge_eq (by rw [hcode]; decide) hb', htgt, hnow, hcode,
        (hp.shelvedRecord hst _).1]
  · have hnormal : p.toNormal.unlisted = { p with state := .normal } := by
      rw [Point.unlisted, standing_toNormal]
      exact (hp.shelvedRecord hst .normal).1
    rw [if_neg ha, if_neg ha, if_neg ha, changePoint,
      changePointAt_moves (by rw [hcode]; exact (by decide : (4 : Nat) ≠ 0)), standing_toNormal, hnormal, hcode,
      show p.toNormal.area = p.area from rfl, htgt]
    rfl

end Return

/-- Settles O33: a point's return by its active field, then UNSHELVE's refusals. -/
theorem shelvingEnds : Obligations.ShelvingEnds := by
  refine ⟨fun s t p expiry by_ hp hst hlaw => ?_, fun s l tag d t hcom => ?_⟩
  · intro tgt ld goal change returned
    have hreturned : ∀ u, s.returned t p u = returned u := fun _ => rfl
    have hgoal : p.returnCode = goal := rfl
    refine ⟨fun l tag d op r hcom hr hrole hin => ?_, fun hw hnow => ?_⟩
    · have htests := shelfTests_point (t := t) (holderWith_ok ((listening_holderRecord l s d).trans hr) hrole)
        ((listening_point l s t).trans hp)
      rw [hin, if_pos rfl] at htests
      have hserve := serveUnshelve_shelved htests hst
      rw [listening_runSeconds, hgoal] at hserve
      have hphase := (returnFromShelf_quiet t p (enter { kind := .unshelve, desk := some d, op := some op, tag := some t, d1 := some goal, d2 := some (min 65535 (secondsLeft expiry s.runSeconds)) } (s.listening l))).phase
      rw [enter_phase, listening_phase] at hphase
      rw [returnFromShelf_eq (s := s) hlaw hst (funext fun a => (enter_target _ _ a).trans (listening_target l s a))
        (funext fun x => (enter_loadOf _ _ x).trans (listening_loadOf l s x))
        ((enter_runSeconds _ _).trans (listening_runSeconds l s))] at hserve hphase
      exact congrArg Host.Outcome.next (command_served hcom 9 tag (readDeskTag_be d t) serveUnshelve hserve hphase rfl)
    · have hreached : reached expiry s.runSeconds = true := by
        rw [hnow, reached, BitVec.sub_self]
        rfl
      have hexec : exec (.shelfExpiry t) s = .next (shelfExpiry t s) := congrArg Host.Outcome.next (whileWorking_of_works hw)
      rw [hexec, shelfExpiry, hp]
      dsimp only
      rw [hst]
      dsimp only
      rw [if_pos hreached]
      exact congrArg Host.Outcome.next (returnFromShelf_eq (s := s) hlaw hst (funext fun a => enter_target _ _ a)
        (funext fun x => enter_loadOf _ _ x) (enter_runSeconds _ _))
  · intro refusedFor
    have hr' := listening_holderRecord l s d
    have hp' := listening_point l s t
    have href : ∀ {reason : Reason}, serveUnshelve (d, t) (s.listening l) = (s.listening l, .refused reason) →
        refusedFor (byte reason.code) := fun hs =>
      congrArg Host.Outcome.next (command_served hcom 9 tag (readDeskTag_be d t) serveUnshelve hs (listening_phase l s) rfl)
    refine ⟨fun hr => href (serveUnshelve_refused (shelfTests_untested (holderWith_none (hr'.trans hr)))), fun op r hr =>
      ⟨fun hrole => href (serveUnshelve_refused (shelfTests_untested (holderWith_low (hr'.trans hr) hrole))),
        fun hrole hp => href (serveUnshelve_refused (shelfTests_noPoint (holderWith_ok (hr'.trans hr) hrole) (hp'.trans hp))),
        fun p hrole hp => ?_⟩⟩
    have htests := shelfTests_point (holderWith_ok (hr'.trans hr) hrole) (hp'.trans hp)
    refine ⟨fun hin => ?_, fun hin hst => ?_⟩
    · rw [hin, if_neg (by simp)] at htests
      exact href (serveUnshelve_refused htests)
    · rw [hin, if_pos rfl] at htests
      exact href (serveUnshelve_notShelved htests hst)

end Sys2Proof.Machine
end

section
/-! PROOFS. The handover protocol by message and by press (O34, O35, O36). -/

namespace Sys2Proof.Machine

/-! ### Readings of the desk's tests -/

section Tests
variable {s : State} {d : Desk} {k : SlotId} {op : OpIndex} {r : OperatorRecord} {h : Handover} {inc : OpIndex}

theorem exec_handPress (hw : s.works = true) : exec (.handPress d) s = .next (handPress d s) :=
  congrArg Host.Outcome.next (whileWorking_of_works hw)

theorem openTests_attended (hst : (s.unit d).state = .attended k) : openTests d s =
    if (s.loadOf (.desk d)).flood then .error .flood
    else if 32 < (s.toCarry d).length then .error .carryFull else .ok k := by
  rw [openTests, hst]
  rfl

theorem openTests_other (hst : ∀ k, (s.unit d).state ≠ .attended k) : openTests d s = .error .wrongState := by
  rw [openTests]
  cases hu : (s.unit d).state with
  | attended k => exact absurd hu (hst k)
  | _ => rfl

theorem mayOpen_untested {e : Reason} (hh : holderWith d .operator s = .error e) : mayOpen d s = .error e := by
  rw [mayOpen, hh]

theorem mayOpen_refused {e : Reason} (hh : holderWith d .operator s = .ok (op, r)) (ht : openTests d s = .error e) :
    mayOpen d s = .error e := by
  rw [mayOpen, hh]
  dsimp only
  rw [ht]

theorem mayOpen_granted (hh : holderWith d .operator s = .ok (op, r)) (ht : openTests d s = .ok k) :
    mayOpen d s = .ok (k, op) := by
  rw [mayOpen, hh]
  dsimp only
  rw [ht]

theorem mayCancel_untested {e : Reason} (hh : holderWith d .operator s = .error e) : mayCancel d s = .error e := by
  rw [mayCancel, hh]

theorem mayCancel_held (hh : holderWith d .operator s = .ok (op, r)) :
    mayCancel d s = if s.inHandover d then .ok () else .error .wrongState := by
  rw [mayCancel, hh]

theorem mayCommit_untested {e : Reason} (hh : holderWith d .operator s = .error e) : mayCommit d s = .error e := by
  rw [mayCommit, hh]

theorem mayCommit_review (hh : holderWith d .operator s = .ok (op, r)) (hst : (s.unit d).state = .handoverReview k h inc) :
    mayCommit d s = if (unbriefed h.carried).isEmpty then .ok (k, h, inc) else .error .wrongState := by
  rw [mayCommit, hh]
  dsimp only
  rw [hst]

theorem mayCommit_other (hh : holderWith d .operator s = .ok (op, r))
    (hst : ∀ k h inc, (s.unit d).state ≠ .handoverReview k h inc) : mayCommit d s = .error .wrongState := by
  rw [mayCommit, hh]
  dsimp only
  cases hu : (s.unit d).state with
  | handoverReview k h inc => exact absurd hu (hst k h inc)
  | _ => rfl

theorem serveHandoverOpen_refused {e : Reason} (hm : mayOpen d s = .error e) :
    serveHandoverOpen d s = (s, .refused e) := by
  rw [serveHandoverOpen, hm]

theorem serveHandoverOpen_granted (hm : mayOpen d s = .ok (k, op)) : serveHandoverOpen d s =
    (openHandover d k op s, .ok (byte (s.toCarry d).length :: seconds (later s.runSeconds (60 * s.limits.handoverLimit)))) := by
  rw [serveHandoverOpen, hm]

theorem serveHandoverCancel_refused {e : Reason} (hm : mayCancel d s = .error e) :
    serveHandoverCancel d s = (s, .refused e) := by
  rw [serveHandoverCancel, hm]

theorem serveHandoverCancel_granted (hm : mayCancel d s = .ok ()) :
    serveHandoverCancel d s = (abortHandover d .cancelled s, .ok []) := by
  rw [serveHandoverCancel, hm]
  rfl

theorem serveHandoverCommit_refused {e : Reason} (hm : mayCommit d s = .error e) :
    serveHandoverCommit d s = (s, .refused e) := by
  rw [serveHandoverCommit, hm]

theorem serveHandoverCommit_granted (hm : mayCommit d s = .ok (k, h, inc)) :
    serveHandoverCommit d s = (commitHandover d k h inc s, .ok [byte h.carried.length]) := by
  rw [serveHandoverCommit, hm]

/-- A press in ATTENDED (R120). -/
theorem handPress_attended (hst : (s.unit d).state = .attended k) : handPress d s = match mayOpen d s with
    | .ok (k, op) => openHandover d k op s
    | .error _ => s := by
  rw [handPress, hst] <;> rfl

/-- A press in HANDOVER_OPEN (R135). -/
theorem handPress_open (hst : (s.unit d).state = .handoverOpen k h) : handPress d s = match mayCancel d s with
    | .ok _ => abortHandover d .cancelled s
    | .error _ => s := by
  rw [handPress, hst] <;> rfl

/-- A press in a fully briefed HANDOVER_REVIEW (R131). -/
theorem handPress_review (hst : (s.unit d).state = .handoverReview k h inc) (hall : unbriefed h.carried = []) :
    handPress d s = match mayCommit d s with
    | .ok (k, h, inc) => commitHandover d k h inc s
    | .error _ => s := by
  rw [handPress, hst]
  dsimp only
  rw [hall] <;> rfl

theorem handPress_idle (hst : (s.unit d).state = .vacant ∨ (s.unit d).state = .outOfService) : handPress d s = s := by
  rw [handPress]
  rcases hst with h | h <;> rw [h]

theorem unbriefed_eq_nil {entries : List Carried} (h : ∀ e ∈ entries, e.briefed = true) : unbriefed entries = [] := by
  rw [unbriefed, List.filter_eq_nil_iff]
  intro e he
  simp [h e he]

theorem unbriefed_ne_nil {entries : List Carried} (h : ∃ e ∈ entries, e.briefed = false) :
    (unbriefed entries).isEmpty = false := by
  obtain ⟨e, he, hb⟩ := h
  rw [Bool.eq_false_iff, Ne, List.isEmpty_iff, unbriefed, List.filter_eq_nil_iff]
  exact fun hno => hno e he (by simp [hb])

end Tests

/-! ### What an opening leaves (R121, R122) -/

/-- The handover record an opening makes. -/
def State.opening (s : State) (d : Desk) (op : OpIndex) : Handover :=
  { outgoing := op, openedAt := s.runSeconds, limitExpiry := s.runSeconds + BitVec.ofNat 32 (60 * s.limits.handoverLimit)
    carried := s.toCarry d }

/-- The desk in HANDOVER_OPEN, with its entry. -/
def State.opened (s : State) (d : Desk) (k : SlotId) (op : OpIndex) (u : State) : State :=
  enter { kind := .handoverOpen, desk := some d, op := some op, d1 := some (s.opening d op).carried.length
          d2 := some s.limits.handoverLimit } (u.putDeskState d (.handoverOpen k (s.opening d op)))

/-- A companion taken on as the incoming operator. -/
def State.reviewed (s : State) (d : Desk) (k : SlotId) (op o : OpIndex) (u : State) : State :=
  enter { kind := .incoming, desk := some d, op := some o, d1 := some (256 * k.other.code + 2)
          d2 := some (s.opening d op).carried.length }
    (((s.opened d k op u).setResult d k.other (.incoming o)).putDeskState d (.handoverReview k (s.opening d op) o))

section Opening
variable {s : State} {d : Desk} {k : SlotId} {op : OpIndex}

theorem qualifies_congr {s t : State} (howners : t.owners = s.owners) (hmill : t.mill = s.mill) (d : Desk)
    (r : OperatorRecord) : t.qualifies d r = s.qualifies d r := by
  simp only [State.qualifies, State.ownedAreas, State.windowPassed, howners, hmill]

theorem openHandover_eq (s : State) (d : Desk) (k : SlotId) (op : OpIndex) :
    openHandover d k op s = companionAtOpening d k (s.opening d op) (s.opened d k op s) := rfl

theorem opened_result (u : State) (k' : SlotId) : (s.opened d k op u).resultAt d k' = u.resultAt d k' := by
  have hunit : (s.opened d k op u).unit d = { u.unit d with state := .handoverOpen k (s.opening d op) } := by
    rw [State.opened, enter_unit, putDeskState_unit]
  rw [resultAt_eq, resultAt_eq, hunit, DeskUnit.result, DeskUnit.slot_state, DeskUnit.result]

theorem opened_operator (u : State) (i : OpIndex) : (s.opened d k op u).operator i = u.operator i :=
  congrArg (tableGet · i) (enter_operators _ _)

theorem opened_qualifies (u : State) (r : OperatorRecord) : (s.opened d k op u).qualifies d r = u.qualifies d r :=
  qualifies_congr (enter_owners _ _) (enter_mill _ _) d r

/-- An opening with no companion that qualifies. -/
theorem openHandover_alone (hno : ∀ o nq q, s.resultAt d k.other = some (.companion o nq) → s.operator o = some q →
    s.qualifies d q = false) : openHandover d k op s = s.opened d k op s := by
  rw [openHandover_eq, companionAtOpening]
  have hres : ((s.opened d k op s).slot d k.other).state.result? = s.resultAt d k.other := opened_result s k.other
  rw [hres]
  split
  · next o nq hr =>
    rw [opened_operator]
    split
    · next q hq =>
      rw [opened_qualifies]
      exact if_neg (by simp [hno o nq q hr hq])
    · rfl
  · rfl

/-- An opening with a companion that qualifies (R122). -/
theorem openHandover_companion {o : OpIndex} {nq : Bool} {q : OperatorRecord}
    (hr : s.resultAt d k.other = some (.companion o nq)) (hq : s.operator o = some q) (hyes : s.qualifies d q = true) :
    openHandover d k op s = s.reviewed d k op o s := by
  have hres : ((s.opened d k op s).slot d k.other).state.result? = some (.companion o nq) :=
    (opened_result s k.other).trans hr
  rw [openHandover_eq, companionAtOpening, hres]
  dsimp only
  rw [opened_operator, hq]
  dsimp only
  rw [opened_qualifies]
  exact if_pos hyes

variable (l : Link)

theorem listening_opening (s : State) (d : Desk) (op : OpIndex) : (s.listening l).opening d op = s.opening d op := by
  simp [State.opening]

theorem listening_opened (s : State) (d : Desk) (k : SlotId) (op : OpIndex) (u : State) :
    (s.listening l).opened d k op u = s.opened d k op u := by
  simp only [State.opened, listening_opening, listening_limits]

theorem listening_reviewed (s : State) (d : Desk) (k : SlotId) (op o : OpIndex) (u : State) :
    (s.listening l).reviewed d k op o u = s.reviewed d k op o u := by
  simp only [State.reviewed, listening_opening, listening_opened]

theorem mem_toCarry (s : State) (d : Desk) (e : Carried) : e ∈ s.toCarry d ↔
    e.briefed = false ∧ ∃ p, (e.tag, p) ∈ s.points ∧ s.target p.area = .desk d ∧ p.standing = some e.standing ∧
      (e.standing ≠ .acked ∨ p.effective = 1) := by
  obtain ⟨t, st, b⟩ := e
  rw [toCarry_eq, List.mem_filterMap]
  constructor
  · rintro ⟨⟨t', p⟩, hmem, he⟩
    obtain ⟨hpoint, hat⟩ := mem_attentionList.mp hmem
    rw [State.standsAt, Bool.and_eq_true, decide_eq_true_eq] at hat
    dsimp only at he
    split at he
    · next st' hst =>
      split at he
      · next hcond =>
        cases he
        exact ⟨rfl, p, hpoint, hat.2, hst, hcond⟩
      · cases he
    · cases he
  · rintro ⟨hb, p, hpoint, htgt, hst, hcond⟩
    cases hb
    dsimp only at hpoint hst hcond
    refine ⟨(t, p), mem_attentionList.mpr ⟨hpoint, ?_⟩, ?_⟩
    · rw [State.standsAt, hst, htgt]
      simp
    · dsimp only
      rw [hst]
      exact if_pos hcond

end Opening

end Sys2Proof.Machine
end

section
/-! PROOFS. Opening, aborting and committing a handover (O34, O35, O36), settled. -/

namespace Sys2Proof.Machine

section Served
variable {s : State} {l : Link} {d : Desk}

/-- The command refused as its rule refuses it. -/
theorem refused_of_serve {type tag : Byte} {reason : Reason} (hcom : s.commands l) (serve : Desk → Serve)
    (hs : serve d (s.listening l) = (s.listening l, .refused reason)) :
    takeFrame l type tag (asCommand l (served (readDesk [byte d.code]) serve)) s =
      (s.listening l).replies l type tag 4 (byte reason.code) [] :=
  command_served hcom type tag (readDesk_byte d) serve hs (listening_phase l s) rfl

end Served

/-- Settles O34: the opening by message and by press, then the refusals. -/
theorem handoverOpening : Obligations.HandoverOpening := by
  unfold Obligations.HandoverOpening
  intro carries
  have hcarries : ∀ s d, carries s d = s.toCarry d := fun s d => (toCarry_eq s d).symm
  refine ⟨fun s d k op r hr hrole hst hflood hlen => ?_, fun s l tag d hcom => ?_, fun s d hw => ⟨fun hst => ?_,
    fun k hst => ⟨fun hr => ?_, fun op r hr hno => ?_⟩⟩⟩
  · intro h opened body reviewed
    have hh : s.opening d op = h := by rw [State.opening, ← hcarries]
    have hopened : ∀ u, s.opened d k op u = opened u := fun u => by rw [State.opened, hh]
    have hreviewed : ∀ o u, s.reviewed d k op o u = reviewed o u := fun o u => by rw [State.reviewed, hh, hopened]
    have hgrant : ∀ u : State, u.holderRecord d = s.holderRecord d → u.unit d = s.unit d → u.loadOf (.desk d) = s.loadOf (.desk d) →
        u.toCarry d = s.toCarry d → mayOpen d u = .ok (k, op) := fun u h1 h2 h3 h4 =>
      mayOpen_granted (holderWith_ok (h1.trans hr) hrole) (by
        rw [openTests_attended (by rw [h2, hst]), h3, h4, hflood, if_neg (by simp), if_neg (by rw [← hcarries]; omega)])
    have hmessage : ∀ {l tag u}, s.commands l → openHandover d k op (s.listening l) = u →
        exec (.handoverOpen l tag [byte d.code]) s = .next (u.replies l 10 tag 0 0 body) := fun {l tag u} hcom hu => by
      have hserve := serveHandoverOpen_granted (hgrant (s.listening l) (listening_holderRecord l s d) (listening_unit l s d)
        (listening_loadOf l s _) (listening_toCarry l s d))
      rw [listening_toCarry, listening_runSeconds, listening_limits, hu, ← hcarries] at hserve
      have hphase : u.phase = s.phase := by
        rw [← hu, (openHandover_atDesk d k op _).phase, listening_phase]
      exact congrArg Host.Outcome.next (command_served hcom 10 tag (readDesk_byte d) serveHandoverOpen hserve hphase rfl)
    have hpress : s.works = true → exec (.handPress d) s = .next (openHandover d k op s) := fun hw => by
      rw [exec_handPress hw, handPress_attended hst, hgrant s rfl rfl rfl rfl]
    refine ⟨fun hno => ⟨fun l tag hcom => hmessage hcom ?_, fun hw => ?_⟩, fun o nq q hres hq hyes =>
      ⟨fun l tag hcom => hmessage hcom ?_, fun hw => ?_⟩, fun e => ?_⟩
    · rw [openHandover_alone (by simpa only [listening_resultAt, listening_operator, listening_qualifies] using hno),
        listening_opened, hopened]
    · rw [hpress hw, openHandover_alone hno, hopened]
    · rw [openHandover_companion (o := o) (nq := nq) (q := q) (by rw [listening_resultAt, hres])
        (by rw [listening_operator, hq]) (by rw [listening_qualifies, hyes]), listening_reviewed, hreviewed]
    · rw [hpress hw, openHandover_companion hres hq hyes, hreviewed]
    · rw [hcarries]
      exact mem_toCarry s d e
  · intro refused
    have href : ∀ {reason : Reason}, mayOpen d (s.listening l) = .error reason →
        exec (.handoverOpen l tag [byte d.code]) s = refused (byte reason.code) := fun hm =>
      congrArg Host.Outcome.next (refused_of_serve hcom serveHandoverOpen (serveHandoverOpen_refused hm))
    have hr' := listening_holderRecord l s d
    refine ⟨fun hr => href (mayOpen_untested (holderWith_none (hr'.trans hr))), fun op r hr => ⟨fun hrole =>
      href (mayOpen_untested (holderWith_low (hr'.trans hr) (atLeast_operator_false hrole))), fun hrole => ?_⟩⟩
    have hheld := holderWith_ok (hr'.trans hr) ((atLeast_operator_iff _).mpr hrole)
    refine ⟨fun hst => href (mayOpen_refused hheld (openTests_other (by simpa only [listening_unit] using hst))),
      fun k hst => ?_⟩
    have htests := openTests_attended (s := s.listening l) (d := d) (k := k) (by rw [listening_unit, hst])
    rw [listening_loadOf, listening_toCarry, ← hcarries] at htests
    refine ⟨fun hflood => href (mayOpen_refused hheld (htests.trans (if_pos hflood))), fun hflood hfull => ?_⟩
    exact href (mayOpen_refused hheld (htests.trans ((if_neg (by simp [hflood])).trans (if_pos hfull))))
  · rw [exec_handPress hw, handPress_idle hst]
  · rw [exec_handPress hw, handPress_attended hst, mayOpen_untested (holderWith_none hr)]
  · have herror : ∃ e, mayOpen d s = .error e := by
      by_cases hrole : r.role = .observer
      · exact ⟨_, mayOpen_untested (holderWith_low hr (atLeast_operator_false hrole))⟩
      · have hheld := holderWith_ok hr ((atLeast_operator_iff _).mpr hrole)
        have htests := openTests_attended hst
        rw [← hcarries] at htests
        cases hflood : (s.loadOf (.desk d)).flood
        · have hfull : 32 < (carries s d).length := by simpa [hrole, hflood] using hno
          exact ⟨_, mayOpen_refused hheld (htests.trans ((if_neg (by simp [hflood])).trans (if_pos hfull)))⟩
        · exact ⟨_, mayOpen_refused hheld (htests.trans (if_pos hflood))⟩
    obtain ⟨e, he⟩ := herror
    rw [exec_handPress hw, handPress_attended hst, he]

/-! ### Aborts -/

section Abort
variable {s : State} {d : Desk} {k : SlotId} {h : Handover} {inc : OpIndex}

theorem abortHandover_open (hst : (s.unit d).state = .handoverOpen k h) (reason : AbortReason) :
    abortHandover d reason s = (enter
        { kind := .handoverAbort, desk := some d, op := some h.outgoing, d1 := some reason.code
          d2 := some h.carried.length } s).putDeskState d (.attended k) := by
  rw [abortHandover, hst]

theorem abortHandover_review (hst : (s.unit d).state = .handoverReview k h inc) (reason : AbortReason) :
    abortHandover d reason s = (enter
        { kind := .handoverAbort, desk := some d, op := some h.outgoing, d1 := some reason.code
          d2 := some h.carried.length }
      (s.setResult d k.other (.companion inc false))).putDeskState d (.attended k) := by
  rw [abortHandover, hst]

theorem exec_handoverTimeout (hw : s.works = true) : exec (.handoverTimeout d) s = .next (handoverTimeout d s) :=
  congrArg Host.Outcome.next (whileWorking_of_works hw)

theorem handoverTimeout_expired (hh : (s.unit d).state.handover? = some h) (hnow : s.runSeconds = h.limitExpiry) :
    handoverTimeout d s = abortHandover d .timeout s := by
  rw [handoverTimeout, hh]
  refine if_pos ?_
  rw [hnow, reached, BitVec.sub_self]
  rfl

theorem handoverTimeout_out (hout : s.inHandover d = false) : handoverTimeout d s = s := by
  rw [handoverTimeout]
  cases hh : (s.unit d).state.handover? with
  | none => rfl
  | some h => rw [inHandover_of_handover hh] at hout; cases hout

end Abort

/-- Settles O35: by message, by press and by the limit expiry. -/
theorem handoverAborted : Obligations.HandoverAborted := by
  refine ⟨fun s d k h => ?_, fun s d => ⟨fun l tag hcom => ?_, fun hw k h hst => ⟨fun hr => ?_, fun op r hr hrole => ?_⟩⟩⟩
  · intro entry
    refine ⟨fun op r hr hrole => ⟨fun l tag hcom => ?_, fun hw hst => ?_⟩, fun hw =>
      ⟨fun hst hnow => ?_, fun inc hst hnow => ?_, fun hout => ?_⟩⟩
    · have hcancel := mayCancel_held (holderWith_ok ((listening_holderRecord l s d).trans hr) hrole)
      rw [listening_inHandover] at hcancel
      have hmessage : ∀ {u}, s.inHandover d = true → abortHandover d .cancelled (s.listening l) = u →
          exec (.handoverCancel l tag [byte d.code]) s = .next (u.replies l 11 tag 0 0 []) := fun {u} hin hu => by
        have hserve := serveHandoverCancel_granted (hcancel.trans (if_pos hin))
        have hphase : u.phase = s.phase := by rw [← hu, (abortHandover_quiet d .cancelled _).phase, listening_phase]
        rw [hu] at hserve
        exact congrArg Host.Outcome.next (command_served hcom 11 tag (readDesk_byte d) serveHandoverCancel hserve hphase rfl)
      refine ⟨fun hst => ?_, fun inc hst => ?_, fun hout => ?_⟩
      · exact hmessage (inHandover_of_handover (h := h) (by rw [hst]; rfl))
          (abortHandover_open ((congrArg DeskUnit.state (listening_unit l s d)).trans hst) .cancelled)
      · exact hmessage (inHandover_of_handover (h := h) (by rw [hst]; rfl))
          (abortHandover_review ((congrArg DeskUnit.state (listening_unit l s d)).trans hst) .cancelled)
      · exact congrArg Host.Outcome.next (refused_of_serve hcom serveHandoverCancel
          (serveHandoverCancel_refused (hcancel.trans (if_neg (by simp [hout])))))
    · have hcancel := mayCancel_held (holderWith_ok hr hrole)
      rw [if_pos (inHandover_of_handover (h := h) (by rw [hst]; rfl))] at hcancel
      rw [exec_handPress hw, handPress_open hst, hcancel]
      exact congrArg Host.Outcome.next (abortHandover_open hst .cancelled)
    · rw [exec_handoverTimeout hw, handoverTimeout_expired (h := h) (by rw [hst]; rfl) hnow]
      exact congrArg Host.Outcome.next (abortHandover_open hst .timeout)
    · rw [exec_handoverTimeout hw, handoverTimeout_expired (h := h) (by rw [hst]; rfl) hnow]
      exact congrArg Host.Outcome.next (abortHandover_review hst .timeout)
    · rw [exec_handoverTimeout hw, handoverTimeout_out hout]
  · intro refused
    have hr' := listening_holderRecord l s d
    have href : ∀ {reason : Reason}, mayCancel d (s.listening l) = .error reason →
        exec (.handoverCancel l tag [byte d.code]) s = refused (byte reason.code) := fun hm =>
      congrArg Host.Outcome.next (refused_of_serve hcom serveHandoverCancel (serveHandoverCancel_refused hm))
    exact ⟨fun hr => href (mayCancel_untested (holderWith_none (hr'.trans hr))), fun op r hr hrole =>
      href (mayCancel_untested (holderWith_low (hr'.trans hr) (atLeast_operator_false hrole)))⟩
  · rw [exec_handPress hw, handPress_open hst, mayCancel_untested (holderWith_none hr)]
  · rw [exec_handPress hw, handPress_open hst, mayCancel_untested (holderWith_low hr (atLeast_operator_false hrole))]

/-- Settles O36. -/
theorem handoverCommitted : Obligations.HandoverCommitted := by
  refine ⟨fun s d k h inc op r hst hr hrole => ?_, fun s d => ⟨fun l tag hcom => ?_, fun hw k h inc hst hall =>
    ⟨fun hr => ?_, fun op r hr hrole => ?_⟩⟩⟩
  · intro done
    have hcommit : ∀ u, commitHandover d k h inc u = done u := fun _ => rfl
    refine ⟨fun hall => ⟨fun l tag hcom => ?_, fun hw => ?_⟩, fun hsome l tag hcom => ?_⟩
    · have hmay := mayCommit_review (holderWith_ok ((listening_holderRecord l s d).trans hr) hrole)
        (show ((s.listening l).unit d).state = _ by rw [listening_unit, hst])
      rw [unbriefed_eq_nil hall, if_pos List.isEmpty_nil] at hmay
      have hphase := (commitHandover_atDesk d k h inc (s.listening l)).phase
      rw [listening_phase] at hphase
      exact congrArg Host.Outcome.next (command_served hcom 12 tag (readDesk_byte d) serveHandoverCommit
        (serveHandoverCommit_granted hmay) hphase rfl)
    · have hmay := mayCommit_review (holderWith_ok hr hrole) hst
      rw [unbriefed_eq_nil hall, if_pos List.isEmpty_nil] at hmay
      rw [exec_handPress hw, handPress_review hst (unbriefed_eq_nil hall), hmay]
      exact congrArg Host.Outcome.next (hcommit s)
    · have hmay := mayCommit_review (holderWith_ok ((listening_holderRecord l s d).trans hr) hrole)
        (show ((s.listening l).unit d).state = _ by rw [listening_unit, hst])
      rw [unbriefed_ne_nil hsome, if_neg (by simp)] at hmay
      exact congrArg Host.Outcome.next (refused_of_serve hcom serveHandoverCommit (serveHandoverCommit_refused hmay))
  · intro refused
    have hr' := listening_holderRecord l s d
    have href : ∀ {reason : Reason}, mayCommit d (s.listening l) = .error reason →
        exec (.handoverCommit l tag [byte d.code]) s = refused (byte reason.code) := fun hm =>
      congrArg Host.Outcome.next (refused_of_serve hcom serveHandoverCommit (serveHandoverCommit_refused hm))
    exact ⟨fun hr => href (mayCommit_untested (holderWith_none (hr'.trans hr))), fun op r hr =>
      ⟨fun hrole => href (mayCommit_untested (holderWith_low (hr'.trans hr) (atLeast_operator_false hrole))),
        fun hrole hst => href (mayCommit_other (holderWith_ok (hr'.trans hr) ((atLeast_operator_iff _).mpr hrole))
          (by simpa only [listening_unit] using hst))⟩⟩
  · rw [exec_handPress hw, handPress_review hst (unbriefed_eq_nil hall), mayCommit_untested (holderWith_none hr)]
  · rw [exec_handPress hw, handPress_review hst (unbriefed_eq_nil hall),
      mayCommit_untested (holderWith_low hr (atLeast_operator_false hrole))]

end Sys2Proof.Machine
end

section
/-! PROOFS. The sign-on check (O26). -/

namespace Sys2Proof.Machine

/-! ### A desk unit written before or after an entry -/

theorem append_putUnit (w : Draft) (s : State) (d : Desk) (u : DeskUnit) :
    (append w s).putUnit d u = append w (s.putUnit d u) := by
  simp only [append, State.putUnit, State.stamp, State.millNow]

theorem setPending_putUnit (c : AttnClass) (s : State) (d : Desk) (u : DeskUnit) :
    (setPending c s).putUnit d u = setPending c (s.putUnit d u) := by
  rw [setPending, setPending, State.putUnit_attention]
  by_cases hp : inClasses s.attention.pending c = true
  · rw [if_pos hp, if_pos hp]
  · rw [if_neg hp, if_neg hp]
    dsimp only
    by_cases he : inClasses s.attention.enabled c = true
    · rw [if_pos he, if_pos he]
      rfl
    · rw [if_neg he, if_neg he]
      rfl

theorem enter_putUnit (w : Draft) (s : State) (d : Desk) (u : DeskUnit) :
    (enter w s).putUnit d u = enter w (s.putUnit d u) := by
  cases hw : w.kind.row.2 with
  | none => rw [enter_none hw, enter_none hw, append_putUnit]
  | some c => rw [enter_some hw, enter_some hw, setPending_putUnit, append_putUnit]

@[simp] theorem putUnit_putUnit (s : State) (d : Desk) (u v : DeskUnit) : (s.putUnit d u).putUnit d v = s.putUnit d v := by
  cases d <;> rfl

theorem enter_putSlotState (w : Draft) (s : State) (d : Desk) (k : SlotId) (st : SlotState) :
    (enter w s).putSlotState d k st = enter w (s.putSlotState d k st) := by
  rw [State.putSlotState, State.putSlot, enter_unit, enter_slot, enter_putUnit]
  rfl

theorem putSlotState_putSlotState (s : State) (d : Desk) (k : SlotId) (st st' : SlotState) :
    (s.putSlotState d k st).putSlotState d k st' = s.putSlotState d k st' := by
  have hslot : (s.putSlotState d k st).slot d k = { s.slot d k with state := st } := by
    rw [State.putSlotState, State.slot, putSlot_unit, DeskUnit.slot_setSlot_self]
  rw [State.putSlotState, State.putSlot, hslot, State.putSlotState, putSlot_unit, DeskUnit.setSlot_setSlot, State.putSlot,
    putUnit_putUnit]
  rfl

/-- Routing is not touched by work at a desk that keeps the owners and whether the desk has a holder. -/
theorem reroute_atDesk {s t : State} {d : Desk} (h : s.AtDesk d t) (howners : t.owners = s.owners)
    (hholder : (t.unit d).state.hasHolder = (s.unit d).state.hasHolder) : reroute s t = t := by
  refine reroute_same howners.symm h.supervisor.symm (isLocal_congr h.command.symm) fun e => ?_
  rw [State.hasHolder, State.hasHolder]
  by_cases he : e = d
  · rw [he, hholder]
  · rw [h.others e he]

/-! ### A key identified -/

section Identified
variable {s : State} {d : Desk} {k : SlotId} {bat : Battery} {n : Nat} {last : Option ReadFailure} {record : SixBytes}

/-- A key seated with a result, after its KEY_IN entry (R73). -/
def State.seated (s : State) (d : Desk) (k : SlotId) (bat : Battery) (record : SixBytes) (result : SignOn) : State :=
  (enter { kind := .keyIn, desk := some d, d1 := some (256 * k.code + (recordKey record).toNat / 65536)
           d2 := some ((recordKey record).toNat % 65536) } s).putSlotState d k (.present bat (recordKey record) record.b3 result)

theorem seated_slot (result : SignOn) : ((s.seated d k bat record result).slot d k).state =
    .present bat (recordKey record) record.b3 result := by
  rw [State.seated, State.putSlotState, State.slot, putSlot_unit, DeskUnit.slot_setSlot_self]

theorem seated_setResult (r r' : SignOn) : (s.seated d k bat record r).setResult d k r' = s.seated d k bat record r' := by
  rw [State.setResult, seated_slot, State.seated, SlotState.setResult, putSlotState_putSlotState]
  rfl

theorem seated_atDesk (result : SignOn) : s.AtDesk d (s.seated d k bat record result) :=
  (enter_atDesk d _ s).trans (putSlot_atDesk d k _ _)

theorem seated_owners (result : SignOn) : (s.seated d k bat record result).owners = s.owners := by
  rw [State.seated]
  exact enter_owners _ s

theorem seated_state (result : SignOn) : ((s.seated d k bat record result).unit d).state = (s.unit d).state := by
  rw [State.seated, State.putSlotState, putSlot_unit, DeskUnit.setSlot_state, enter_unit]

theorem seated_keyRecord (result : SignOn) (key : KeyNumber) :
    (s.seated d k bat record result).keyRecord key = s.keyRecord key := by
  simp only [State.keyRecord, (seated_atDesk result).operators]

theorem seated_windowPassed (result : SignOn) (r : OperatorRecord) :
    (s.seated d k bat record result).windowPassed r = s.windowPassed r := by
  simp only [State.windowPassed, (seated_atDesk result).mill]

theorem seated_qualifies (result : SignOn) (r : OperatorRecord) :
    (s.seated d k bat record result).qualifies d r = s.qualifies d r :=
  qualifies_congr (seated_owners result) (seated_atDesk result).mill d r

/-- A key whose result names no operator is signed on nowhere, as its slot was while it was read. -/
theorem seated_whereSignedOn (hst : (s.slot d k).state = .reading bat n last) (reason : KeyRefusal) (op : OpIndex) :
    (s.seated d k bat record (.refused reason)).whereSignedOn op = s.whereSignedOn op := by
  have hsigned : ∀ e k', (s.seated d k bat record (.refused reason)).signedOn e k' = s.signedOn e k' := by
    intro e k'
    by_cases he : e = d
    · subst he
      by_cases hk : k' = k
      · subst hk
        rw [State.signedOn, seated_slot, State.signedOn, hst]
        rfl
      · obtain rfl := (SlotId.eq_or_other k k').resolve_left hk
        have hslot : (s.seated e k bat record (.refused reason)).slot e k.other = s.slot e k.other := by
          rw [State.seated, State.putSlotState, State.slot, putSlot_unit, DeskUnit.slot_setSlot_other, enter_unit]
          rfl
        rw [State.signedOn, hslot]
        rfl
    · simp only [State.signedOn, State.slot, (seated_atDesk _).others e he]
  simp only [State.whereSignedOn, hsigned]

/-- A valid record is put to the sign-on check, and routing is worked out (R37, R73, R88). -/
theorem readComplete_valid (hst : (s.slot d k).state = .reading bat n last) (hj : judgeRecord record = none) :
    readComplete d k record s = reroute s (signOnCheck d k (recordKey record) record.b3
      (s.seated d k bat record (.refused .unknownKey))) := by
  rw [readComplete, hst]
  dsimp only
  rw [hj, State.seated, enter_putSlotState]
  rfl

theorem refuseKey_seated (op : Option OpIndex) (reason : KeyRefusal) :
    refuseKey d k op reason (s.seated d k bat record (.refused .unknownKey)) =
      enter { kind := .signRefused, desk := some d, op := op, d1 := some (256 * k.code + reason.code) }
        (s.seated d k bat record (.refused reason)) := by
  rw [refuseKey, seated_setResult]
  rfl

/-- A key that gives the desk no holder changes no routing. -/
theorem reroute_seated (w : Draft) (result : SignOn) :
    reroute s (enter w (s.seated d k bat record result)) = enter w (s.seated d k bat record result) := by
  refine reroute_atDesk (d := d) ((seated_atDesk result).trans (enter_atDesk d w _)) ?_ ?_
  · rw [enter_owners, seated_owners]
  · rw [enter_unit, seated_state]

end Identified

/-! ### The check -/

section Check
variable {s : State} {d : Desk} {k : SlotId} {bat : Battery} {n : Nat} {last : Option ReadFailure} {record : SixBytes}
  {op : OpIndex} {r : OperatorRecord}

/-- The sign-on check of a record that is in the table, in the order of its tests. -/
theorem signOnCheck_record (hst : (s.slot d k).state = .reading bat n last)
    (hrec : s.keyRecord (recordKey record) = some (op, r)) :
    signOnCheck d k (recordKey record) record.b3 (s.seated d k bat record (.refused .unknownKey)) =
      if r.issue ≠ record.b3 then refuseKey d k (some op) .revoked (s.seated d k bat record (.refused .unknownKey))
      else if r.locked then refuseKey d k (some op) .locked (s.seated d k bat record (.refused .unknownKey))
      else if !s.windowPassed r then refuseKey d k (some op) .expired (s.seated d k bat record (.refused .unknownKey))
      else if (s.whereSignedOn op).isSome then
        refuseKey d k (some op) .duplicate (s.seated d k bat record (.refused .unknownKey))
      else acceptKey d k op r (s.seated d k bat record (.refused .unknownKey)) := by
  rw [signOnCheck, seated_keyRecord, hrec]
  dsimp only
  rw [seated_windowPassed, seated_whereSignedOn hst]

theorem signOnCheck_unknown (hrec : s.keyRecord (recordKey record) = none) :
    signOnCheck d k (recordKey record) record.b3 (s.seated d k bat record (.refused .unknownKey)) =
      refuseKey d k none .unknownKey (s.seated d k bat record (.refused .unknownKey)) := by
  rw [signOnCheck, seated_keyRecord, hrec]

/-- A companion at sign-on. -/
theorem signOnCompanion_seated (nq : Bool) :
    signOnCompanion d k op nq (s.seated d k bat record (.refused .unknownKey)) =
      enter { kind := .signOn, desk := some d, op := some op, d1 := some (256 * k.code + 1)
              d2 := some (if nq then 1 else 0) } (s.seated d k bat record (.companion op nq)) := by
  rw [signOnCompanion, seated_setResult]
  rfl

theorem acceptKey_companion (h : (∃ hk, (s.unit d).state = .attended hk) ∨ ((s.unit d).state = .vacant ∧ r.role = .observer)) :
    acceptKey d k op r (s.seated d k bat record (.refused .unknownKey)) =
      signOnCompanion d k op false (s.seated d k bat record (.refused .unknownKey)) := by
  rw [acceptKey, seated_state]
  rcases h with ⟨hk, hst⟩ | ⟨hst, hrole⟩
  · rw [hst]
  · rw [hst]
    exact if_neg (by simp [atLeast_operator_false hrole])

theorem acceptKey_open {hk : SlotId} {h : Handover} (hst : (s.unit d).state = .handoverOpen hk h) :
    acceptKey d k op r (s.seated d k bat record (.refused .unknownKey)) =
      if s.qualifies d r then
        enter { kind := .incoming, desk := some d, op := some op, d1 := some (256 * k.code + 1), d2 := some h.carried.length }
          (enter { kind := .signOn, desk := some d, op := some op, d1 := some (256 * k.code + 2), d2 := some 0 }
            ((s.seated d k bat record (.incoming op)).putDeskState d (.handoverReview hk h op)))
      else signOnCompanion d k op true (s.seated d k bat record (.refused .unknownKey)) := by
  rw [acceptKey, seated_state, hst]
  dsimp only
  rw [seated_qualifies, seated_setResult]
  rfl

end Check

/-- The validity window, spelt (R88, R175). -/
theorem windowPassed_iff (s : State) (r : OperatorRecord) : s.windowPassed r = true ↔ ∀ c, s.mill = some c →
    (∀ v, r.validFrom = some v → v ≤ c.now.day) ∧ ∀ v, r.validUntil = some v → c.now.day ≤ v := by
  rw [State.windowPassed]
  cases s.mill with
  | none => simp
  | some c => cases r.validFrom <;> cases r.validUntil <;> simp

/-- Settles O26: the refusals, the results, then what the tests are. -/
theorem signOnDecided : Obligations.SignOnDecided := by
  refine ⟨fun s d k record bat n last hw hst hj => ?_, fun s d k record bat n last op r hw hst hj hrec hissue hlocked
    hwindow hwhere => ?_, fun s r => ?_, fun s hwf key => ⟨fun op r hrec => ⟨keyRecord_mem hwf hrec, ?_⟩, ?_⟩, fun s op =>
    ⟨fun d k => ?_, fun d k => whereSignedOn_some, whereSignedOn_none, fun d => ?_, fun d r => holderRecord_some_iff⟩⟩
  · intro key refused
    have href : ∀ (op : Option OpIndex) (reason : KeyRefusal), signOnCheck d k key record.b3
          (s.seated d k bat record (.refused .unknownKey)) =
          refuseKey d k op reason (s.seated d k bat record (.refused .unknownKey)) →
        exec (.readComplete d k record) s = .next (refused op reason reason.code) := fun op reason hcheck => by
      rw [exec_readComplete hw, readComplete_valid hst hj, hcheck, refuseKey_seated, reroute_seated]
      rfl
    refine ⟨fun hnone => href none .unknownKey (signOnCheck_unknown hnone), fun op r hrec => ?_⟩
    have hcheck := signOnCheck_record (bat := bat) hst hrec
    refine ⟨fun hissue => href (some op) .revoked (hcheck.trans (if_pos hissue)), fun hissue hlocked =>
      href (some op) .locked ?_, fun hissue hlocked hwindow => href (some op) .expired ?_,
      fun hissue hlocked hwindow hwhere => href (some op) .duplicate ?_⟩
    · rw [hcheck, if_neg (by simp [hissue]), if_pos hlocked]
    · rw [hcheck, if_neg (by simp [hissue]), if_neg (by simp [hlocked]), if_pos (by simp [hwindow])]
    · rw [hcheck, if_neg (by simp [hissue]), if_neg (by simp [hlocked]), if_neg (by simp [hwindow]), if_pos hwhere]
  · intro key seated entry
    have hexec : exec (.readComplete d k record) s =
        .next (reroute s (acceptKey d k op r (s.seated d k bat record (.refused .unknownKey)))) := by
      rw [exec_readComplete hw, readComplete_valid hst hj, signOnCheck_record hst hrec, if_neg (by simp [hissue]),
        if_neg (by simp [hlocked]), if_neg (by simp [hwindow]), if_neg (by simp [hwhere])]
    refine ⟨fun h => ?_, fun hk h hdesk hq => ?_, fun hk h hdesk hq => ?_⟩
    · rw [hexec, acceptKey_companion h, signOnCompanion_seated, reroute_seated]
      rfl
    · rw [hexec, acceptKey_open hdesk, if_neg (by simp [hq]), signOnCompanion_seated, reroute_seated]
      rfl
    · rw [hexec, acceptKey_open hdesk, if_pos hq]
      refine congrArg Host.Outcome.next ?_
      refine reroute_atDesk (d := d) ((seated_atDesk _).trans ((putDeskState_atDesk d _ _).trans
        ((enter_atDesk d _ _).trans (enter_atDesk d _ _)))) ?_ ?_
      · rw [enter_owners, enter_owners]
        exact seated_owners (bat := bat) (.incoming op)
      · rw [enter_unit, enter_unit, putDeskState_unit, hdesk]
        rfl
  · intro window
    have hwindow : s.windowPassed r = true ↔ window := windowPassed_iff s r
    refine ⟨hwindow, ?_, ?_, fun hwf d => ?_⟩
    · cases r.role <;> decide
    · cases r.role <;> decide
    · rw [qualifies_iff hwf, atLeast_operator_iff, hwindow]
      exact Iff.rfl
  · have hfound := List.find?_some hrec
    simpa using hfound
  · rw [State.keyRecord, List.find?_eq_none]
    constructor
    · exact fun h op r hop => by simpa using h (op, r) (tableGet_mem hop)
    · rintro h ⟨op, r⟩ hmem
      simpa using h op r (tableGet_of_mem hwf hmem)
  · rw [signedOn_eq, resultAt_eq, DeskUnit.signs]
    cases (s.unit d).result k with
    | none => simp
    | some x =>
      cases x with
      | companion o nq => cases nq <;> simp [SignOn.op?]
      | _ => simp [SignOn.op?]
  · rw [holder_some_iff]
    refine exists_congr fun k => ?_
    rw [resultAt_eq, and_comm]
    refine and_congr_right fun _ => ?_
    cases (s.unit d).state <;> simp [DeskState.holderSlot?]

end Sys2Proof.Machine
end

section
/-! PROOFS. Contacts (O22). -/

namespace Sys2Proof.Machine

section Contacts
variable {s : State} {d : Desk} {k : SlotId} {c : Contact}

theorem putSlot_putSlot (s : State) (d : Desk) (k : SlotId) (v w : Slot) :
    (s.putSlot d k v).putSlot d k w = s.putSlot d k w := by
  rw [State.putSlot, putSlot_unit, DeskUnit.setSlot_setSlot, State.putSlot, putUnit_putUnit]
  rfl

theorem slot_putSlot (s : State) (d : Desk) (k : SlotId) (v : Slot) : (s.putSlot d k v).slot d k = v := by
  rw [State.slot, putSlot_unit, DeskUnit.slot_setSlot_self]

/-- A slot whose pin and contact have moved. -/
def State.contactMoved (s : State) (d : Desk) (k : SlotId) (c : Contact) (closed : Bool) (st : SlotState) : State :=
  s.putSlot d k { pins := (s.slot d k).pins.set c closed, contacts := (s.slot d k).contacts.set c closed, state := st }

theorem moveContact_setPin (closed : Bool) (st : SlotState) :
    moveContact d k c closed st (setPin d k c closed s) = s.contactMoved d k c closed st := by
  rw [moveContact, setPin, slot_putSlot, putSlot_putSlot]
  rfl

theorem setPin_works (closed : Bool) : (setPin d k c closed s).works = s.works := rfl

theorem exec_contactClose_idle (h : s.works = false ∨ (s.slot d k).contacts.get c = true) :
    exec (.contactClose d k c) s = .next (setPin d k c true s) := by
  refine congrArg Host.Outcome.next ?_
  rcases h with h | h
  · exact whileWorking_of_idle ((setPin_works true).trans h)
  · have hget : ((setPin d k c true s).slot d k).contacts.get c = true := by rw [setPin, slot_putSlot, h]
    rw [whileWorking]
    split
    · exact if_pos hget
    · rfl

theorem exec_contactOpen_idle (h : s.works = false ∨ (s.slot d k).contacts.get c = false) :
    exec (.contactOpen d k c) s = .next (setPin d k c false s) := by
  refine congrArg Host.Outcome.next ?_
  rcases h with h | h
  · exact whileWorking_of_idle ((setPin_works false).trans h)
  · have hget : ((setPin d k c false s).slot d k).contacts.get c = false := by rw [setPin, slot_putSlot, h]
    rw [whileWorking]
    split
    · exact if_neg (by simp [hget])
    · rfl

theorem afterClose_eq (st : SlotState) (desk : DeskState) : st.afterClose (decide (desk ≠ .outOfService)) =
    match st with
      | .empty => .oneContact
      | .oneContact => if desk = .outOfService then .unpowered else .settling
      | st => st := by
  cases st with
  | oneContact => by_cases h : desk = .outOfService <;> simp [SlotState.afterClose, h]
  | _ => rfl

theorem exec_contactClose (hw : s.works = true) (h : (s.slot d k).contacts.get c = false) :
    exec (.contactClose d k c) s = .next (s.contactMoved d k c true
      ((s.slot d k).state.afterClose (decide ((s.unit d).state ≠ .outOfService)))) := by
  have hslot : (setPin d k c true s).slot d k = { s.slot d k with pins := (s.slot d k).pins.set c true } :=
    slot_putSlot _ _ _ _
  have hunit : ((setPin d k c true s).unit d).state = (s.unit d).state := by
    rw [setPin, putSlot_unit, DeskUnit.setSlot_state]
  refine congrArg Host.Outcome.next ((whileWorking_of_works ((setPin_works true).trans hw)).trans ?_)
  rw [closeContact, if_neg (by rw [hslot, h]; simp), hslot, hunit, moveContact_setPin]

/-- An opening contact: the slot moves, then the key's removal, then routing (R65, R75). -/
theorem exec_contactOpen (hw : s.works = true) (h : (s.slot d k).contacts.get c = true) :
    exec (.contactOpen d k c) s = .next (reroute s (removalOf d k (s.slot d k).state
      (s.contactMoved d k c false (s.slot d k).state.afterOpen))) := by
  have hslot : (setPin d k c false s).slot d k = { s.slot d k with pins := (s.slot d k).pins.set c false } :=
    slot_putSlot _ _ _ _
  have htarget : ∀ a, (setPin d k c false s).target a = s.target a := fun a => by
    refine target_congr (s := setPin d k c false s) (t := s) rfl rfl rfl (fun e => ?_) a
    rw [State.hasHolder, State.hasHolder, setPin, State.putSlot, State.unit_putUnit]
    split
    · next he => rw [DeskUnit.setSlot_state, he]
    · rfl
  refine congrArg Host.Outcome.next ((whileWorking_of_works ((setPin_works false).trans hw)).trans ?_)
  rw [openContact, if_pos (by rw [hslot, h])]
  dsimp only
  rw [hslot, moveContact_setPin, reroute_before_congr htarget]

theorem contactMoved_atDesk (closed : Bool) (st : SlotState) : s.AtDesk d (s.contactMoved d k c closed st) :=
  putSlot_atDesk d k _ s

theorem contactMoved_state (closed : Bool) (st : SlotState) :
    ((s.contactMoved d k c closed st).unit d).state = (s.unit d).state := by
  rw [State.contactMoved, putSlot_unit, DeskUnit.setSlot_state]

/-- A removal that is only journalled changes no routing. -/
theorem reroute_moved (st : SlotState) (ws : List Draft) :
    reroute s (ws.foldl (fun s w => enter w s) (s.contactMoved d k c false st)) =
      ws.foldl (fun s w => enter w s) (s.contactMoved d k c false st) := by
  have hkept : ∀ (ws : List Draft) (u : State), (ws.foldl (fun s w => enter w s) u).owners = u.owners ∧
      (ws.foldl (fun s w => enter w s) u).unit d = u.unit d := by
    intro ws
    induction ws with
    | nil => exact fun u => ⟨rfl, rfl⟩
    | cons w ws ih => exact fun u => ⟨(ih (enter w u)).1.trans (enter_owners w u), (ih (enter w u)).2.trans (enter_unit w u d)⟩
  refine reroute_atDesk (d := d) ((contactMoved_atDesk false st).trans
    (State.AtDesk.foldl (fun u w => enter_atDesk d w u) ws _)) ?_ ?_
  · exact (hkept ws _).1
  · rw [(hkept ws _).2, contactMoved_state]

end Contacts

/-- Settles O22. -/
theorem contactsMove : Obligations.ContactsMove := by
  refine ⟨fun s d k c => ?_, fun s d k c hw hget hholder hincoming => ?_⟩
  · intro sl
    refine ⟨fun hw hget => ?_, fun h => exec_contactClose_idle h, fun h => exec_contactOpen_idle h⟩
    rw [exec_contactClose hw hget, State.contactMoved, afterClose_eq] <;> rfl
  · intro sl moved out
    have hmoved : ∀ st, s.contactMoved d k c false st = moved st := fun _ => rfl
    rw [exec_contactOpen hw hget]
    refine congrArg Host.Outcome.next ?_
    have hres : s.resultAt d k = (s.slot d k).state.result? := rfl
    rw [hres] at hholder hincoming
    have hquiet : ∀ st (ws : List Draft), reroute s (ws.foldl (fun s w => enter w s) (moved st)) =
        ws.foldl (fun s w => enter w s) (moved st) := fun st ws => reroute_moved st ws
    cases hst : sl.state with
    | empty => exact hquiet .empty []
    | oneContact => exact hquiet .empty []
    | unpowered => exact hquiet .oneContact []
    | settling => exact hquiet .oneContact []
    | reading b n f => exact hquiet .oneContact [out 1 none none]
    | faultBattery => exact hquiet .oneContact [out 3 none none]
    | faultRead f => exact hquiet .oneContact [out 3 none none]
    | present b key issue r =>
      rw [show (s.slot d k).state = .present b key issue r from hst] at hholder hincoming
      cases r with
      | companion op nq =>
        exact hquiet .oneContact [out 2 (some op) (some 1),
          { kind := .signOff, desk := some d, op := some op, d1 := some (256 * k.code + 1) }]
      | refused reason => exact hquiet .oneContact [out 2 none (some 3)]
      | holder op => exact absurd rfl (hholder op)
      | incoming op => exact absurd rfl (hincoming op)

end Sys2Proof.Machine
end

section
/-! PROOFS. The series of shift starts: how many lie up to a second, which ones a forward move of mill time crosses, and
the arithmetic of the cycle of mill times (R165, R166, R171). -/

namespace Sys2Proof.Machine

/-! ### Counting starts -/

section Starts
variable {l : List Nat}

/-- In a rising list at most `j` entries are up to `r` exactly when entry `j` lies beyond `r`. -/
theorem upTo_length_le_iff (h : l.Pairwise (· < ·)) (r : Nat) {j : Nat} (hj : j < l.length) :
    (l.filter (fun x => decide (x ≤ r))).length ≤ j ↔ r < l.getD j 0 := by
  induction l generalizing j with
  | nil => simp at hj
  | cons x rest ih =>
    obtain ⟨hx, hrest⟩ := List.pairwise_cons.mp h
    by_cases hxr : x ≤ r
    · rw [List.filter_cons_of_pos (by simpa using hxr), List.length_cons]
      cases j with
      | zero => simp [hxr]
      | succ j => simpa using ih hrest (by simpa using hj)
    · have hnone : rest.filter (fun x => decide (x ≤ r)) = [] := by
        rw [List.filter_eq_nil_iff]
        intro y hy
        have := hx y hy
        simp; omega
      rw [List.filter_cons_of_neg (by simpa using hxr), hnone]
      cases j with
      | zero => simpa using hxr
      | succ j =>
        have hj' : j < rest.length := by simpa using hj
        have := hx rest[j] (List.getElem_mem hj')
        simp [List.getElem?_eq_getElem hj']
        omega

variable (hok : scheduleOk l = true)
include hok

theorem scheduleOk_pos : 0 < l.length := by have := ((scheduleOk_iff l).mp hok).1; omega

theorem scheduleOk_getD_lt (j : Nat) : l.getD j 0 < 86400 := by
  obtain ⟨_, _, hday, _⟩ := (scheduleOk_iff l).mp hok
  rw [List.getD_eq_getElem?_getD]
  cases hj : l[j]? with
  | none => simp
  | some x => exact hday x (List.mem_of_getElem? hj)

/-- At most `m` starts lie up to a second exactly when start number `m` lies beyond it. -/
theorem startsUpTo_le_iff (p m : Nat) : startsUpTo l p ≤ m ↔ p < startSecond l m := by
  obtain ⟨_, _, _, hrise⟩ := (scheduleOk_iff l).mp hok
  have hk := scheduleOk_pos hok
  have hcount := upTo_length_le_iff hrise (p % 86400) (Nat.mod_lt m hk)
  have hsecond := scheduleOk_getD_lt hok (m % l.length)
  have hlength := List.length_filter_le (fun x => decide (x ≤ p % 86400)) l
  have hm := Nat.div_add_mod m l.length
  have hindex := Nat.mod_lt m hk
  simp only [startsUpTo, startSecond]
  generalize (l.filter (fun x => decide (x ≤ p % 86400))).length = count at *
  generalize l.getD (m % l.length) 0 = second at *
  generalize m / l.length = day at *
  generalize m % l.length = j at *
  subst hm
  rcases Nat.lt_trichotomy (p / 86400) day with hlt | heq | hgt
  · have : (p / 86400 + 1) * l.length ≤ day * l.length := Nat.mul_le_mul_right _ hlt
    have : day * l.length = l.length * day := Nat.mul_comm _ _
    rw [Nat.add_mul] at *
    omega
  · have : p / 86400 * l.length = l.length * day := by rw [heq, Nat.mul_comm]
    omega
  · have : (day + 1) * l.length ≤ p / 86400 * l.length := Nat.mul_le_mul_right _ hgt
    have : day * l.length = l.length * day := Nat.mul_comm _ _
    rw [Nat.add_mul] at *
    omega

theorem startsUpTo_mono {p q : Nat} (h : p ≤ q) : startsUpTo l p ≤ startsUpTo l q := by
  rw [startsUpTo_le_iff hok]
  have := (startsUpTo_le_iff hok q _).mp (Nat.le_refl _)
  omega

/-- The starts after one second and up to another are numbered on from the count up to the one. -/
theorem startsUpTo_between_iff (p q m : Nat) :
    (startsUpTo l p ≤ m ∧ m < startsUpTo l q) ↔ p < startSecond l m ∧ startSecond l m ≤ q := by
  have := startsUpTo_le_iff hok q m
  rw [startsUpTo_le_iff hok]
  omega

theorem startSecond_lt {m n : Nat} (h : m < n) : startSecond l m < startSecond l n := by
  obtain ⟨_, _, _, hrise⟩ := (scheduleOk_iff l).mp hok
  have hk := scheduleOk_pos hok
  have hsecond := scheduleOk_getD_lt hok (m % l.length)
  rcases Nat.lt_or_eq_of_le (Nat.div_le_div_right h.le : m / l.length ≤ n / l.length) with hday | hday
  · simp only [startSecond]
    omega
  · have hindex : m % l.length < n % l.length := by
      have h1 := Nat.div_add_mod m l.length
      have h2 := Nat.div_add_mod n l.length
      rw [hday] at h1
      omega
    have hrise' := List.pairwise_iff_getElem.mp hrise _ _ (Nat.mod_lt m hk) (Nat.mod_lt n hk) hindex
    simp only [startSecond, hday, List.getD_eq_getElem?_getD, List.getElem?_eq_getElem (Nat.mod_lt m hk),
      List.getElem?_eq_getElem (Nat.mod_lt n hk), Option.getD_some]
    omega

theorem startSecond_inj {m n : Nat} (h : startSecond l m = startSecond l n) : m = n := by
  rcases Nat.lt_trichotomy m n with hlt | heq | hgt
  · exact absurd h (startSecond_lt hok hlt).ne
  · exact heq
  · exact absurd h (startSecond_lt hok hgt).ne'

/-- The start at index `j` of a day has that index in its number. -/
theorem startSecond_at {j x : Nat} (hj : l[j]? = some x) (day : Nat) :
    startSecond l (day * l.length + j) = day * 86400 + x ∧ (day * l.length + j) % l.length = j ∧
      startMill l (day * l.length + j) = { day := day % 65536, second := x } := by
  obtain ⟨hlt, _⟩ := List.getElem?_eq_some_iff.mp hj
  have hmod : (day * l.length + j) % l.length = j := by
    rw [Nat.mul_comm, Nat.mul_add_mod, Nat.mod_eq_of_lt hlt]
  have hdiv : (day * l.length + j) / l.length = day := by
    rw [Nat.mul_comm, Nat.mul_add_div (scheduleOk_pos hok), Nat.div_eq_of_lt hlt, Nat.add_zero]
  simp [startSecond, startMill, hmod, hdiv, hj]

end Starts

/-- No start is counted anew up to a later second of the same day when the schedule has none between. -/
theorem startsUpTo_same {l : List Nat} {day second j : Nat} (h : second + j < 86400)
    (hnone : ∀ y ∈ l, y ≤ second ∨ second + j < y) :
    startsUpTo l (day * 86400 + second + j) = startsUpTo l (day * 86400 + second) := by
  have h1 : (day * 86400 + second + j) / 86400 = (day * 86400 + second) / 86400 := by omega
  have h2 : (day * 86400 + second + j) % 86400 = second + j := by omega
  have h3 : (day * 86400 + second) % 86400 = second := by
    rw [Nat.mul_comm, Nat.mul_add_mod, Nat.mod_eq_of_lt (by omega)]
  have hfilter : l.filter (fun s => decide (s ≤ second + j)) = l.filter (fun s => decide (s ≤ second)) := by
    apply List.filter_congr
    intro y hy
    have := hnone y hy
    simp only [decide_eq_decide]
    omega
  simp only [startsUpTo, h1, h2, h3, hfilter]

/-! ### The cycle of mill times -/

theorem millAt_eq {p : Nat} {t : MillTime} (hday : t.day < 65536) (hsecond : t.second < 86400)
    (h : p % millCycle = t.position) : millAt p = t := by
  obtain ⟨day, second⟩ := t
  simp only [millCycle, MillTime.position] at h hday hsecond
  simp only [millAt, MillTime.mk.injEq]
  omega

theorem difference_pos_iff (t u : MillTime) : 0 < difference t u ↔ 0 < ahead t u ∧ ahead t u < millCycle / 2 := by
  have : ahead t u < millCycle := Nat.mod_lt _ (by decide)
  unfold difference
  split <;> omega

theorem startMill_position (l : List Nat) (m : Nat) :
    (startMill l m).position % millCycle = startSecond l m % millCycle := by
  simp only [MillTime.position, startMill, startSecond, millCycle]
  omega

/-- How far start number `m` lies beyond a mill time, told from how far the present one does. -/
theorem ahead_startMill (t now : MillTime) (l : List Nat) {m : Nat} (h : now.position ≤ startSecond l m) :
    ahead t (startMill l m) = (ahead t now + (startSecond l m - now.position)) % millCycle := by
  have hm := startMill_position l m
  simp only [ahead]
  generalize (startMill l m).position = q at *
  generalize startSecond l m = r at *
  generalize t.position = p at *
  generalize now.position = n at *
  simp only [millCycle] at *
  omega

/-! ### The starts a forward move crosses -/

section Crossed
variable {l : List Nat} (c : MillClock) {d : Nat}

theorem crossed_of_none (h : ∀ j, j ≤ d → startsUpTo l (c.now.position + j) = startsUpTo l c.now.position) :
    (crossed l c d).1 = (crossed l c d).2 := by
  simp only [crossed]
  split
  · exact (h _ (Nat.min_le_left _ _)).symm
  · exact (h _ (Nat.min_le_left _ _)).trans (h d (Nat.le_refl d)).symm

variable (hok : scheduleOk l = true)
include hok

theorem crossed_le : (crossed l c d).1 ≤ (crossed l c d).2 := by
  simp only [crossed]
  split
  · exact startsUpTo_mono hok (Nat.le_add_right _ _)
  · exact startsUpTo_mono hok (Nat.add_le_add_left (Nat.min_le_left _ _) _)

/-- The range of `crossed` is that of the starts crossed (R167, R171). -/
theorem crossed_iff (hd : d < millCycle / 2) (m : Nat) :
    ((crossed l c d).1 ≤ m ∧ m < (crossed l c d).2) ↔ crossesStart l c d m := by
  have hlt : ahead c.lastFired c.now < millCycle := Nat.mod_lt _ (by decide)
  by_cases hpos : c.now.position < startSecond l m
  · have hahead := ahead_startMill c.lastFired c.now l hpos.le
    unfold crossesStart
    rw [difference_pos_iff, hahead]
    simp only [crossed]
    generalize ahead c.lastFired c.now = e at *
    split
    · rw [startsUpTo_between_iff hok]
      simp only [millCycle] at *
      omega
    · rw [startsUpTo_between_iff hok]
      simp only [millCycle] at *
      omega
  · unfold crossesStart
    simp only [crossed]
    split
    · rw [startsUpTo_between_iff hok]
      omega
    · rw [startsUpTo_between_iff hok]
      omega

end Crossed

end Sys2Proof.Machine
end

section
/-! PROOFS. Run seconds, the minute pulse and shift starts (O42, O43). -/

namespace Sys2Proof.Machine

/-! ### Starts firing -/

@[simp] theorem startsFire_self (a : Nat) (s : State) : s.startsFire a a = s := by simp [State.startsFire]

theorem startsFire_one (m : Nat) (s : State) : s.startsFire m (m + 1) = fireBoundary m s := by
  simp [State.startsFire]

theorem moveMill_eq {s : State} {c : MillClock} (h : s.mill = some c) (t : MillTime) :
    moveMill t s = { s with mill := some { c with now := t } } := by
  simp [moveMill, h]

/-- A forward move without an entry. -/
theorem moveForward_none {s : State} {c : MillClock} (h : s.mill = some c) (d : Nat) :
    moveForward c d none s = State.startsFire (crossed s.schedule c d).1 (crossed s.schedule c d).2
      { s with mill := some { c with now := millAt (c.now.position + d) } } := by
  simp only [moveForward, fireCrossed_eq, moveMill_eq h]

/-- A forward move with an entry. -/
theorem moveForward_some {s : State} {c : MillClock} (h : s.mill = some c) (d : Nat) (w : Draft) :
    moveForward c d (some w) s = State.startsFire (crossed s.schedule c d).1 (crossed s.schedule c d).2
      (enter w { s with mill := some { c with now := millAt (c.now.position + d) } }) := by
  simp only [moveForward, fireCrossed_eq, moveMill_eq h]

/-- What a start fired leaves of the state (R167, R143). -/
theorem fireBoundary_rest (m : Nat) (s : State) :
    fireBoundary m s = { s with
      mill := s.mill.map (fun c => { c with lastFired := startMill s.schedule m }), desks := (fireBoundary m s).desks
      journal := (fireBoundary m s).journal, nextSeq := s.nextSeq + 1, attention := (fireBoundary m s).attention
      links := (fireBoundary m s).links } := by
  have hentered := enter_onDesks { kind := .shiftStart, d1 := some (startIndex s.schedule m),
                                   d2 := some (desksWithHolder s).length }
    { s with mill := s.mill.map (fun c => { c with lastFired := startTime s.schedule m }) }
  have hnext := enter_nextSeq { kind := .shiftStart, d1 := some (startIndex s.schedule m),
                                d2 := some (desksWithHolder s).length }
    { s with mill := s.mill.map (fun c => { c with lastFired := startTime s.schedule m }) }
  rw [fireBoundary_eq]
  generalize enter _ _ = u at *
  refine (congrArg (fun v : State => { v with desks := PerDesk.of (fun d => markDue s.runSeconds (s.unit d)) })
    hentered).trans ?_
  rw [hnext]
  rfl

theorem fireBoundary_unit (m : Nat) (s : State) (d : Desk) :
    (fireBoundary m s).unit d = if s.hasHolder d then
        { s.unit d with due := some { time := s.runSeconds, late := ((s.unit d).due.map (·.late)).getD false } }
      else s.unit d := by
  rw [fireBoundary_eq]
  simp only [State.unit, PerDesk.get_of, markDue]
  rfl

/-- The state whose journal the SHIFT_START entry of start number `m` joins, mill time's last fired boundary moved. -/
theorem fireBoundary_logs (m : Nat) (s : State) :
    s.Logs (fireBoundary m s) [{ kind := .shiftStart, d1 := some (m % s.schedule.length)
                                 d2 := some (allDesks.filter (fun d => s.hasHolder d)).length }] := by
  rw [fireBoundary_eq]
  refine State.Logs.congr (State.Logs.enter_after (s := s) (t := { s with
    mill := s.mill.map (fun c => { c with lastFired := startTime s.schedule m }) }) rfl rfl) rfl rfl

theorem stamp_mem_enter (w : Draft) (s : State) : s.stamp w ∈ (enter w s).journal := by
  rw [enter_journal, append]
  simp only [retain, Config.journalDepth, List.length_append, List.length_singleton]
  rw [List.drop_append_of_le_length (by omega)]
  exact List.mem_append_right _ (List.mem_singleton_self _)

/-- The SHIFT_START entry has the mill time at which the start fires (R178). -/
theorem fireBoundary_entry (m : Nat) (s : State) : ∃ e ∈ (fireBoundary m s).journal, e.seq = s.nextSeq ∧
    e.mill = s.mill.map (·.now) ∧ e.what = { kind := .shiftStart, d1 := some (m % s.schedule.length)
                                             d2 := some (allDesks.filter (fun d => s.hasHolder d)).length } := by
  rw [fireBoundary_eq]
  refine ⟨_, stamp_mem_enter _ _, rfl, ?_, rfl⟩
  simp only [State.stamp, State.millNow, Option.map_map]
  rfl

/-! ### A second passes -/

theorem handTick_eq (s : State) : handTick s =
    { s with tick := if s.runSeconds ≠ 0 ∧ s.runSeconds.toNat % 60 = 0 then ⟨true, true, true⟩ else s.tick } := by
  unfold handTick
  split <;> rfl

theorem exec_secondEvent {s : State} (hw : s.works = true) :
    exec .secondEvent s = .next (handTick (advanceMill { s with runSeconds := s.runSeconds + 1 })) :=
  congrArg Host.Outcome.next (whileWorking_of_works hw)

theorem advanceMill_some {s : State} {c : MillClock} (h : s.mill = some c) : advanceMill s = moveForward c 1 none s := by
  rw [advanceMill, h]

theorem exec_minutePulse {s : State} (hw : s.works = true) : exec .minutePulse s = .next (minutePulse s) :=
  congrArg Host.Outcome.next (whileWorking_of_works hw)

/-- The mill time a move of up to the rest of the day leads to (R165). -/
theorem millAt_forward {t : MillTime} {d : Nat} (hday : t.day < 65536) (h : t.second + d ≤ 86400) :
    millAt (t.position + d) = if t.second + d < 86400 then { t with second := t.second + d }
      else { day := (t.day + 1) % 65536, second := 0 } := by
  split
  · refine millAt_eq (t := { t with second := t.second + d }) hday ‹_› ?_
    simp only [MillTime.position, millCycle]
    omega
  · refine millAt_eq (Nat.mod_lt _ (by decide)) (by decide : 0 < 86400) ?_
    simp only [MillTime.position, millCycle]
    omega

/-- A second that crosses no start (R163 to R165). -/
theorem exec_secondEvent_still {s : State} {c : MillClock} (hw : s.works = true) (hc : s.mill = some c)
    (hnone : (crossed s.schedule c 1).1 = (crossed s.schedule c 1).2) :
    exec .secondEvent s = .next { s with
      runSeconds := s.runSeconds + 1
      tick := if s.runSeconds + 1 ≠ 0 ∧ (s.runSeconds + 1).toNat % 60 = 0 then ⟨true, true, true⟩ else s.tick
      mill := some { c with now := millAt (c.now.position + 1) } } := by
  rw [exec_secondEvent hw, advanceMill_some (s := { s with runSeconds := s.runSeconds + 1 }) hc,
    moveForward_none (s := { s with runSeconds := s.runSeconds + 1 }) hc, hnone, startsFire_self, handTick_eq]

/-- The start a second can reach has the mill time it brings (R165). -/
theorem startMill_of_crossesStart {l : List Nat} {c : MillClock} {m : Nat} (hok : scheduleOk l = true)
    (h : crossesStart l c 1 m) : startMill l m = millAt (c.now.position + 1) := by
  obtain ⟨hlow, hhigh, -⟩ := h
  have hp : startSecond l m = c.now.position + 1 := by omega
  refine (millAt_eq (Nat.mod_lt _ (by decide)) (scheduleOk_getD_lt hok _) ?_).symm
  rw [← hp, ← startMill_position]
  refine Nat.mod_eq_of_lt ?_
  have := scheduleOk_getD_lt hok (m % l.length)
  simp only [MillTime.position, startMill, millCycle]
  omega

/-- Where no start is crossed the range of those crossed is empty. -/
theorem crossed_empty {l : List Nat} {c : MillClock} {d : Nat} (hok : scheduleOk l = true) (hd : d < millCycle / 2)
    (h : ∀ m, ¬ crossesStart l c d m) : (crossed l c d).1 = (crossed l c d).2 := by
  have hle := crossed_le c hok (d := d)
  have := (crossed_iff c hok hd (crossed l c d).1).mp
  have := h (crossed l c d).1
  by_contra hne
  exact this (by apply_assumption; omega)

theorem minutePulse_some {s : State} {c : MillClock} (hc : s.mill = some c) (hhold : s.timeHold = false) :
    minutePulse s = roundMinute c s := by
  simp [minutePulse, hc, hhold]

/-- A minute pulse that goes forward (R173). -/
theorem minutePulse_forward {s : State} {c : MillClock} (hc : s.mill = some c) (hhold : s.timeHold = false)
    (h : 30 ≤ c.now.second % 60) :
    minutePulse s = State.startsFire (crossed s.schedule c (60 - c.now.second % 60)).1
      (crossed s.schedule c (60 - c.now.second % 60)).2
      (enter { kind := .pulse, d1 := some (60 - c.now.second % 60), d2 := some 1 }
        { s with mill := some { c with now := millAt (c.now.position + (60 - c.now.second % 60)) } }) := by
  rw [minutePulse_some hc hhold]
  simp only [roundMinute]
  rw [if_neg (by omega), if_neg (by omega), moveForward_some hc]
  rfl

/-- Settles O42. -/
theorem timeRunsOn : Obligations.TimeRunsOn := by
  refine ⟨fun s hw => ?_, fun s hw => ?_⟩
  · intro now tick
    refine ⟨fun hc => ?_, fun c hc hsecond hnone hday => ?_, fun c hc hok hday hsecond => ?_⟩
    · rw [exec_secondEvent hw, advanceMill, hc, handTick_eq]
    · have hsame : ∀ j, j ≤ 1 → startsUpTo s.schedule (c.now.position + j) = startsUpTo s.schedule c.now.position := by
        refine fun j hj => startsUpTo_same (by omega) fun y hy => ?_
        have := hnone y hy
        omega
      rw [exec_secondEvent_still hw hc (crossed_of_none c hsame), millAt_forward hday (by omega), if_pos hsecond]
    · intro next hquiet
      have hnext : millAt (c.now.position + 1) = next := millAt_forward hday (by omega)
      have hnone : ∀ m, ¬ crossesStart s.schedule c 1 m := by
        intro m hm
        have hstart := (startMill_of_crossesStart hok hm).trans hnext
        rcases hquiet with h | h
        · refine h (startMill s.schedule m).second ?_ (congrArg MillTime.second hstart)
          have hlt := Nat.mod_lt m (scheduleOk_pos hok)
          simp [startMill, List.getElem?_eq_getElem hlt]
        · have := hm.2.2
          rw [hstart] at this
          omega
      rw [exec_secondEvent_still hw hc (crossed_empty hok (by decide) hnone), hnext]
  · refine ⟨fun h => ?_, fun c hc hhold => ?_⟩
    · rw [exec_minutePulse hw, minutePulse]
      rcases h with h | h
      · rw [h]
      · rw [h]
        cases s.mill <;> rfl
    · intro x
      refine ⟨fun hx => ?_, fun hpos hx => ?_, fun hx hday hsecond hnone => ?_, fun hx hok hday hsecond => ?_⟩
      · rw [exec_minutePulse hw, minutePulse_some hc hhold, roundMinute, if_pos hx]
      · rw [exec_minutePulse hw, minutePulse_some hc hhold, roundMinute, if_neg (by omega), if_pos hx, moveMill_eq hc]
        rfl
      · have hsame : ∀ j, j ≤ 60 - x → startsUpTo s.schedule (c.now.position + j) =
            startsUpTo s.schedule c.now.position := by
          refine fun j hj => startsUpTo_same (by omega) fun y hy => ?_
          have := hnone y hy
          omega
        rw [exec_minutePulse hw, minutePulse_forward hc hhold hx, crossed_of_none c hsame, startsFire_self,
          millAt_forward hday (by omega), if_pos hsecond]
      · intro next
        have hd : 60 - x < millCycle / 2 := by simp only [millCycle]; omega
        refine ⟨_, _, crossed_le c hok, crossed_iff c hok hd, ?_⟩
        rw [exec_minutePulse hw, minutePulse_forward hc hhold hx, millAt_forward hday (by omega)]

/-- The one start a second crosses (R165, R167). -/
theorem crossed_one {l : List Nat} {c : MillClock} {m : Nat} (hok : scheduleOk l = true) (h : crossesStart l c 1 m) :
    crossed l c 1 = (m, m + 1) := by
  have hrange := crossed_iff c hok (by decide : 1 < millCycle / 2)
  have hunique : ∀ n, crossesStart l c 1 n → n = m := fun n hn => startSecond_inj hok (by
    obtain ⟨hlow, hhigh, -⟩ := h
    obtain ⟨hlow', hhigh', -⟩ := hn
    omega)
  obtain ⟨hfirst, hlast⟩ := (hrange m).mpr h
  have ha := hunique _ ((hrange (crossed l c 1).1).mp ⟨Nat.le_refl _, by omega⟩)
  have hb := hunique _ ((hrange ((crossed l c 1).2 - 1)).mp ⟨by omega, by omega⟩)
  ext <;> omega

/-- Settles O43. -/
theorem boundaryFires : Obligations.BoundaryFires := by
  refine ⟨fun s c j hw hc hok hday hsecond => ?_, fun s m => ?_⟩
  · intro start hj hpos now
    have hnext : millAt (c.now.position + 1) = start := millAt_forward hday (by omega)
    obtain ⟨hstart, hindex, hmill⟩ := startSecond_at hok hj ((c.now.position + 1) / 86400)
    have hday' : (c.now.position + 1) / 86400 % 65536 = start.day := congrArg MillTime.day hnext
    have hsec : (c.now.position + 1) % 86400 = start.second := congrArg MillTime.second hnext
    rw [hday'] at hmill
    generalize (c.now.position + 1) / 86400 * s.schedule.length + j = m at *
    have hcrosses : crossesStart s.schedule c 1 m := by
      refine ⟨by omega, by omega, ?_⟩
      rw [hmill]
      exact hpos
    let u : State := { s with runSeconds := now, mill := some { c with now := start } }
    have hfired : advanceMill { s with runSeconds := now } = fireBoundary m u := by
      rw [advanceMill_some (s := { s with runSeconds := now }) hc,
        moveForward_none (s := { s with runSeconds := now }) hc, crossed_one hok hcrosses, startsFire_one, hnext]
    refine ⟨_, exec_secondEvent hw, ?_, ?_, fun d => ?_⟩
    · rw [hfired, handTick_eq]
      have hrest := fireBoundary_rest m u
      have hlast : (startMill u.schedule m) = start := hmill
      rw [hlast] at hrest
      generalize fireBoundary m u = t at *
      exact congrArg (fun v : State => { v with
        tick := if v.runSeconds ≠ 0 ∧ v.runSeconds.toNat % 60 = 0 then ⟨true, true, true⟩ else v.tick }) hrest
    · rw [hfired, handTick_eq]
      have hentry := fireBoundary_entry m u
      rw [← hindex]
      exact hentry
    · rw [hfired, handTick_eq]
      exact fireBoundary_unit m u d
  · intro t
    exact ⟨fireBoundary_rest m s, (fireBoundary_logs m s).records_head (by decide), fireBoundary_unit m s⟩

end Sys2Proof.Machine
end

section
/-! PROOFS. Time marks (O44). -/

namespace Sys2Proof.Machine

/-! ### Differences and the current shift -/

/-- The difference of two mill times is theirs round the cycle, within half of it (R165). -/
theorem difference_bounds (t u : MillTime) :
    (difference t u - ((u.position : Int) - (t.position : Int))) % 5662310400 = 0 ∧ -2831155200 ≤ difference t u ∧
      difference t u < 2831155200 := by
  have h : ahead t u = (u.position + millCycle - t.position % millCycle) % millCycle := rfl
  simp only [millCycle] at h
  unfold difference
  simp only [millCycle]
  split_ifs <;> omega

/-- Going forward by the difference leads to the other mill time (R165). -/
theorem millAt_difference {t u : MillTime} (hday : u.day < 65536) (hsecond : u.second < 86400)
    (h : 0 ≤ difference t u) : millAt (t.position + (difference t u).natAbs) = u := by
  refine millAt_eq hday hsecond ?_
  obtain ⟨hcycle, -, -⟩ := difference_bounds t u
  have : u.position < millCycle := by simp only [MillTime.position, millCycle]; omega
  simp only [millCycle] at *
  omega

section Current
variable {l : List Nat} (hok : scheduleOk l = true)
include hok

theorem scheduleOk_getD_mem (m : Nat) : l.getD (m % l.length) 0 ∈ l := by
  have hlt := Nat.mod_lt m (scheduleOk_pos hok)
  rw [List.getD_eq_getElem?_getD, List.getElem?_eq_getElem hlt]
  exact List.getElem_mem hlt

/-- The last start up to a second is the one whose second none of the others up to it exceeds (R166). -/
theorem startsUpTo_last {p m : Nat} (hm : startSecond l m ≤ p)
    (hlast : ∀ n, startSecond l n ≤ p → startSecond l n ≤ startSecond l m) : startsUpTo l p - 1 = m := by
  have hbeyond : ¬ startsUpTo l p ≤ m := by rw [startsUpTo_le_iff hok]; omega
  have hnext : startsUpTo l p ≤ m + 1 := by
    rw [startsUpTo_le_iff hok]
    by_contra hle
    exact absurd (hlast (m + 1) (by omega)) (by have := startSecond_lt hok (by omega : m < m + 1); omega)
  omega

/-- The current shift began today at the latest start up to now (R166). -/
theorem startTime_currentStart_today {t : MillTime} (hday : t.day < 65536) (hsecond : t.second < 86400) {x : Nat}
    (hx : x ∈ l) (hle : x ≤ t.second) (hmax : ∀ y ∈ l, y ≤ t.second → y ≤ x) :
    startTime l (currentStart l t) = { day := t.day, second := x } := by
  obtain ⟨j, hj⟩ := List.mem_iff_getElem?.mp hx
  obtain ⟨hstart, -, hmill⟩ := startSecond_at hok hj (t.day + 65536)
  have hcurrent : currentStart l t = (t.day + 65536) * l.length + j := by
    refine startsUpTo_last hok ?_ fun n hn => ?_
    · simp only [MillTime.position, millCycle]
      omega
    · have hmem := hmax _ (scheduleOk_getD_mem hok n)
      have hlt := scheduleOk_getD_lt hok (n % l.length)
      rw [hstart]
      simp only [MillTime.position, millCycle, startSecond] at *
      omega
  rw [hcurrent]
  exact hmill.trans (congrArg (fun day => ({ day := day, second := x } : MillTime)) (by omega))

/-- Before the first start of a day the current shift began at the last of the day before (R166). -/
theorem startTime_currentStart_yesterday {t : MillTime} (hsecond : t.second < 86400) {x : Nat}
    (hx : x ∈ l) (hmax : ∀ y ∈ l, y ≤ x) (hafter : ∀ y ∈ l, t.second < y) :
    startTime l (currentStart l t) = { day := (t.day + 65535) % 65536, second := x } := by
  obtain ⟨j, hj⟩ := List.mem_iff_getElem?.mp hx
  obtain ⟨hstart, -, hmill⟩ := startSecond_at hok hj (t.day + 65535)
  have hxday := ((scheduleOk_iff l).mp hok).2.2.1 x hx
  have hcurrent : currentStart l t = (t.day + 65535) * l.length + j := by
    refine startsUpTo_last hok ?_ fun n hn => ?_
    · simp only [MillTime.position, millCycle]
      omega
    · have hmem := hmax _ (scheduleOk_getD_mem hok n)
      have hlate := hafter _ (scheduleOk_getD_mem hok n)
      rw [hstart]
      simp only [MillTime.position, millCycle, startSecond] at *
      omega
  rw [hcurrent]
  exact hmill

end Current

/-! ### Serving a mark -/

theorem startsFire_phase (a b : Nat) (s : State) : (s.startsFire a b).phase = s.phase := by
  have hfold : ∀ (ns : List Nat) (s : State), (ns.foldl (fun u m => fireBoundary m u) s).phase = s.phase := by
    intro ns
    induction ns with
    | nil => exact fun _ => rfl
    | cons n ns ih =>
      intro s
      rw [List.foldl_cons, ih, fireBoundary_rest]
  exact hfold _ s

section Mark
variable {s t : State} {l : Link} {tag : Byte} {day second : Nat} {r : MarkReport}

/-- A mark is answered as the time base reports it (R168, R208). -/
theorem timeMark_answered (hcom : s.commands l) (hday : day < 65536) (hsecond : second < 86400)
    (hmark : timeMark { day := day, second := second } (s.listening l) = (t, r)) (hphase : t.phase = s.phase)
    {body : List Byte} (hbody : r.body = body) :
    exec (.timeMark l tag (be 2 day ++ be 3 second)) s = .next (t.replies l 14 tag 0 0 body) := by
  subst hbody
  refine congrArg Host.Outcome.next (command_served hcom 14 tag (readTimeMark_be hday hsecond) serveTimeMark ?_ hphase
    (a := .ok r.body) rfl)
  rw [serveTimeMark, hmark]

/-- The reply body of a mark that fires nothing (R208). -/
theorem MarkReport.body_still (cls : MarkClass) (taken : Bool) (diff : Option Int) :
    MarkReport.body { cls := cls, taken := taken, diff := diff, fired := 0, passed := 0 } =
      [byte cls.code, yesNo taken, optByte (diff.map (fun d => if d < 0 then 1 else 0))] ++
        be 4 ((diff.map Int.natAbs).getD 0) ++ [0, 0, 0] := by
  simp [MarkReport.body]
  decide

/-! ### The classes of a mark -/

variable {c : MillClock} {m : MillTime}

theorem classOf_trim {d : Int} (h : d.natAbs ≤ 2) (mode : MarkMode) : classOf mode d = .trim := by
  unfold classOf
  rw [if_pos h]

theorem classOf_far {d : Int} (h : 2 < d.natAbs) (mode : MarkMode) :
    classOf mode d = match mode with | .follow => .step | .strict => .false_ := by
  unfold classOf
  rw [if_neg (by omega)] <;> rfl

/-- A mark of class TRIM, STEP or FALSE that is not taken (R169, R170, R172). -/
theorem markSet_kept (hkept : s.timeHold = true ∨ classOf s.markMode (difference c.now m) = .false_) :
    markSet c m s = keepTime (difference c.now m) (classOf s.markMode (difference c.now m)) s := by
  simp only [markSet]
  split
  · rfl
  · rcases hkept with h | h
    · contradiction
    · rw [h]

/-- A mark of class TRIM is taken without an entry (R169, R172). -/
theorem markSet_trim (hhold : s.timeHold = false) (htrim : (difference c.now m).natAbs ≤ 2) :
    markSet c m s = takeMark c m (difference c.now m) .trim none s := by
  have hcls : classOf s.markMode (difference c.now m) = .trim := classOf_trim htrim _
  rw [markSet, if_neg (by simp [hhold]), hcls]

/-- A mark of class STEP is taken with its entry (R169, R172). -/
theorem markSet_step (hhold : s.timeHold = false) (hfar : 2 < (difference c.now m).natAbs)
    (hmode : s.markMode = .follow) :
    markSet c m s = takeMark c m (difference c.now m) .step
      (some (markEntry .timeStep (difference c.now m) false 3)) s := by
  have hcls : classOf s.markMode (difference c.now m) = .step := by
    rw [classOf_far hfar, hmode]
  rw [markSet, if_neg (by simp [hhold]), hcls]
  rfl

/-- A mark behind mill time moves it and fires nothing (R169, R171). -/
theorem takeMark_backward_none {d : Int} (hc : s.mill = some c) (h : d < 0) (cls : MarkClass) :
    takeMark c m d cls none s = ({ s with mill := some { c with now := m } },
      { cls := cls, taken := true, diff := some d, fired := 0, passed := 0 }) := by
  simp only [takeMark, if_pos h, moveMill_eq hc]

theorem takeMark_backward_some {d : Int} (hc : s.mill = some c) (h : d < 0) (cls : MarkClass) (w : Draft) :
    takeMark c m d cls (some w) s = (enter w { s with mill := some { c with now := m } },
      { cls := cls, taken := true, diff := some d, fired := 0, passed := 0 }) := by
  simp only [takeMark, if_pos h, moveMill_eq hc]

/-- A mark at or ahead of mill time moves it and fires the starts crossed (R169, R171). -/
theorem takeMark_forward {d : Int} (h : 0 ≤ d) (cls : MarkClass) (entry : Option Draft) :
    takeMark c m d cls entry s = (moveForward c d.natAbs entry s,
      { cls := cls, taken := true, diff := some d
        fired := min 4 ((crossed s.schedule c d.natAbs).2 - (crossed s.schedule c d.natAbs).1)
        passed := (crossed s.schedule c d.natAbs).2 - (crossed s.schedule c d.natAbs).1 -
          min 4 ((crossed s.schedule c d.natAbs).2 - (crossed s.schedule c d.natAbs).1) }) := by
  have hd : d.toNat = d.natAbs := by omega
  simp only [takeMark, if_neg (Int.not_lt.mpr h), firedAndPassed, hd, Nat.min_comm]

end Mark

/-- A mark while mill time is SET is taken as `markSet` says. -/
theorem timeMark_some {s : State} {c : MillClock} (l : Link) (hc : s.mill = some c) (m : MillTime) :
    timeMark m (s.listening l) = markSet c m (s.listening l) := by
  rw [timeMark, listening_mill, hc]

theorem keepTime_eq (d : Int) {cls : MarkClass} (h : cls ≠ .false_) (s : State) : keepTime d cls s =
    (enter (markEntry .timeStep d s.timeHold cls.code) s,
      { cls := cls, taken := false, diff := some d, fired := 0, passed := 0 }) := by
  cases cls
  case false_ => exact absurd rfl h
  all_goals rfl

theorem keepTime_false (d : Int) (s : State) : keepTime d .false_ s =
    (enter (markEntry .timeFalse d s.timeHold 4) s,
      { cls := .false_, taken := false, diff := some d, fired := 0, passed := 0 }) := rfl

section Cases
variable {s : State} {l : Link} {tag : Byte} {day second : Nat} {c : MillClock} (hcom : s.commands l) (hday : day < 65536)
  (hsecond : second < 86400)
include hcom hday hsecond

/-- The first mark sets mill time (R169, R170, R172). -/
theorem timeMark_unset (hc : s.mill = none) (hhold : s.timeHold = false) :
    exec (.timeMark l tag (be 2 day ++ be 3 second)) s = .next ((enter { kind := .timeSet, d1 := some 1 }
      { s.listening l with mill := some { now := { day := day, second := second }
                                          lastFired := startTime s.schedule (currentStart s.schedule
                                            { day := day, second := second }) } }).replies l 14 tag 0 0
        ([1, 1, 255] ++ be 4 0 ++ [0, 0, 0])) := by
  refine timeMark_answered hcom hday hsecond (r := ⟨.set, true, none, 0, 0⟩) ?_ (by simp) (MarkReport.body_still _ _ _)
  rw [timeMark, listening_mill, hc]
  simp only [markUnset]
  rw [if_neg (by simp [hhold]), setMill, listening_schedule]

/-- A first mark under HOLD is journalled alone (R169, R170, R172). -/
theorem timeMark_unset_held (hc : s.mill = none) (hhold : s.timeHold = true) :
    exec (.timeMark l tag (be 2 day ++ be 3 second)) s = .next
      ((enter { kind := .timeSet, d1 := some 257 } (s.listening l)).replies l 14 tag 0 0 ([1, 0, 255] ++ be 4 0 ++ [0, 0, 0])) := by
  refine timeMark_answered hcom hday hsecond (r := ⟨.set, false, none, 0, 0⟩) ?_ (by simp) (MarkReport.body_still _ _ _)
  rw [timeMark, listening_mill, hc]
  simp only [markUnset]
  rw [if_pos (by simp [hhold])]

variable {d : Int} (hd : difference c.now { day := day, second := second } = d) (hc : s.mill = some c)
include hd hc

/-- A mark that is not taken is journalled alone (R169, R170, R172). -/
theorem timeMark_kept (hkept : s.timeHold = true ∨ classOf s.markMode d = .false_) {w : Draft} {cls : MarkClass}
    (hcls : keepTime d (classOf s.markMode d) (s.listening l) =
      (enter w (s.listening l), { cls := cls, taken := false, diff := some d, fired := 0, passed := 0 })) :
    exec (.timeMark l tag (be 2 day ++ be 3 second)) s = .next ((enter w (s.listening l)).replies l 14 tag 0 0
      ([byte cls.code, 0, byte (if d < 0 then 1 else 0)] ++ be 4 d.natAbs ++ [0, 0, 0])) := by
  refine timeMark_answered hcom hday hsecond ?_ (by simp) (MarkReport.body_still cls false (some d))
  rw [timeMark_some l hc, markSet_kept (by simpa [hd] using hkept), hd, listening_markMode, hcls]

omit hd in
/-- A mark behind mill time that is taken moves it back (R169, R171, R172). -/
theorem timeMark_back {moved : State} {cls : MarkClass} {e : Option Draft} (hphase : moved.phase = s.phase)
    (htaken : markSet c { day := day, second := second } (s.listening l) =
      takeMark c { day := day, second := second } d cls e (s.listening l))
    (hmoved : takeMark c { day := day, second := second } d cls e (s.listening l) =
      (moved, { cls := cls, taken := true, diff := some d, fired := 0, passed := 0 })) :
    exec (.timeMark l tag (be 2 day ++ be 3 second)) s = .next (moved.replies l 14 tag 0 0
      ([byte cls.code, 1, byte (if d < 0 then 1 else 0)] ++ be 4 d.natAbs ++ [0, 0, 0])) := by
  refine timeMark_answered hcom hday hsecond ?_ hphase (MarkReport.body_still cls true (some d))
  rw [timeMark_some l hc, htaken, hmoved]

/-- A mark at or ahead of mill time that is taken fires the starts crossed (R169, R171, R172). -/
theorem timeMark_forward {moved : State} {cls : MarkClass} {e : Option Draft} (hok : scheduleOk s.schedule = true)
    (hahead : 0 ≤ d) (hphase : moved.phase = s.phase)
    (htaken : markSet c { day := day, second := second } (s.listening l) =
      takeMark c { day := day, second := second } d cls e (s.listening l))
    (hmoved : moveForward c d.natAbs e (s.listening l) =
      moved.startsFire (crossed (s.listening l).schedule c d.natAbs).1 (crossed (s.listening l).schedule c d.natAbs).2) :
    ∃ a b, a ≤ b ∧ (∀ n, (a ≤ n ∧ n < b) ↔ crossesStart s.schedule c d.natAbs n) ∧
      exec (.timeMark l tag (be 2 day ++ be 3 second)) s = .next ((moved.startsFire a b).replies l 14 tag 0 0
        ([byte cls.code, 1, 0] ++ be 4 d.natAbs ++ [byte (min 4 (b - a))] ++
          be 2 (min 65535 (b - a - min 4 (b - a))))) := by
  have hbound := (difference_bounds c.now { day := day, second := second }).2.2
  rw [hd] at hbound
  refine ⟨_, _, crossed_le c hok, crossed_iff c hok (by simp only [millCycle]; omega), ?_⟩
  have hmark := timeMark_some l hc { day := day, second := second }
  rw [htaken, takeMark_forward hahead, hmoved, listening_schedule] at hmark
  refine timeMark_answered hcom hday hsecond hmark (by rw [startsFire_phase, hphase]) ?_
  simp only [MarkReport.body, Option.map_some, Option.getD_some, if_neg (Int.not_lt.mpr hahead)]
  rfl

end Cases

end Sys2Proof.Machine
end

section
/-! PROOFS. Time marks, settled (O44). -/

namespace Sys2Proof.Machine

/-- Settles O44, class by class. -/
theorem timeMarks : Obligations.TimeMarks := by
  refine ⟨fun t u => difference_bounds t u, fun l m hok hday hsecond => ⟨fun x hx hle hmax => ?_,
    fun x hx hmax hafter => ?_⟩, fun s l tag day second hcom hday hsecond => ?_⟩
  · exact startTime_currentStart_today hok hday hsecond hx hle hmax
  · exact startTime_currentStart_yesterday hok hsecond hx hmax hafter
  · intro m sent answered
    refine ⟨timeMark_unset hcom hday hsecond, timeMark_unset_held hcom hday hsecond, fun c hc => ?_⟩
    obtain ⟨d, hd⟩ : ∃ d, difference c.now m = d := ⟨_, rfl⟩
    have hcl : (s.listening l).mill = some c := by rw [listening_mill, hc]
    have hstep : s.timeHold = false → 2 < d.natAbs → s.markMode = .follow → markSet c m (s.listening l) =
        takeMark c m d .step (some (markEntry .timeStep d false 3)) (s.listening l) := by
      intro hhold hfar hmode
      have := markSet_step (s := s.listening l) (c := c) (m := m) (by simpa using hhold) (by rwa [hd]) (by simpa using hmode)
      rwa [hd] at this
    have htrim : s.timeHold = false → d.natAbs ≤ 2 → markSet c m (s.listening l) =
        takeMark c m d .trim none (s.listening l) := by
      intro hhold hnear
      have := markSet_trim (s := s.listening l) (c := c) (m := m) (by simpa using hhold) (by rwa [hd])
      rwa [hd] at this
    have hreach : 0 ≤ d → millAt (c.now.position + d.natAbs) = m := by
      rw [← hd]
      exact millAt_difference hday hsecond
    rw [hd]
    intro x sign entry forward
    refine ⟨fun hhold hnear => ?_, fun hhold hfar hmode => ?_, fun hfar hmode => ?_, fun hhold hback hnear => ?_,
      fun hhold hback hfar hmode => ?_, fun hhold hahead hnear hok => ?_, fun hhold hahead hfar hmode hok => ?_⟩
    · have hcls := classOf_trim hnear s.markMode
      refine timeMark_kept hcom hday hsecond hd hc (.inl hhold) (cls := .trim) ?_
      rw [hcls, keepTime_eq _ (by decide), listening_timeHold, hhold]
      rfl
    · have hcls : classOf s.markMode d = .step := by rw [classOf_far hfar, hmode]
      refine timeMark_kept hcom hday hsecond hd hc (.inl hhold) (cls := .step) ?_
      rw [hcls, keepTime_eq _ (by decide), listening_timeHold, hhold]
      rfl
    · have hcls : classOf s.markMode d = .false_ := by rw [classOf_far hfar, hmode]
      refine timeMark_kept hcom hday hsecond hd hc (.inr hcls) (cls := .false_) ?_
      rw [hcls, keepTime_false, listening_timeHold]
      rfl
    · have h := timeMark_back (tag := tag) hcom hday hsecond hc (by simp) (htrim hhold hnear) (takeMark_backward_none hcl hback _)
      rw [if_pos hback] at h
      exact h
    · have h := timeMark_back (tag := tag) hcom hday hsecond hc (by simp) (hstep hhold hfar hmode) (takeMark_backward_some hcl hback _ _)
      rw [if_pos hback] at h
      exact h
    · refine timeMark_forward hcom hday hsecond hd hc hok hahead (by simp) (htrim hhold hnear) ?_
      rw [moveForward_none hcl, hreach hahead]
    · refine timeMark_forward hcom hday hsecond hd hc hok hahead (by simp) (hstep hhold hfar hmode) ?_
      have hentry : markEntry .timeStep d false 3 = entry .timeStep 3 0 := rfl
      rw [moveForward_some hcl, hreach hahead, hentry]

end Sys2Proof.Machine
end

section
/-! PROOFS. A desk in handover takes in the points that move into its list: what becomes of its carried list, entry after
entry (R126). -/

namespace Sys2Proof.Machine

/-! ### Carried lists -/

/-- Some coming entries as the marks they put on the entries of a carried list (log 24). -/
def markedBy (coming entries : List Carried) : List Carried :=
  entries.map (fun e => (coming.find? (fun c => decide (c.tag = e.tag))).getD e)

/-- The coming entries that a carried list does not have. -/
def newTo (coming entries : List Carried) : List Carried :=
  coming.filter (fun c => !entries.any (fun e => decide (e.tag = c.tag)))

section Lists
variable {c : Carried} {cs l : List Carried}

theorem markedBy_nil (l : List Carried) : markedBy [] l = l := by
  simp [markedBy]

@[simp] theorem markedBy_length (cs l : List Carried) : (markedBy cs l).length = l.length := by simp [markedBy]

theorem newTo_nil (l : List Carried) : newTo [] l = [] := rfl

theorem newTo_cons_of_mem (h : ∃ e ∈ l, e.tag = c.tag) : newTo (c :: cs) l = newTo cs l :=
  List.filter_cons_of_neg (by simpa using h)

theorem newTo_cons_of_notMem (h : ∀ e ∈ l, e.tag ≠ c.tag) : newTo (c :: cs) l = c :: newTo cs l :=
  List.filter_cons_of_pos (by simpa using h)

theorem find?_tag_eq_none (h : ∀ x ∈ cs, x.tag ≠ c.tag) : cs.find? (fun x => decide (x.tag = c.tag)) = none := by
  simpa using h

/-- An entry re-marked first, then the others. -/
theorem markedBy_cons_of_mem (h : ∀ x ∈ cs, x.tag ≠ c.tag) :
    markedBy cs (l.map fun e => if e.tag = c.tag then c else e) = markedBy (c :: cs) l := by
  simp only [markedBy, List.map_map]
  refine List.map_congr_left fun e _ => ?_
  by_cases he : e.tag = c.tag
  · simp [he, find?_tag_eq_none h]
  · simp [he, Ne.symm he]

theorem newTo_mark (x : Carried) (hx : x.tag = c.tag) : newTo cs (l.map fun e => if e.tag = c.tag then x else e) = newTo cs l := by
  refine List.filter_congr fun y _ => ?_
  have hany : (l.map fun e => if e.tag = c.tag then x else e).any (fun e => decide (e.tag = y.tag)) =
      l.any (fun e => decide (e.tag = y.tag)) := by
    rw [List.any_map]
    refine congrArg (l.any ·) (funext fun e => ?_)
    by_cases he : e.tag = c.tag <;> simp [he, hx]
  rw [hany]

theorem markedBy_append_self (hl : ∀ e ∈ l, e.tag ≠ c.tag) (hcs : ∀ x ∈ cs, x.tag ≠ c.tag) :
    markedBy cs (l ++ [c]) = markedBy (c :: cs) l ++ [c] := by
  simp only [markedBy, List.map_append, List.map_cons, List.map_nil, find?_tag_eq_none hcs, Option.getD_none]
  refine congrArg (· ++ [c]) (List.map_congr_left fun e he => ?_)
  simp [Ne.symm (hl e he)]

theorem newTo_append_self (hcs : ∀ x ∈ cs, x.tag ≠ c.tag) : newTo cs (l ++ [c]) = newTo cs l := by
  refine List.filter_congr fun y hy => ?_
  simp [Ne.symm (hcs y hy)]

end Lists

/-! ### One desk -/

section Desk
variable {s : State} {d : Desk} {h : Handover}

theorem carrying_handover (hh : (s.unit d).state.handover? = some h) (l : List Carried) :
    ((s.carrying d l).unit d).state.handover? = some { h with carried := l } := by
  rw [State.carrying, putDeskState_unit]
  cases hst : (s.unit d).state with
  | handoverOpen k x => rw [hst] at hh; cases hh; rfl
  | handoverReview k x inc => rw [hst] at hh; cases hh; rfl
  | _ => rw [hst] at hh; cases hh

theorem carrying_unit (s : State) (d : Desk) (l : List Carried) :
    (s.carrying d l).unit d = { s.unit d with state := (s.unit d).state.mapHandover fun x => { x with carried := l } } := by
  rw [State.carrying, putDeskState_unit]

theorem carrying_carrying (s : State) (d : Desk) (l m : List Carried) : (s.carrying d l).carrying d m = s.carrying d m := by
  have hstate : (((s.carrying d l).unit d).state.mapHandover fun x => { x with carried := m }) =
      (s.unit d).state.mapHandover fun x => { x with carried := m } := by
    rw [carrying_unit]
    cases (s.unit d).state <;> rfl
  rw [State.carrying, hstate]
  simp only [State.carrying, State.putDeskState, putUnit_putUnit, State.unit_putUnit, if_pos]

theorem carrying_self (hh : (s.unit d).state.handover? = some h) : s.carrying d h.carried = s := by
  exact (mapCarried_eq hh id).symm.trans (mapCarried_id s d id fun _ => rfl)

/-- A desk in handover takes in an entry of its own making. -/
def takeEntry (d : Desk) (c : Carried) (s : State) : State :=
  if s.inHandover d then carryEntry d c.tag c.standing s else s

theorem takeEntry_out (hout : s.inHandover d = false) (c : Carried) : takeEntry d c s = s := if_neg (by simp [hout])

theorem foldl_takeEntry_out (hout : s.inHandover d = false) (cs : List Carried) :
    cs.foldl (fun s c => takeEntry d c s) s = s := by
  induction cs with
  | nil => rfl
  | cons c cs ih => rw [List.foldl_cons, takeEntry_out hout, ih]

theorem aborted_out (s : State) (d : Desk) (reason : Nat) : (s.aborted d reason).inHandover d = false := by
  cases hst : (s.unit d).state <;> simp [State.aborted, State.inHandover, hst, DeskState.handover?]

/-- The entries a desk takes in: re-marks and additions while there is room, else the abort (R126; log 24). -/
theorem foldl_takeEntry (hh : (s.unit d).state.handover? = some h) {cs : List Carried} (hfresh : ∀ c ∈ cs, c.briefed = false)
    (hcs : (cs.map (·.tag)).Nodup) :
    ((newTo cs h.carried = [] ∨ h.carried.length + (newTo cs h.carried).length ≤ 32) →
      cs.foldl (fun s c => takeEntry d c s) s = s.carrying d (markedBy cs h.carried ++ newTo cs h.carried)) ∧
    (newTo cs h.carried ≠ [] → 32 < h.carried.length + (newTo cs h.carried).length →
      ∃ l, l.length = max 32 h.carried.length ∧
        cs.foldl (fun s c => takeEntry d c s) s = (s.carrying d l).aborted d 4) := by
  induction cs generalizing s h with
  | nil => exact ⟨fun _ => by rw [markedBy_nil, newTo_nil, List.append_nil, carrying_self hh]; rfl, fun hne => absurd rfl hne⟩
  | cons c cs ih =>
    obtain ⟨hc, hrest⟩ := List.nodup_cons.mp (List.map_cons ▸ hcs)
    have hne : ∀ x ∈ cs, x.tag ≠ c.tag := fun x hx heq => hc (heq ▸ List.mem_map_of_mem hx)
    have hfresh' : ∀ x ∈ cs, x.briefed = false := fun x hx => hfresh x (List.mem_cons_of_mem _ hx)
    have hcf : ({ tag := c.tag, standing := c.standing, briefed := false } : Carried) = c := by
      rw [← hfresh c List.mem_cons_self]
    have htake : takeEntry d c s = carryEntry d c.tag c.standing s := if_pos (inHandover_of_handover hh)
    rw [List.foldl_cons, htake]
    by_cases hmem : ∃ e ∈ h.carried, e.tag = c.tag
    · rw [carryEntry_again hh hmem, hcf, newTo_cons_of_mem hmem, ← markedBy_cons_of_mem hne]
      have := ih (carrying_handover hh (h.carried.map fun e => if e.tag = c.tag then c else e)) hfresh' hrest
      simp only [newTo_mark c rfl, List.length_map, carrying_carrying] at this
      exact this
    · have hnot : ∀ e ∈ h.carried, e.tag ≠ c.tag := fun e he heq => hmem ⟨e, he, heq⟩
      rw [newTo_cons_of_notMem hnot]
      by_cases hroom : h.carried.length < 32
      · rw [carryEntry_new hh hnot hroom, hcf]
        have := ih (carrying_handover hh (h.carried ++ [c])) hfresh' hrest
        simp only [newTo_append_self hne, markedBy_append_self hnot hne, List.append_assoc, List.length_append,
          List.length_singleton, carrying_carrying] at this
        obtain ⟨hfits, hover⟩ := this
        refine ⟨fun hle => hfits (.inr ?_), fun _ hlt => ?_⟩
        · simp only [List.length_cons, reduceCtorEq, false_or] at hle
          omega
        · rw [List.length_cons] at hlt
          obtain ⟨l, hl, heq⟩ := hover (fun hnil => by rw [hnil] at hlt; simp at hlt; omega) (by omega)
          exact ⟨l, by omega, heq⟩
      · refine ⟨fun hle => ?_, fun _ _ => ⟨h.carried, by omega, ?_⟩⟩
        · simp only [List.length_cons, reduceCtorEq, false_or] at hle
          omega
        · rw [carryEntry_full hh hnot (by omega), foldl_takeEntry_out (aborted_out s d 4), carrying_self hh]

end Desk

end Sys2Proof.Machine
end

section
/-! PROOFS. The working out of routing, desk by desk (O17). -/

namespace Sys2Proof.Machine

/-! ### Work on one desk's carried list -/

/-- Between `s` and `t` desk `d` has seen to its carried list: nothing has happened elsewhere, its holder has stayed, a
desk in no handover has done nothing, and at most an abort is journalled. -/
structure State.OfDesk (d : Desk) (s t : State) : Prop where
  onDesks : s.OnDesks t
  others : ∀ e, e ≠ d → t.unit e = s.unit e
  holder : t.hasHolder d = s.hasHolder d
  out : s.inHandover d = false → t.unit d = s.unit d
  logs : ∃ ws, ws.length ≤ 1 ∧ s.Logs t ws

/-- Between `s` and `t` other desks than `d` have seen to their carried lists, with at most `n` entries. -/
structure State.Elsewhere (d : Desk) (n : Nat) (s t : State) : Prop where
  onDesks : s.OnDesks t
  unit : t.unit d = s.unit d
  holder : ∀ e, t.hasHolder e = s.hasHolder e
  logs : ∃ ws, ws.length ≤ n ∧ s.Logs t ws

section Rules
variable {d e : Desk} {m n : Nat} {s t u : State}

theorem State.OfDesk.refl (d : Desk) (s : State) : s.OfDesk d s :=
  ⟨.refl s, fun _ _ => rfl, rfl, fun _ => rfl, [], by simp, .refl s⟩

theorem State.Elsewhere.refl (d : Desk) (n : Nat) (s : State) : s.Elsewhere d n s :=
  ⟨.refl s, rfl, fun _ => rfl, [], by simp, .refl s⟩

theorem State.Elsewhere.trans (h : s.Elsewhere d m t) (k : t.Elsewhere d n u) : s.Elsewhere d (m + n) u := by
  obtain ⟨ws, hws, hlog⟩ := h.logs
  obtain ⟨vs, hvs, hlog'⟩ := k.logs
  exact ⟨h.onDesks.trans k.onDesks, k.unit.trans h.unit, fun e => (k.holder e).trans (h.holder e), ws ++ vs,
    by rw [List.length_append]; omega, hlog.trans hlog'⟩

theorem State.OfDesk.elsewhere (h : s.OfDesk e t) (hne : d ≠ e) : s.Elsewhere d 1 t := by
  refine ⟨h.onDesks, h.others d hne, fun x => ?_, h.logs⟩
  by_cases hx : x = e
  · subst hx
    exact h.holder
  · rw [State.hasHolder, State.hasHolder, h.others x hx]

/-- Every desk sees to its carried list: what the others do leaves desk `d` as it was. -/
theorem foldl_elsewhere {f : Desk → State → State} (hf : ∀ e s, State.OfDesk e s (f e s)) {ds : List Desk} (hd : d ∉ ds)
    (s : State) : s.Elsewhere d ds.length (ds.foldl (fun s e => f e s) s) := by
  induction ds generalizing s with
  | nil => exact .refl d _ s
  | cons e ds ih =>
    rw [List.mem_cons, not_or] at hd
    obtain ⟨hne, hd⟩ := hd
    rw [List.length_cons, Nat.add_comm]
    exact ((hf e s).elsewhere hne).trans (ih hd _)

theorem foldl_ofDesk {f : Desk → State → State} (hf : ∀ e s, State.OfDesk e s (f e s)) {ds : List Desk} (hds : ds.Nodup)
    (hd : d ∈ ds) (s : State) : ∃ u, s.Elsewhere d ds.length u ∧
      (f d u).Elsewhere d ds.length (ds.foldl (fun s e => f e s) s) := by
  obtain ⟨pre, post, rfl⟩ := List.append_of_mem hd
  obtain ⟨-, hpost, hcross⟩ := List.nodup_append.mp hds
  have hpre : d ∉ pre := fun hmem => hcross d hmem d List.mem_cons_self rfl
  have hlen : (pre ++ d :: post).length = pre.length + post.length + 1 := by simp; omega
  have hweaken : ∀ {k n : Nat} {s t : State}, k ≤ n → s.Elsewhere d k t → s.Elsewhere d n t :=
    fun hk h => ⟨h.onDesks, h.unit, h.holder, by obtain ⟨ws, hws, hlog⟩ := h.logs; exact ⟨ws, by omega, hlog⟩⟩
  rw [List.foldl_append, List.foldl_cons, hlen]
  exact ⟨_, hweaken (by omega) (foldl_elsewhere hf hpre s),
    hweaken (by omega) (foldl_elsewhere hf (List.nodup_cons.mp hpost).1 _)⟩

end Rules

/-! ### What the steps of routing do at a desk -/

section Steps
variable (d : Desk) (s : State)

theorem mapHandover_hasHolder (st : DeskState) (f : Handover → Handover) : (st.mapHandover f).hasHolder = st.hasHolder := by
  cases st <;> rfl

theorem mapCarried_ofDesk (f : List Carried → List Carried) : s.OfDesk d (s.mapCarried d f) := by
  refine ⟨putUnit_onDesks _ _ _, (mapCarried_atDesk d f s).others, ?_, fun hout => by rw [mapCarried_out hout], [], by simp,
    .of_eq rfl rfl⟩
  rw [State.hasHolder, State.mapCarried, putDeskState_unit]
  exact mapHandover_hasHolder _ _

theorem aborted_hasHolder (u : DeskUnit) : u.aborted.state.hasHolder = u.state.hasHolder := by
  cases hst : u.state <;> simp [DeskUnit.aborted, hst, DeskState.hasHolder]

theorem abortHandover_ofDesk (reason : AbortReason) : s.OfDesk d (abortHandover d reason s) := by
  refine ⟨abortHandover_onDesks d reason s, fun e he => abortHandover_unit_ne he reason s, ?_, fun hout => ?_, _, ?_,
    abortHandover_logs d reason s⟩
  · rw [State.hasHolder, abortHandover_unit, aborted_hasHolder, State.hasHolder]
  · rw [State.inHandover] at hout
    rw [abortHandover_unit]
    cases hst : (s.unit d).state with
    | handoverOpen k h => rw [hst] at hout; cases hout
    | handoverReview k h inc => rw [hst] at hout; cases hout
    | _ => simp [DeskUnit.aborted, hst]
  · unfold abortLog
    split <;> simp

theorem takeIn_cases (item : Item) : takeIn d item s = s ∨ (∃ f, takeIn d item s = s.mapCarried d f) ∨
    takeIn d item s = abortHandover d .carryFull s := by
  simp only [takeIn, carryEntry]
  split
  · split
    · split
      · exact .inr (.inl ⟨_, rfl⟩)
      · split
        · exact .inr (.inl ⟨_, rfl⟩)
        · exact .inr (.inr rfl)
    · exact .inl rfl
  · exact .inl rfl

theorem foldl_takeIn_out (hout : s.inHandover d = false) (items : List Item) :
    items.foldl (fun s' e => takeIn d e s') s = s := by
  induction items with
  | nil => rfl
  | cons x items ih => rw [List.foldl_cons, takeIn_nothing (t := x.1) (p := x.2) (.inl hout), ih]

theorem foldl_takeIn_ofDesk (items : List Item) : s.OfDesk d (items.foldl (fun s' e => takeIn d e s') s) := by
  induction items generalizing s with
  | nil => exact .refl d s
  | cons x items ih =>
    rw [List.foldl_cons]
    rcases takeIn_cases d s x with heq | ⟨f, heq⟩ | heq
    · rw [heq]
      exact ih s
    · rw [heq]
      have hmap := mapCarried_ofDesk d s f
      have hrest := ih (s.mapCarried d f)
      obtain ⟨ws, hws, hlog⟩ := hrest.logs
      refine ⟨hmap.onDesks.trans hrest.onDesks, fun e he => (hrest.others e he).trans (hmap.others e he),
        hrest.holder.trans hmap.holder, fun hout => ?_, ws, hws, (State.Logs.of_eq rfl rfl).trans hlog⟩
      rw [mapCarried_out hout f]
      exact (ih s).out hout
    · rw [heq, foldl_takeIn_out d _ (abortHandover_out d _ s)]
      exact abortHandover_ofDesk d s _

theorem takeInMoved_ofDesk (moved : List Item) : s.OfDesk d (takeInMoved moved d s) := foldl_takeIn_ofDesk d s _

theorem dropMoved_ofDesk (before : State) (moved : List Item) : s.OfDesk d (dropMoved before moved d s) :=
  mapCarried_ofDesk d s _

end Steps

/-! ### Routing as a whole -/

theorem allDesks_nodup : allDesks.Nodup := by decide

section Whole
variable (before after : State) (d : Desk)

/-- Routing worked out, seen from one desk: others, its own dropping of entries, others, its own taking in, others. -/
theorem reroute_at : ∃ s t u, (clearMoved before after).Elsewhere d 6 s ∧
    (dropMoved before (movedItems before after) d s).Elsewhere d 6 t ∧ t.Elsewhere d 6 u ∧
    (takeInMoved (movedItems before after) d u).Elsewhere d 6 (reroute before after) := by
  obtain ⟨s, hs, hdrop⟩ := foldl_ofDesk (f := fun d s => dropMoved before (movedItems before after) d s)
    (fun e s => dropMoved_ofDesk e s before _) allDesks_nodup (mem_allDesks d) (clearMoved before after)
  obtain ⟨u, hu, htake⟩ := foldl_ofDesk (f := fun d s => takeInMoved (movedItems before after) d s)
    (fun e s => takeInMoved_ofDesk e s _) allDesks_nodup (mem_allDesks d)
    (allDesks.foldl (fun s d => dropMoved before (movedItems before after) d s) (clearMoved before after))
  exact ⟨s, _, u, hs, hdrop, hu, htake⟩

theorem reroute_onDesks : (clearMoved before after).OnDesks (reroute before after) := by
  obtain ⟨s, t, u, hs, ht, hu, hr⟩ := reroute_at before after .d0
  exact (((hs.onDesks.trans (dropMoved_ofDesk _ s _ _).onDesks).trans ht.onDesks).trans hu.onDesks).trans
    ((takeInMoved_ofDesk _ u _).onDesks.trans hr.onDesks)

theorem reroute_hasHolder : (reroute before after).hasHolder d = after.hasHolder d := by
  obtain ⟨s, t, u, hs, ht, hu, hr⟩ := reroute_at before after d
  rw [hr.holder, (takeInMoved_ofDesk d u _).holder, hu.holder, ht.holder, (dropMoved_ofDesk d s _ _).holder, hs.holder]
  rfl

/-- A desk in no handover is as it was (R37). -/
theorem reroute_unit_out (hout : after.inHandover d = false) : (reroute before after).unit d = after.unit d := by
  obtain ⟨s, t, u, hs, ht, hu, hr⟩ := reroute_at before after d
  have hs' : s.unit d = after.unit d := hs.unit
  have hsout : s.inHandover d = false := by rw [State.inHandover, hs']; exact hout
  have hdrop := (dropMoved_ofDesk d s before (movedItems before after)).out hsout
  have hu' : u.unit d = after.unit d := by rw [hu.unit, ht.unit, hdrop, hs']
  have huout : u.inHandover d = false := by rw [State.inHandover, hu']; exact hout
  rw [hr.unit, (takeInMoved_ofDesk d u _).out huout, hu']

/-- Working out routing makes at most an entry a desk. -/
theorem reroute_logs : ∃ ws, ws.length ≤ 26 ∧ after.Logs (reroute before after) ws := by
  obtain ⟨s, t, u, hs, ht, hu, hr⟩ := reroute_at before after .d0
  obtain ⟨w1, h1, l1⟩ := hs.logs
  obtain ⟨w2, h2, l2⟩ := (dropMoved_ofDesk .d0 s before (movedItems before after)).logs
  obtain ⟨w3, h3, l3⟩ := ht.logs
  obtain ⟨w4, h4, l4⟩ := hu.logs
  obtain ⟨w5, h5, l5⟩ := (takeInMoved_ofDesk .d0 u (movedItems before after)).logs
  obtain ⟨w6, h6, l6⟩ := hr.logs
  have hclear : after.Logs (clearMoved before after) [] := .of_eq rfl rfl
  refine ⟨[] ++ w1 ++ w2 ++ w3 ++ w4 ++ w5 ++ w6, by simp only [List.length_append, List.length_nil]; omega, ?_⟩
  exact (((((hclear.trans l1).trans l2).trans l3).trans l4).trans l5).trans l6

/-- The fields that working out routing can change (R37). -/
theorem reroute_rest : reroute before after = { after with
    points := (reroute before after).points, desks := (reroute before after).desks
    journal := (reroute before after).journal, nextSeq := (reroute before after).nextSeq
    attention := (reroute before after).attention, links := (reroute before after).links } := by
  have h := reroute_onDesks before after
  have hp := reroute_points before after
  unfold State.OnDesks at h
  generalize reroute before after = r at *
  rw [hp]
  exact h

theorem reroute_target (a : Area) : (reroute before after).target a = after.target a := by
  have h := reroute_rest before after
  have hholder := reroute_hasHolder before after
  generalize reroute before after = r at *
  have howners : r.owners = after.owners := by rw [h]
  have hsupervisor : r.supervisor = after.supervisor := by rw [h]
  have hcommand : r.command = after.command := by rw [h]
  exact target_congr howners hsupervisor (isLocal_congr hcommand) hholder a

/-- A point whose target has moved loses its silencing, if it stands in a list (R37). -/
theorem reroute_point (x : Tag) : (reroute before after).point x = (after.point x).map (fun p =>
    if p.standing.isSome = true ∧ before.target p.area ≠ after.target p.area then { p with silenced := false } else p) := by
  rw [State.point, reroute_points, clearMoved]
  simp only [tableGet_map, movedPoint, Bool.and_eq_true, decide_eq_true_eq]
  rfl

end Whole

end Sys2Proof.Machine
end

section
/-! PROOFS. What a desk in handover carries after routing has been worked out (O17). -/

namespace Sys2Proof.Machine

/-! ### The lists after the moved points' silencing is cleared -/

/-- An item whose point has its silencing cleared where its target has moved. -/
def clearItem (before after : State) (x : Item) : Item :=
  (x.1, if movedPoint before after x.2 then { x.2 with silenced := false } else x.2)

section Items
variable (before after : State)

theorem clearItem_cases (x : Item) : clearItem before after x = x ∨
    clearItem before after x = (x.1, { x.2 with silenced := false }) := by
  unfold clearItem
  split
  · exact .inr rfl
  · exact .inl rfl

theorem clearItem_standing (x : Item) : (clearItem before after x).2.standing = x.2.standing := by
  rcases clearItem_cases before after x with h | h <;> rw [h] <;> rfl

theorem clearItem_toCarry (x : Item) : (clearItem before after x).2.toCarry = x.2.toCarry := by
  rcases clearItem_cases before after x with h | h <;> rw [h] <;> rfl

theorem clearItem_before (now : Word32) (x y : Item) :
    itemBefore now (clearItem before after x) (clearItem before after y) = itemBefore now x y := by
  rcases clearItem_cases before after x with h | h <;> rcases clearItem_cases before after y with h' | h' <;>
    rw [h, h'] <;> rfl

theorem insertItem_map {f : Item → Item} {b : Item → Item → Bool} (h : ∀ x y, b (f x) (f y) = b x y) (x : Item)
    (l : List Item) : insertItem b (f x) (l.map f) = (insertItem b x l).map f := by
  induction l with
  | nil => rfl
  | cons y l ih =>
    simp only [List.map_cons, insertItem, h]
    split
    · rw [ih, List.map_cons]
    · rfl

theorem sortItems_map {f : Item → Item} {b : Item → Item → Bool} (h : ∀ x y, b (f x) (f y) = b x y) (l : List Item) :
    sortItems b (l.map f) = (sortItems b l).map f := by
  induction l with
  | nil => rfl
  | cons x l ih => rw [List.map_cons, sortItems, ih, insertItem_map h, sortItems]

variable {before after}

/-- While routing is worked out a list holds the items it held after the event, their silencing cleared. -/
theorem attentionList_cleared {s : State} (hpoints : s.points = (clearMoved before after).points)
    (hseconds : s.runSeconds = after.runSeconds) (htarget : s.target = after.target) (x : Target) :
    s.attentionList x = (after.attentionList x).map (clearItem before after) := by
  have hmap : (clearMoved before after).points = after.points.map (clearItem before after) := rfl
  have hfilter : (after.points.map (clearItem before after)).filter (fun e => s.standsAt x e.2) =
      (after.points.filter (fun e => after.standsAt x e.2)).map (clearItem before after) := by
    rw [List.filter_map]
    refine congrArg (List.map _) (List.filter_congr fun e _ => ?_)
    rw [Function.comp_apply, State.standsAt, State.standsAt, clearItem_standing, htarget]
    rcases clearItem_cases before after e with h | h <;> rw [h]
  rw [State.attentionList, State.attentionList, hpoints, hmap, hfilter, hseconds,
    sortItems_map (clearItem_before before after after.runSeconds)]

/-! ### The entries that come -/

/-- The entries that routing brings to a desk in handover: those of the items of its list that have come from another
target and are carried, in list order (R126). -/
def comingTo (before after : State) (d : Desk) : List Carried :=
  (after.attentionList (.desk d)).filterMap (fun x =>
    match x.2.standing with
    | some st => if before.target x.2.area ≠ .desk d ∧ (st ≠ .acked ∨ x.2.effective = 1) then
        some { tag := x.1, standing := st, briefed := false } else none
    | none => none)

theorem mem_comingTo {d : Desk} {c : Carried} : c ∈ comingTo before after d ↔ ∃ p st, (c.tag, p) ∈ after.points ∧
    p.standing = some st ∧ after.target p.area = .desk d ∧ before.target p.area ≠ .desk d ∧
    (st ≠ .acked ∨ p.effective = 1) ∧ c = { tag := c.tag, standing := st, briefed := false } := by
  simp only [comingTo, List.mem_filterMap, mem_attentionList]
  constructor
  · rintro ⟨⟨t, p⟩, ⟨hmem, hstands⟩, hc⟩
    simp only [State.standsAt, Bool.and_eq_true, decide_eq_true_eq] at hstands
    obtain ⟨-, htarget⟩ := hstands
    cases hst : p.standing with
    | none => rw [hst] at hc; cases hc
    | some st =>
      simp only [hst] at hc
      split at hc
      · next hcond =>
        obtain ⟨hmoved, hcarried⟩ := hcond
        cases hc
        exact ⟨p, st, hmem, hst, htarget, hmoved, hcarried, rfl⟩
      · cases hc
  · rintro ⟨p, st, hmem, hst, htarget, hmoved, hcarried, hc⟩
    refine ⟨(c.tag, p), ⟨hmem, by simp [State.standsAt, hst, htarget]⟩, ?_⟩
    simp only [hst]
    rw [if_pos ⟨hmoved, hcarried⟩, ← hc]

theorem comingTo_fresh {d : Desk} : ∀ c ∈ comingTo before after d, c.briefed = false := by
  intro c hc
  obtain ⟨p, st, -, -, -, -, -, heq⟩ := mem_comingTo.mp hc
  rw [heq]

theorem comingTo_nodup (hwf : tableWf after.points = true) (d : Desk) : ((comingTo before after d).map (·.tag)).Nodup := by
  refine (attentionList_nodup hwf (.desk d)).sublist ?_
  simp only [comingTo]
  generalize after.attentionList (.desk d) = l
  induction l with
  | nil => simp
  | cons x l ih =>
    rw [List.filterMap_cons]
    split
    · exact ih.cons _
    · next c hc =>
      have htag : c.tag = x.1 := by
        split at hc
        · split at hc
          · cases hc; rfl
          · cases hc
        · cases hc
      simpa [htag] using ih

theorem hasTag_movedItems (hwf : tableWf after.points = true) {x : Item} (hx : x ∈ after.points) :
    hasTag (movedItems before after) x.1 = movedPoint before after x.2 := by
  rw [Bool.eq_iff_iff]
  simp only [hasTag, movedItems, List.any_eq_true, List.mem_filter, decide_eq_true_eq]
  constructor
  · rintro ⟨⟨t, p⟩, ⟨hmem, hmoved⟩, rfl⟩
    have := tableGet_of_mem hwf hmem
    rw [tableGet_of_mem hwf hx, Option.some.injEq] at this
    rwa [this]
  · exact fun hmoved => ⟨x, ⟨hx, hmoved⟩, rfl⟩

/-- The desk takes in the moved items of its list as the entries that come (R126). -/
theorem takeInMoved_eq {s : State} {d : Desk} (hwf : tableWf after.points = true)
    (hpoints : s.points = (clearMoved before after).points) (hseconds : s.runSeconds = after.runSeconds)
    (htarget : s.target = after.target) : takeInMoved (movedItems before after) d s =
      (comingTo before after d).foldl (fun s c => takeEntry d c s) s := by
  rw [takeInMoved, attentionList_cleared hpoints hseconds htarget, comingTo]
  have hlist : ∀ x ∈ after.attentionList (.desk d), x ∈ after.points ∧ x.2.standing.isSome = true ∧
      after.target x.2.area = .desk d := by
    intro x hx
    obtain ⟨hmem, hstands⟩ := mem_attentionList.mp hx
    simp only [State.standsAt, Bool.and_eq_true, decide_eq_true_eq] at hstands
    exact ⟨hmem, hstands.1, hstands.2⟩
  clear hpoints hseconds htarget
  generalize after.attentionList (.desk d) = items at *
  induction items generalizing s with
  | nil => rfl
  | cons x items ih =>
    obtain ⟨hmem, hsome, htarget⟩ := hlist x List.mem_cons_self
    obtain ⟨st, hst⟩ := Option.isSome_iff_exists.mp hsome
    have hmoved : hasTag (movedItems before after) x.1 = decide (before.target x.2.area ≠ .desk d) := by
      rw [hasTag_movedItems hwf hmem, movedPoint, hsome, htarget, Bool.true_and]
    have hrest := fun {s : State} => ih (s := s) fun y hy => hlist y (List.mem_cons_of_mem _ hy)
    rw [List.map_cons, List.filterMap_cons, hst]
    by_cases hcomes : before.target x.2.area ≠ .desk d ∧ (st ≠ .acked ∨ x.2.effective = 1)
    · obtain ⟨hfrom, hcarried⟩ := hcomes
      rw [List.filter_cons_of_pos (by simpa [clearItem, hmoved] using hfrom), List.foldl_cons, hrest]
      simp only [if_pos (And.intro hfrom hcarried), List.foldl_cons]
      refine congrArg (List.foldl _ · _) ?_
      have hcarry : (clearItem before after x).2.toCarry = true := by
        rw [clearItem_toCarry]
        exact (toCarry_iff x.2).mpr ⟨st, hst, hcarried⟩
      rw [takeIn, clearItem_standing, hst, hcarry, Bool.true_and]
      rfl
    · simp only [if_neg hcomes]
      by_cases hfrom : before.target x.2.area ≠ .desk d
      · rw [List.filter_cons_of_pos (by simpa [clearItem, hmoved] using hfrom), List.foldl_cons, hrest]
        refine congrArg (List.foldl _ · _) ?_
        have hcarry : (clearItem before after x).2.toCarry = false := by
          rw [clearItem_toCarry, Bool.eq_false_iff, ne_eq, toCarry_iff]
          rintro ⟨st', hst', hcarried⟩
          rw [hst, Option.some.injEq] at hst'
          exact hcomes ⟨hfrom, hst' ▸ hcarried⟩
        rw [takeIn, clearItem_standing, hst, hcarry]
        rfl
      · rw [List.filter_cons_of_neg (by simpa [clearItem, hmoved] using hfrom), hrest]

end Items

end Sys2Proof.Machine
end

section
/-! PROOFS. The working out of routing, settled (O17). -/

namespace Sys2Proof.Machine

/-- The entries that a desk in handover keeps when routing is worked out: those of points that have not moved away
(R37). -/
def keptAt (before after : State) (d : Desk) (entries : List Carried) : List Carried :=
  entries.filter (fun e => !after.points.any (fun x => decide (x.1 = e.tag) && x.2.standing.isSome &&
    decide (before.target x.2.area = .desk d) && decide (after.target x.2.area ≠ .desk d)))

section Desk
variable {before after s : State} {d : Desk} {h : Handover}

theorem dropMoved_eq (hh : (s.unit d).state.handover? = some h) :
    dropMoved before (movedItems before after) d s = s.carrying d (keptAt before after d h.carried) := by
  rw [dropMoved, dropCarried, mapCarried_eq hh]
  refine congrArg (s.carrying d) (List.filter_congr fun e _ => congrArg (!·) ?_)
  rw [Bool.eq_iff_iff]
  simp only [hasTag, movedItems, movedPoint, List.any_filter, List.any_eq_true, Bool.and_eq_true, decide_eq_true_eq]
  refine exists_congr fun x => and_congr_right fun _ => ?_
  constructor
  · rintro ⟨⟨hsome, hmoved⟩, hfrom, htag⟩
    exact ⟨⟨⟨htag, hsome⟩, hfrom⟩, fun hto => hmoved (hfrom.trans hto.symm)⟩
  · rintro ⟨⟨⟨htag, hsome⟩, hfrom⟩, hto⟩
    exact ⟨⟨hsome, fun heq => hto (heq ▸ hfrom)⟩, hfrom, htag⟩

theorem elsewhere_points {n : Nat} {t : State} (hs : s.Elsewhere d n t) : t.points = s.points := by
  have h := hs.onDesks
  unfold State.OnDesks at h
  rw [h]

theorem onDesks_runSeconds {t : State} (h : s.OnDesks t) : t.runSeconds = s.runSeconds := by
  unfold State.OnDesks at h
  rw [h]

theorem onDesks_points {t : State} (h : s.OnDesks t) : t.points = s.points := by
  unfold State.OnDesks at h
  rw [h]

theorem onDesks_target {t : State} (h : s.OnDesks t) (hholder : ∀ e, t.hasHolder e = s.hasHolder e) :
    t.target = s.target := by
  unfold State.OnDesks at h
  have howners : t.owners = s.owners := by rw [h]
  have hsupervisor : t.supervisor = s.supervisor := by rw [h]
  have hcommand : t.command = s.command := by rw [h]
  exact funext (target_congr howners hsupervisor (isLocal_congr hcommand) hholder)

/-- A desk in handover when routing is worked out: it takes in what comes on top of what it keeps, the rest of the work
being done elsewhere. -/
theorem reroute_handover (hwf : tableWf after.points = true) (hh : (after.unit d).state.handover? = some h) :
    ∃ s, s.unit d = { after.unit d with
        state := (after.unit d).state.mapHandover fun x => { x with carried := keptAt before after d h.carried } } ∧
      (s.unit d).state.handover? = some { h with carried := keptAt before after d h.carried } ∧
      ((comingTo before after d).foldl (fun s c => takeEntry d c s) s).Elsewhere d 6 (reroute before after) := by
  obtain ⟨s, t, u, hs, ht, hu, hr⟩ := reroute_at before after d
  have hsu : s.unit d = after.unit d := hs.unit
  have hdrop := dropMoved_eq (before := before) (after := after) (s := s) (d := d) (h := h) (by rw [hsu, hh])
  have hcarrying := carrying_unit s d (keptAt before after d h.carried)
  have huu : u.unit d = _ := (hu.unit.trans ht.unit).trans ((congrArg (fun v : State => v.unit d) hdrop).trans hcarrying)
  rw [hsu] at huu
  refine ⟨u, huu, ?_, ?_⟩
  · have := carrying_handover (s := s) (d := d) (h := h) (by rw [hsu, hh]) (keptAt before after d h.carried)
    rw [hcarrying, hsu] at this
    rw [huu, this]
  · have hon : (clearMoved before after).OnDesks u :=
      ((hs.onDesks.trans (dropMoved_ofDesk _ s _ _).onDesks).trans ht.onDesks).trans hu.onDesks
    have hholder : ∀ e, u.hasHolder e = (clearMoved before after).hasHolder e := by
      intro e
      rw [hu.holder, ht.holder, ← hs.holder]
      by_cases he : e = d
      · subst he
        exact (dropMoved_ofDesk e s _ _).holder
      · rw [State.hasHolder, (dropMoved_ofDesk d s _ _).others e he, State.hasHolder]
    have htarget : (clearMoved before after).target = after.target :=
      funext (target_congr rfl rfl rfl fun _ => rfl)
    rw [← takeInMoved_eq hwf (onDesks_points hon) (onDesks_runSeconds (s := clearMoved before after) hon) ((onDesks_target hon hholder).trans htarget)]
    exact hr

/-- The carried list of a desk in handover once routing is worked out, while there is room (R126, R127). -/
theorem reroute_unit_fits (hwf : tableWf after.points = true) (hh : (after.unit d).state.handover? = some h)
    (hfits : newTo (comingTo before after d) (keptAt before after d h.carried) = [] ∨
      (keptAt before after d h.carried).length +
        (newTo (comingTo before after d) (keptAt before after d h.carried)).length ≤ 32) :
    (reroute before after).unit d = { after.unit d with
      state := (after.unit d).state.mapHandover fun x => { x with
        carried := markedBy (comingTo before after d) (keptAt before after d h.carried) ++
          newTo (comingTo before after d) (keptAt before after d h.carried) } } := by
  obtain ⟨s, hunit, hhs, hr⟩ := reroute_handover (before := before) hwf hh
  rw [hr.unit, (foldl_takeEntry hhs comingTo_fresh (comingTo_nodup hwf d)).1 hfits, carrying_unit, hunit]
  cases (after.unit d).state <;> rfl

theorem aborted_mapHandover (u : DeskUnit) (f : Handover → Handover) :
    DeskUnit.aborted { u with state := u.state.mapHandover f } = u.aborted := by
  obtain ⟨st, slotA, slotB, due, home, tone, hornHold, lamps⟩ := u
  cases st with
  | handoverReview k h inc => cases k <;> rfl
  | _ => rfl

/-- A 33rd entry aborts the handover (R126). -/
theorem reroute_unit_full (hwf : tableWf after.points = true) (hh : (after.unit d).state.handover? = some h)
    (hnew : newTo (comingTo before after d) (keptAt before after d h.carried) ≠ [])
    (hfull : 32 < (keptAt before after d h.carried).length +
      (newTo (comingTo before after d) (keptAt before after d h.carried)).length) :
    (reroute before after).unit d = (after.aborted d 4).unit d ∧
      ∃ n, (reroute before after).records n { kind := .handoverAbort, desk := some d, op := some h.outgoing, d1 := some 4
                                              d2 := some (max 32 (keptAt before after d h.carried).length) } := by
  obtain ⟨s, hunit, hhs, hr⟩ := reroute_handover (before := before) hwf hh
  obtain ⟨l, hl, hfold⟩ := (foldl_takeEntry hhs comingTo_fresh (comingTo_nodup hwf d)).2 hnew hfull
  have habort : ∀ v : State, v.aborted d 4 = abortHandover d .carryFull v := fun v =>
    (abortHandover_eq d .carryFull v).symm
  rw [hfold, habort] at hr
  constructor
  · rw [hr.unit, abortHandover_unit, carrying_unit, hunit, habort, abortHandover_unit]
    exact (aborted_mapHandover _ _).trans (aborted_mapHandover _ _)
  · obtain ⟨ws, hws, hlog⟩ := hr.logs
    have habortLog := abortHandover_logs d .carryFull (s.carrying d l)
    have hentry : abortLog d 4 ((s.carrying d l).unit d) =
        [{ kind := .handoverAbort, desk := some d, op := some h.outgoing, d1 := some 4
           d2 := some (max 32 (keptAt before after d h.carried).length) }] := by
      rw [abortLog, carrying_handover hhs, ← hl]
    rw [show AbortReason.carryFull.code = 4 from rfl, hentry] at habortLog
    exact ⟨_, (habortLog.trans hlog).records_head (by change ws.length < 2048; omega)⟩

/-- The carried list of a desk that is in handover after routing has been worked out: it was in handover before, and
there was room. -/
theorem reroute_carried (hwf : tableWf after.points = true) (hin : (reroute before after).inHandover d = true) :
    ∃ h, (after.unit d).state.handover? = some h ∧ (reroute before after).carried d =
      markedBy (comingTo before after d) (keptAt before after d h.carried) ++
        newTo (comingTo before after d) (keptAt before after d h.carried) := by
  cases hh : (after.unit d).state.handover? with
  | none =>
    have hout : after.inHandover d = false := by rw [State.inHandover, hh]; rfl
    rw [State.inHandover, reroute_unit_out before after d hout, hh] at hin
    cases hin
  | some h =>
    refine ⟨h, rfl, ?_⟩
    by_cases hfull : newTo (comingTo before after d) (keptAt before after d h.carried) ≠ [] ∧
        32 < (keptAt before after d h.carried).length +
          (newTo (comingTo before after d) (keptAt before after d h.carried)).length
    · have hunit := (reroute_unit_full hwf hh hfull.1 hfull.2).1
      rw [State.inHandover, hunit] at hin
      exact absurd hin (by rw [← State.inHandover, aborted_out]; decide)
    · have hunit := reroute_unit_fits (before := before) hwf hh (by
        by_cases hnil : newTo (comingTo before after d) (keptAt before after d h.carried) = []
        · exact .inl hnil
        · exact .inr (not_lt.mp fun hlt => hfull ⟨hnil, hlt⟩))
      rw [State.carried, hunit]
      cases hst : (after.unit d).state with
      | handoverOpen k x => rw [hst] at hh; cases hh; rfl
      | handoverReview k x inc => rw [hst] at hh; cases hh; rfl
      | _ => rw [hst] at hh; cases hh

theorem mem_markedBy_tag {cs l : List Carried} {e : Carried} (he : e ∈ markedBy cs l) : ∃ x ∈ l, x.tag = e.tag := by
  obtain ⟨x, hx, rfl⟩ := List.mem_map.mp he
  refine ⟨x, hx, ?_⟩
  cases hfind : cs.find? (fun c => decide (c.tag = x.tag)) with
  | none => rfl
  | some c =>
    have : c.tag = x.tag := by simpa using List.find?_some hfind
    exact this.symm

theorem exists_markedBy {cs l : List Carried} {x : Carried} (hx : x ∈ l) : ∃ e ∈ markedBy cs l, e.tag = x.tag := by
  refine ⟨_, List.mem_map.mpr ⟨x, hx, rfl⟩, ?_⟩
  cases hfind : cs.find? (fun c => decide (c.tag = x.tag)) with
  | none => rfl
  | some c => simpa using List.find?_some hfind

end Desk

/-- Settles O17. -/
theorem routingWorkedOut : Obligations.RoutingWorkedOut := by
  intro before after hwf
  refine ⟨reroute_point before after, ?_, ?_, fun d => reroute_unit_out before after d, ?_, ?_, reroute_rest before after,
    fun d h hh => ?_, reroute_eq⟩
  · rw [reroute_rest]
  · rw [reroute_rest]
  · intro d t p hp hsome hfrom hto e he htag
    have hin : (reroute before after).inHandover d = true := by
      by_contra hout
      rw [State.carried] at he
      rw [State.inHandover] at hout
      cases hh : ((reroute before after).unit d).state.handover? with
      | none => rw [hh] at he; cases he
      | some h => rw [hh] at hout; exact hout rfl
    obtain ⟨h, -, hcarried⟩ := reroute_carried hwf hin
    rw [hcarried, List.mem_append] at he
    rcases he with he | he
    · obtain ⟨x, hx, hxe⟩ := mem_markedBy_tag he
      have hmem : (t, p) ∈ after.points := tableGet_mem hp
      have hkept := (List.mem_filter.mp hx).2
      rw [hxe, htag, Bool.not_eq_true', List.any_eq_false] at hkept
      exact hkept (t, p) hmem (by simp [hsome, hfrom, hto])
    · obtain ⟨q, st, hmem, -, hq, -⟩ := mem_comingTo.mp (List.mem_filter.mp he).1
      rw [htag] at hmem
      have hqp : q = p := Option.some.inj ((tableGet_of_mem hwf hmem).symm.trans hp)
      exact hto (hqp ▸ hq)
  · intro d t p st hp hst hfrom hto hcarried hin
    obtain ⟨h, -, hlist⟩ := reroute_carried hwf hin
    have hcoming : { tag := t, standing := st, briefed := false } ∈ comingTo before after d :=
      mem_comingTo.mpr ⟨p, st, tableGet_mem hp, hst, hto, hfrom, hcarried, rfl⟩
    rw [hlist]
    by_cases hmem : ∃ x ∈ keptAt before after d h.carried, x.tag = t
    · obtain ⟨x, hx, hxt⟩ := hmem
      obtain ⟨e, he, heq⟩ := exists_markedBy (cs := comingTo before after d) hx
      exact ⟨e, List.mem_append_left _ he, heq.trans hxt⟩
    · refine ⟨_, List.mem_append_right _ (List.mem_filter.mpr ⟨hcoming, ?_⟩), rfl⟩
      simpa using hmem
  · exact ⟨reroute_unit_fits hwf hh, reroute_unit_full hwf hh⟩

end Sys2Proof.Machine
end

section
/-! PROOFS. The entries of releases and claims, and what an event about one desk leaves once routing is worked out. -/

namespace Sys2Proof.Machine

/-! ### The entries of a change of owner -/

section Owners
variable {s : State} {d : Desk}

/-- The AREA entry of an area released by its owner (R41). -/
def releaseEntry (d : Desk) (a : Area) : Draft := { kind := .area, d1 := some a.val, d2 := some d.code }

/-- The AREA entry of an unowned area claimed by a desk (R41). -/
def claimEntry (d : Desk) (op : Option OpIndex) (a : Area) : Draft :=
  { kind := .area, desk := some d, op := op, d1 := some a.val, d2 := some 255 }

theorem changeOwner_logs (a : Area) (o : Option Desk) (s : State) :
    s.Logs (changeOwner a o s) [{ kind := .area, desk := o, op := o.bind s.holder, d1 := some a.val
                                  d2 := some (((s.owner a).map Desk.code).getD 255) }] := by
  cases o <;> exact .enter_after rfl rfl

theorem foldl_release_logs {l : List Area} (hl : l.Nodup) (hw : tableWf s.owners = true)
    (hown : ∀ a ∈ l, s.owner a = some d) :
    s.Logs (l.foldl (fun s' a => changeOwner a none s') s) (l.map (releaseEntry d)) := by
  induction l generalizing s with
  | nil => exact .refl s
  | cons a l ih =>
    obtain ⟨ha, hl⟩ := List.nodup_cons.mp hl
    have hfirst := changeOwner_logs a none s
    rw [hown a List.mem_cons_self] at hfirst
    refine hfirst.trans (ih hl (changeOwner_owners_wf hw a none) fun b hb => ?_)
    rw [changeOwner_owner hw, if_neg (fun heq : b = a => ha (heq ▸ hb))]
    exact hown b (List.mem_cons_of_mem _ hb)

theorem ownedAreas_nodup (hw : tableWf s.owners = true) (d : Desk) : (s.ownedAreas d).Nodup :=
  (tableWf_nodup hw).sublist (List.filter_sublist.map _)

/-- A release journals every area released (R40, R41). -/
theorem releaseOutside_logs (hw : tableWf s.owners = true) (kept : AreaSet) :
    s.Logs (releaseOutside d kept s) (((s.ownedAreas d).filter (fun a => !inSet kept a)).map (releaseEntry d)) :=
  foldl_release_logs ((ownedAreas_nodup hw d).sublist List.filter_sublist) hw fun _ ha =>
    (mem_ownedAreas hw).mp (List.mem_filter.mp ha).1

theorem released_length (hw : tableWf s.owners = true) (kept : AreaSet) :
    (((s.ownedAreas d).filter (fun a => !inSet kept a)).map (releaseEntry d)).length ≤ 64 := by
  have hnodup := (ownedAreas_nodup hw d).sublist (List.filter_sublist (p := fun a => !inSet kept a))
  simpa using hnodup.length_le_card

theorem mem_released (hw : tableWf s.owners = true) {kept : AreaSet} {a : Area} (hown : s.owner a = some d)
    (hout : inSet kept a = false) :
    releaseEntry d a ∈ ((s.ownedAreas d).filter (fun a => !inSet kept a)).map (releaseEntry d) :=
  List.mem_map_of_mem (List.mem_filter.mpr ⟨(mem_ownedAreas hw).mpr hown, by simp [hout]⟩)

theorem holder_congr {t : State} (h : t.unit d = s.unit d) : t.holder d = s.holder d := by
  simp only [State.holder, State.slot, h]

theorem foldl_claim_logs (test : Area → Bool) (l : List Area) (hw : tableWf s.owners = true) :
    ∃ ws, ws.length ≤ l.length ∧ s.Logs (l.foldl (claimIf d test) s) ws ∧
      ∀ a ∈ l, test a = true → s.owner a = none → claimEntry d (s.holder d) a ∈ ws := by
  induction l generalizing s with
  | nil => exact ⟨[], by simp, .refl s, by simp⟩
  | cons b l ih =>
    obtain ⟨ws, hlen, hlog, hmem⟩ := ih (claimIf_owners_wf hw d test b)
    have hholder : (claimIf d test s b).holder d = s.holder d := holder_congr (claimIf_unit d test s b d)
    rw [hholder] at hmem
    have hothers : ∀ a, a ≠ b → a ∈ l → test a = true → s.owner a = none → claimEntry d (s.holder d) a ∈ ws :=
      fun a hne ha htest hnone => hmem a ha htest (by rw [claimIf_owner hw, if_neg (fun h => hne h.1)]; exact hnone)
    by_cases hclaims : test b = true ∧ s.owner b = none
    · obtain ⟨htest, hnone⟩ := hclaims
      have hfirst := changeOwner_logs b (some d) s
      rw [hnone] at hfirst
      have hclaim : claimIf d test s b = changeOwner b (some d) s := if_pos (by simp [htest, hnone])
      rw [hclaim] at hlog
      refine ⟨claimEntry d (s.holder d) b :: ws, by simpa using hlen, ?_, fun a ha hta hna => ?_⟩
      · rw [List.foldl_cons, hclaim]
        exact hfirst.trans hlog
      · by_cases hab : a = b
        · rw [hab]
          exact List.mem_cons_self
        · exact List.mem_cons_of_mem _ (hothers a hab ((List.mem_cons.mp ha).resolve_left hab) hta hna)
    · have hclaim : claimIf d test s b = s := if_neg (by simpa using hclaims)
      rw [hclaim] at hlog
      refine ⟨ws, by rw [List.length_cons]; omega, ?_, fun a ha hta hna => ?_⟩
      · rw [List.foldl_cons, hclaim]
        exact hlog
      · have hab : a ≠ b := fun h => hclaims ⟨h ▸ hta, h ▸ hna⟩
        exact hothers a hab ((List.mem_cons.mp ha).resolve_left hab) hta hna

/-- A claim journals every area claimed (R38, R41). -/
theorem claimHome_logs (hw : tableWf s.owners = true) (permitted : AreaSet) :
    ∃ ws, ws.length ≤ 64 ∧ s.Logs (claimHome d permitted s) ws ∧ ∀ a, inSet (s.unit d).home a = true →
      inSet permitted a = true → s.owner a = none → claimEntry d (s.holder d) a ∈ ws := by
  obtain ⟨ws, hlen, hlog, hmem⟩ := foldl_claim_logs (d := d) (fun a => inSet (s.unit d).home a && inSet permitted a)
    allAreas hw
  refine ⟨ws, by simpa [allAreas] using hlen, hlog, fun a hhome hin hnone => ?_⟩
  exact hmem a (List.mem_finRange a) (by rw [hhome, hin]; rfl) hnone

/-! ### A holder gained -/

theorem held_holder {t : State} {k : SlotId} {op : OpIndex} {u : DeskUnit} (h : t.unit d = u.held k op)
    (hseated : ∃ bat key issue r, (u.slot k).state = .present bat key issue r) : t.holder d = some op := by
  obtain ⟨bat, key, issue, r, hst⟩ := hseated
  refine holder_some_iff.mpr ⟨k, by rw [h]; rfl, ?_⟩
  rw [h, DeskUnit.held, DeskUnit.result, DeskUnit.slot_withState, DeskUnit.withResult, DeskUnit.slot_setSlot_self, hst]
  rfl

/-- A desk that gains a holder journals SIGN_ON and the areas claimed (R89, R93). -/
theorem gainHolder_logs (hw : tableWf s.owners = true) {k : SlotId} {op : OpIndex} (permitted : AreaSet) (d2 : Nat)
    (hseated : ∃ bat key issue r, ((s.unit d).slot k).state = .present bat key issue r) :
    ∃ ws, ws.length ≤ 64 ∧ s.Logs (gainHolder d k op permitted d2 s)
        ({ kind := .signOn, desk := some d, op := some op, d1 := some (256 * k.code), d2 := some d2 } :: ws) ∧
      ∀ a, inSet (s.unit d).home a = true → inSet permitted a = true → s.owner a = none →
        claimEntry d (some op) a ∈ ws := by
  let u := enter { kind := .signOn, desk := some d, op := some op, d1 := some (slotDetail k 0), d2 := some d2 }
    (clearDue d ((s.setResult d k (.holder op)).putDeskState d (.attended k)))
  have hunit : u.unit d = (s.unit d).held k op := by simp [u, DeskUnit.held]
  have howner : ∀ a, u.owner a = s.owner a := fun a => by
    simp [u, clearDue, State.putDeskState, State.setResult, State.putSlotState, State.putSlot]
  obtain ⟨ws, hlen, hlog, hmem⟩ := claimHome_logs (s := u) (d := d) (by rw [enter_owners]; exact hw) permitted
  have hfirst : s.Logs u [{ kind := .signOn, desk := some d, op := some op, d1 := some (256 * k.code), d2 := some d2 }] :=
    .enter_after rfl rfl
  refine ⟨ws, hlen, hfirst.trans hlog, fun a hhome hin hnone => ?_⟩
  have := hmem a (by rw [hunit]; simpa [DeskUnit.held] using hhome) hin (by rw [howner, hnone])
  rwa [held_holder hunit hseated] at this

end Owners

/-! ### Routing around a desk -/

theorem State.AtDesk.desks {s t : State} {d : Desk} (h : s.AtDesk d t) : t.desks = s.desks.set d (t.unit d) := by
  refine PerDesk.ext_get fun e => ?_
  rw [PerDesk.get_set]
  split
  · next he => rw [he]; rfl
  · next he => exact h.others e he

/-- What work at one desk leaves, spelt by that desk's unit. -/
theorem State.AtDesk.eq_putUnit {s t : State} {d : Desk} (h : s.AtDesk d t) : t = { s.putUnit d (t.unit d) with
    owners := t.owners, journal := t.journal, nextSeq := t.nextSeq, attention := t.attention, links := t.links } := by
  have hrest := h.rest
  rw [h.desks] at hrest
  exact hrest

/-- Routing worked out after work at one desk (R37; log 14). -/
theorem routedAround_of_atDesk {s u x : State} {d : Desk} (h : u.AtDesk d x) (hunits : ∀ e, e ≠ d → u.unit e = s.unit e)
    (hpoints : u.points = s.points) : State.RoutedAround d (x.unit d) s u (reroute s x) := by
  have hrest := reroute_rest s x
  have howners : (reroute s x).owners = x.owners := by rw [hrest]
  refine ⟨⟨x.journal, x.nextSeq, x.attention, x.links, ?_⟩, ?_, fun e he hout => ?_, fun t => ?_⟩
  · rw [howners]
    exact congrArg (reroute s) h.eq_putUnit
  · have hx := h.rest
    generalize reroute s x = r at *
    rw [hrest, hx]
  · have hxe : x.unit e = s.unit e := (h.others e he).trans (hunits e he)
    rw [reroute_unit_out s x e (by rw [State.inHandover, hxe]; exact hout), hxe]
  · have hpoint : x.point t = s.point t := by rw [State.point, h.points, hpoints, State.point]
    have htarget : (reroute s x).target = x.target := funext (reroute_target s x)
    rw [reroute_point, hpoint, htarget]

end Sys2Proof.Machine
end

section
/-! PROOFS. A desertion, settled for the holder's key drawn (O23). -/

namespace Sys2Proof.Machine

section Vacated
variable {s : State} {d : Desk} {k : SlotId} {op : OpIndex}

theorem abortLog_length (d : Desk) (n : Nat) (u : DeskUnit) :
    (abortLog d n u).length = if u.state.handover?.isSome then 1 else 0 := by
  unfold abortLog
  cases u.state.handover? <;> rfl

/-- A desk vacated journals the abort, DESERTED and every area released (R93, R40, R41). -/
theorem vacate_logs (hw : tableWf s.owners = true) (w : Draft) : ∃ ws, ws.length ≤ 64 ∧
    s.Logs (vacate d w s) (abortLog d 6 (s.unit d) ++ [w] ++ ws) ∧
    ∀ a, s.owner a = some d → releaseEntry d a ∈ ws := by
  have howners : (enter w (abortHandover d .holderLeft s)).owners = s.owners := by
    rw [enter_owners, abortHandover_owners]
  have hw' : tableWf (enter w (abortHandover d .holderLeft s)).owners = true := by rw [howners]; exact hw
  have hlog := ((abortHandover_logs d .holderLeft s).then_enter w).trans (releaseOutside_logs (d := d) hw' 0)
  refine ⟨_, released_length (d := d) hw' 0, hlog.congr rfl rfl, fun a ha => mem_released hw' ?_ (inSet_zero a)⟩
  rw [State.owner, howners]
  exact ha

theorem promotable_some_iff {o : OpIndex} {r : OperatorRecord} : s.promotable d k = some (o, r) ↔
    (∃ nq, s.resultAt d k = some (.companion o nq)) ∧ s.operator o = some r ∧ r.role.atLeast .operator = true := by
  have hres : (s.slot d k).state.result? = s.resultAt d k := rfl
  rw [State.promotable, hres]
  cases hr : s.resultAt d k with
  | none => simp
  | some result =>
    cases result with
    | companion p nq =>
      simp only [Option.some.injEq, SignOn.companion.injEq]
      cases ho : s.operator p with
      | none =>
        constructor
        · exact fun h => by cases h
        · rintro ⟨⟨nq', rfl, -⟩, hrec, -⟩
          rw [ho] at hrec
          cases hrec
      | some q =>
        dsimp only
        constructor
        · intro h
          split at h
          · next hrole =>
            cases h
            exact ⟨⟨nq, rfl, rfl⟩, ho, hrole⟩
          · cases h
        · rintro ⟨⟨nq', rfl, -⟩, hrec, hrole⟩
          rw [ho, Option.some.injEq] at hrec
          subst hrec
          rw [if_pos hrole]
    | _ => simp

theorem present_of_result {u : DeskUnit} {r : SignOn} (h : u.result k = some r) :
    ∃ bat key issue q, (u.slot k).state = .present bat key issue q := by
  rw [DeskUnit.result] at h
  cases hst : (u.slot k).state with
  | present bat key issue q => exact ⟨bat, key, issue, q, rfl⟩
  | _ => rw [hst] at h; cases h

theorem DeskUnit.deserted_of_held {u : DeskUnit} (h : u.state = .attended k ∨ ∃ x, u.state = .handoverOpen k x) :
    u.deserted = { u with state := .vacant, due := none } := by
  rw [DeskUnit.deserted, DeskUnit.aborted]
  rcases h with h | ⟨x, h⟩ <;> rw [h]

end Vacated

section Deserted
variable {s v : State} {d : Desk} {k : SlotId} {op : OpIndex} {cause : LossCause} {left : Slot} {first : Draft}

theorem desert_out (s : State) (d : Desk) (k : SlotId) (op : OpIndex) (cause : LossCause) :
    (desert d k op cause s).inHandover d = false := by
  rw [State.inHandover, desert_unit]
  cases s.promotable d k.other <;> rfl

/-- The entries of a desertion (R93, R40, R38, R41). -/
theorem desert_logs {s : State} (hw : tableWf s.owners = true)
    (hstate : (s.unit d).state = .attended k ∨ ∃ h, (s.unit d).state = .handoverOpen k h) : ∃ ws, ws.length ≤ 129 ∧
    s.Logs (desert d k op cause s)
      (abortLog d 6 (s.unit d) ++ desertedEntry d k op cause (s.promotable d k.other) :: ws) ∧
    (∀ a, s.owner a = some d → releaseEntry d a ∈ ws) ∧
    ∀ o r, s.promotable d k.other = some (o, r) →
      { kind := .signOn, desk := some d, op := some o, d1 := some (256 * k.other.code), d2 := some 2 } ∈ ws ∧
      ∀ a, inSet (s.unit d).home a = true → inSet r.areas a = true → s.owner a = some d ∨ s.owner a = none →
        claimEntry d (some o) a ∈ ws := by
  obtain ⟨ws, hlen, hlog, hreleased⟩ := vacate_logs (d := d) hw (desertedEntry d k op cause (s.promotable d k.other))
  rw [List.append_assoc, List.singleton_append] at hlog
  rw [desert_eq]
  cases hp : s.promotable d k.other with
  | none =>
    rw [hp] at hlog
    exact ⟨ws, by omega, hlog, hreleased, fun o r h => by cases h⟩
  | some e =>
    obtain ⟨o, r⟩ := e
    rw [hp] at hlog
    have hvw := vacate_owners_wf hw d (desertedEntry d k op cause (some (o, r)))
    obtain ⟨⟨nq, hres⟩, -, -⟩ := promotable_some_iff.mp hp
    have hslot : ((vacate d (desertedEntry d k op cause (some (o, r))) s).unit d).slot k.other = (s.unit d).slot k.other := by
      rw [vacate_unit, DeskUnit.deserted_of_held hstate, DeskUnit.slot_withState]
    obtain ⟨vs, hvlen, hvlog, hclaimed⟩ := gainHolder_logs hvw (op := o) (k := k.other) r.areas 2
      (by rw [hslot]; exact present_of_result hres)
    refine ⟨ws ++ ({ kind := .signOn, desk := some d, op := some o, d1 := some (256 * k.other.code), d2 := some 2 } :: vs),
      by rw [List.length_append, List.length_cons]; omega, ?_, fun a ha => List.mem_append_left _ (hreleased a ha),
      fun o' r' h => ?_⟩
    · have := hlog.trans hvlog
      rwa [List.append_assoc, List.cons_append] at this
    · cases h
      refine ⟨List.mem_append_right _ List.mem_cons_self, fun a hhome hin hown => ?_⟩
      refine List.mem_append_right _ (List.mem_cons_of_mem _ (hclaimed a ?_ hin ?_))
      · rw [vacate_unit]
        simpa [DeskUnit.deserted] using hhome
      · rw [vacate_owner hw]
        rcases hown with h | h <;> simp [h]

/-- What a desertion leaves, routing worked out (R93, R139, R40, R38). -/
theorem deserted_of_desert
    (hstate : (v.unit d).state = .attended k ∨ ∃ h, (v.unit d).state = .handoverOpen k h)
    (hunits : ∀ e, e ≠ d → v.unit e = s.unit e) (hpoints : v.points = s.points) :
    State.Deserted d k op cause.code left first s v
      (reroute s (desert d k op cause ((enter first v).putSlot d k left))) := by
  unfold State.Deserted
  intro u emptied other promotes entry n
  let w := u.putSlot d k left
  let x := desert d k op cause w
  have hwu : w.unit d = emptied := putSlot_unit u d k left
  have hemptied : emptied.deserted = { emptied with state := .vacant, due := none } :=
    DeskUnit.deserted_of_held (by rw [show emptied.state = (v.unit d).state by simp [emptied, u]]; exact hstate)
  have hatDesk : u.AtDesk d x := (putSlot_atDesk d k left u).trans (desert_atDesk d k op cause w)
  have hxu : (reroute s x).unit d = x.unit d := reroute_unit_out s x d (desert_out w d k op cause)
  have howner : ∀ a, (reroute s x).owner a = x.owner a := fun a => by rw [State.owner, reroute_rest, State.owner]
  have hotherSlot : emptied.slot k.other = other := DeskUnit.slot_setSlot_other _ _ _
  have hpromotable : ∀ o r, w.promotable d k.other = some (o, r) ↔ promotes o r := by
    intro o r
    have hresult : w.resultAt d k.other = u.resultAt d k.other := by
      rw [resultAt_eq, hwu, resultAt_eq, DeskUnit.result_setSlot_other]
    rw [promotable_some_iff, hresult]
    exact Iff.rfl
  change State.RoutedAround d ((reroute s x).unit d) s u (reroute s x) ∧ _
  refine ⟨?_, fun hw => ?_⟩
  · rw [hxu]
    exact routedAround_of_atDesk hatDesk (fun e he => (enter_unit first v e).trans (hunits e he))
      ((enter_points first v).trans hpoints)
  · have hww : tableWf w.owners = true := hw
    have hwowner : ∀ a, w.owner a = u.owner a := fun _ => rfl
    have hwstate : (w.unit d).state = (v.unit d).state := by rw [hwu]; simp [emptied, u]
    have hin : w.inHandover d = u.inHandover d := by rw [State.inHandover, hwu, State.inHandover]; simp [emptied]
    have hhome : (w.unit d).home = (u.unit d).home := by rw [hwu]; simp [emptied]
    obtain ⟨ws, hlen, hlog, hreleased, hpromoted⟩ :=
      desert_logs (op := op) (cause := cause) hww (by rw [hwstate]; exact hstate)
    obtain ⟨rs, hrs, hrlog⟩ := reroute_logs s x
    have hlogs : w.Logs (reroute s x) (abortLog d 6 (w.unit d) ++
        desertedEntry d k op cause (w.promotable d k.other) :: (ws ++ rs)) := by
      simpa using hlog.trans hrlog
    have habort : (abortLog d 6 (w.unit d)).length ≤ 1 := by
      rw [abortLog_length]
      split <;> omega
    have hfirst : v.Logs (reroute s x) (first :: (abortLog d 6 (w.unit d) ++
        desertedEntry d k op cause (w.promotable d k.other) :: (ws ++ rs))) :=
      (State.Logs.congr (.enter first v) rfl rfl : v.Logs w [first]).trans hlogs
    have hshort : (abortLog d 6 (w.unit d) ++
        desertedEntry d k op cause (w.promotable d k.other) :: (ws ++ rs)).length ≤ 2000 := by
      simp only [List.length_append, List.length_cons]
      omega
    have hmem : ∀ y ∈ ws, ∃ m, (reroute s x).records m y := fun y hy => hlogs.records_of_mem (by omega)
      (List.mem_append_right _ (List.mem_cons_of_mem _ (List.mem_append_left _ hy)))
    have hentry : (reroute s x).records n (desertedEntry d k op cause (w.promotable d k.other)) := by
      have hat : (reroute s x).records _ (desertedEntry d k op cause (w.promotable d k.other)) :=
        hlogs.records_getElem? (i := (abortLog d 6 (w.unit d)).length) (by omega) (by simp)
      have hn : u.nextSeq + BitVec.ofNat 32 (abortLog d 6 (w.unit d)).length = n := by
        rw [abortLog_length, show (w.unit d).state.handover?.isSome = u.inHandover d from hin]
        simp only [n]
        split
        · rfl
        · exact BitVec.add_zero _
      exact hn ▸ hat
    refine ⟨hfirst.records_head (by omega), fun h hh => ?_, fun a ha => hmem _ (hreleased a ha), fun hnone => ?_,
      fun o r hp => ?_⟩
    · have habortLog : abortLog d 6 (w.unit d) = [{ kind := .handoverAbort, desk := some d, op := some h.outgoing,
                                                    d1 := some 6, d2 := some h.carried.length }] := by
        rw [abortLog, hwstate, ← enter_unit first v, hh]
      rw [habortLog] at hlogs hshort
      exact hlogs.records_head (by
        rw [List.singleton_append, List.length_cons] at hshort
        change (_ :: (ws ++ rs)).length < 2048
        omega)
    · have hpnone : w.promotable d k.other = none := by
        cases hp : w.promotable d k.other with
        | none => rfl
        | some e => exact absurd ((hpromotable e.1 e.2).mp hp) (hnone e.1 e.2)
      have hunit : (reroute s x).unit d = { emptied with state := .vacant, due := none } := by
        rw [hxu, desert_unit, hpnone, hwu, ← hemptied]
      refine ⟨hunit, ?_, ?_, fun a => ?_⟩
      · rw [State.holder, hunit]
        rfl
      · rw [hpnone] at hentry
        exact hentry
      · rw [howner, desert_owner hww, hpnone] <;> rfl
    · have hp' := (hpromotable o r).mpr hp
      obtain ⟨hsignOn, hclaimed⟩ := hpromoted o r hp'
      obtain ⟨⟨nq, hres⟩, -, -⟩ := hp
      have hown : ∀ a, (reroute s x).owner a = if (u.owner a = some d ∨ u.owner a = none) then
          (if inSet (u.unit d).home a = true ∧ inSet r.areas a = true then some d else none) else u.owner a := by
        intro a
        rw [howner, desert_owner hww, hp']
        simp only [hwowner, hhome]
      have hunit : (reroute s x).unit d = (w.unit d).deserted.held k.other o := by rw [hxu, desert_unit, hp']
      refine ⟨?_, ?_, ?_, hmem _ hsignOn, fun a hun hta => ?_, hown⟩
      · rw [hunit, hwu, hemptied, DeskUnit.held, DeskUnit.withResult, DeskUnit.slot_withState, hotherSlot,
          DeskUnit.setSlot_withState]
      · refine held_holder hunit ?_
        rw [hwu, hemptied, DeskUnit.slot_withState, hotherSlot]
        exact present_of_result hres
      · rw [hp'] at hentry
        exact hentry
      · rw [hown, if_pos hun] at hta
        split at hta
        · next hset => exact hmem _ (hclaimed a (hhome ▸ hset.1) hset.2 hun)
        · cases hta

end Deserted

/-! ### The key of a signed-on operator drawn -/

section Drawn
variable {s : State} {d : Desk} {k : SlotId} {c : Contact} {r : SignOn}

/-- A slot out of which a key has been drawn half way. -/
def Slot.drawn (v : Slot) (c : Contact) : Slot :=
  { pins := v.pins.set c false, contacts := v.contacts.set c false, state := .oneContact }

theorem enter_putSlot (w : Draft) (s : State) (d : Desk) (k : SlotId) (v : Slot) :
    (enter w s).putSlot d k v = enter w (s.putSlot d k v) := by
  rw [State.putSlot, enter_unit, enter_putUnit]
  rfl

theorem present_of_resultAt (h : s.resultAt d k = some r) : ∃ bat key issue, (s.slot d k).state = .present bat key issue r := by
  rw [State.resultAt] at h
  cases hst : (s.slot d k).state with
  | present bat key issue q =>
    rw [hst] at h
    cases h
    exact ⟨bat, key, issue, rfl⟩
  | _ => rw [hst] at h; cases h

/-- The holder's key lost outside HANDOVER_REVIEW is a desertion (R93, R139). -/
theorem loseKey_holder {op : OpIndex} {cause : LossCause}
    (h : (s.unit d).state = .attended k ∨ ∃ x, (s.unit d).state = .handoverOpen k x) :
    loseKey d k (.holder op) cause s = desert d k op cause s := by
  unfold loseKey
  dsimp only
  split
  · next hst =>
    rw [hst] at h
    rcases h with h | ⟨x, h⟩ <;> cases h
  · rfl

/-- A signed-on key is drawn: KEY_OUT, then what the desk unit does, then routing (R75, R37). -/
theorem exec_contactOpen_present (hw : s.works = true) (hget : (s.slot d k).contacts.get c = true)
    (hres : s.resultAt d k = some r) : exec (.contactOpen d k c) s = .next (reroute s (loseKey d k r .removal
      ((enter (keyOut d k 2 (some r)) s).putSlot d k ((s.slot d k).drawn c)))) := by
  obtain ⟨bat, key, issue, hst⟩ := present_of_resultAt hres
  rw [exec_contactOpen hw hget, hst, enter_putSlot]
  rfl

end Drawn

/-- Settles O23. -/
theorem desertionByRemoval : Obligations.DesertionByRemoval := by
  intro s d k c op hw hget hres hstate
  refine ⟨_, exec_contactOpen_present hw hget hres, ?_⟩
  have hentry : keyOut d k 2 (some (.holder op)) = { kind := .keyOut, desk := some d, op := some op,
                                                     d1 := some (256 * k.code + 2), d2 := some 0 } := rfl
  rw [loseKey_holder (by rw [putSlot_unit, DeskUnit.setSlot_state, enter_unit]; exact hstate), hentry]
  exact deserted_of_desert (s := s) (v := s) (cause := .removal) (left := (s.slot d k).drawn c) hstate (fun _ _ => rfl) rfl

end Sys2Proof.Machine
end

section
/-! PROOFS. A holder gained at sign-on (O27), and a key drawn in HANDOVER_REVIEW (O24). -/

namespace Sys2Proof.Machine

section Seated
variable {s : State} {d : Desk} {k : SlotId} {bat : Battery} {record : SixBytes} {op : OpIndex} {r : OperatorRecord}

theorem seated_unit (result : SignOn) : (s.seated d k bat record result).unit d = (s.unit d).setSlot k
    { s.slot d k with state := .present bat (recordKey record) record.b3 result } := by
  rw [State.seated, State.putSlotState, putSlot_unit, enter_unit, enter_slot]

theorem acceptKey_vacant (hst : (s.unit d).state = .vacant) (hrole : r.role.atLeast .operator = true) :
    acceptKey d k op r (s.seated d k bat record (.refused .unknownKey)) =
      gainHolder d k op r.areas 0 (s.seated d k bat record (.refused .unknownKey)) := by
  rw [acceptKey, seated_state, hst]
  exact if_pos hrole

theorem seated_logs (result : SignOn) : s.Logs (s.seated d k bat record result)
    [{ kind := .keyIn, desk := some d, d1 := some (256 * k.code + (recordKey record).toNat / 65536)
       d2 := some ((recordKey record).toNat % 65536) }] :=
  (State.Logs.enter _ s).congr rfl rfl

end Seated

/-- Settles O27. -/
theorem signOnGainsHolder : Obligations.SignOnGainsHolder := by
  intro s d k record bat n last op r hw hst hj hrec hissue hlocked hwindow hwhere hvacant hrole howf
  let y := s.seated d k bat record (.refused .unknownKey)
  let x := gainHolder d k op r.areas 0 y
  have hexec : exec (.readComplete d k record) s = .next (reroute s x) := by
    rw [exec_readComplete hw, readComplete_valid hst hj, signOnCheck_record hst hrec, if_neg (by simp [hissue]),
      if_neg (by simp [hlocked]), if_neg (by simp [hwindow]), if_neg (by simp [hwhere]), acceptKey_vacant hvacant hrole]
  have hyu : y.unit d = _ := seated_unit (.refused .unknownKey)
  have hslot : (y.unit d).slot k = { s.slot d k with state := .present bat (recordKey record) record.b3 (.refused .unknownKey) } := by
    rw [hyu, DeskUnit.slot_setSlot_self]
  have hseated : ∃ bat key issue q, ((y.unit d).slot k).state = .present bat key issue q :=
    ⟨bat, recordKey record, record.b3, _, by rw [hslot]⟩
  have hxunit : x.unit d = (y.unit d).held k op := gainHolder_unit y d k op r.areas 0
  have hunit : (reroute s x).unit d = (y.unit d).held k op := by
    rw [reroute_unit_out s x d (by rw [State.inHandover, hxunit]; rfl), hxunit]
  have hatDesk : s.AtDesk d x := (seated_atDesk _).trans (gainHolder_atDesk d k op r.areas 0 y)
  have hyw : tableWf y.owners = true := by rw [seated_owners]; exact howf
  have hyowner : ∀ a, y.owner a = s.owner a := fun a => by rw [State.owner, seated_owners, State.owner]
  have hhome : (y.unit d).home = (s.unit d).home := by rw [hyu]; exact DeskUnit.setSlot_home _ _ _
  have howner : ∀ a, (reroute s x).owner a = if s.owner a = none ∧ inSet (s.unit d).home a = true ∧
      inSet r.areas a = true then some d else s.owner a := by
    intro a
    rw [State.owner, reroute_rest]
    refine (gainHolder_owner hyw d k op r.areas 0 a).trans ?_
    rw [hyowner, hhome]
  obtain ⟨ws, hlen, hlog, hclaimed⟩ := gainHolder_logs hyw (op := op) r.areas 0 hseated
  obtain ⟨rs, hrs, hrlog⟩ := reroute_logs s x
  have hlogs := ((seated_logs (s := s) (d := d) (k := k) (bat := bat) (record := record) (.refused .unknownKey)).trans hlog).trans
    hrlog
  have hshort : ws.length + rs.length ≤ 90 := by omega
  refine ⟨_, hexec, ?_, ?_, held_holder hunit hseated, ?_, ?_, fun a hnone hgot => ?_, howner⟩
  · rw [hunit, ← hxunit]
    exact routedAround_of_atDesk hatDesk (fun _ _ => rfl) rfl
  · rw [hunit, DeskUnit.held, DeskUnit.withResult, hslot, hyu, DeskUnit.setSlot_setSlot]
    rfl
  · exact hlogs.records_head (by simp; omega)
  · have := hlogs.records_getElem? (i := 1) (by simp; omega) rfl
    exact this
  · rw [howner] at hgot
    split at hgot
    · next h =>
      obtain ⟨-, hin, hset⟩ := h
      refine hlogs.records_of_mem (by simp; omega) (List.mem_append_left _ (List.mem_append_right _
        (List.mem_cons_of_mem _ (hclaimed a (hhome ▸ hin) hset (by rw [hyowner, hnone])))))
    · rw [hnone] at hgot
      cases hgot

end Sys2Proof.Machine
end

section
/-! PROOFS. A forced takeover and its re-alarms; a key drawn in HANDOVER_REVIEW (O24). -/

namespace Sys2Proof.Machine

theorem tableGet_put_ne {n : Nat} {α : Type} (t : Table n α) {i j : Fin n} (v : α) (h : j ≠ i) :
    tableGet (tablePut t i v) j = tableGet t j := by
  induction t with
  | nil => simp [tablePut, tableGet, Ne.symm h]
  | cons e rest ih =>
    obtain ⟨k, w⟩ := e
    simp only [tablePut]
    split
    · simp [tableGet, Ne.symm h]
    · split
      · next hik => simp [tableGet, Ne.symm h, ← hik]
      · simp only [tableGet, ih]

/-- The fields an entry touches. -/
theorem enter_fields (w : Draft) (s : State) : enter w s = { s with
    journal := (enter w s).journal, nextSeq := (enter w s).nextSeq, attention := (enter w s).attention
    links := (enter w s).links } := by
  obtain ⟨pending, n0, n1, h⟩ := enter_eq w s
  rw [h]

/-! ### One re-alarm -/

section Realarm
variable {s : State} {d : Desk} {x : Tag} {p : Point} {τ : Word32}

/-- The record a forced re-alarm at a desk makes of a point, if it re-alarms it (R14, R140). -/
def State.realarmOf (s : State) (d : Desk) (p : Point) : Option Point :=
  match p.state with
  | .acked τ => if p.base ≤ 3 then
      some { p with state := .unack τ, effective := p.escalatedNow s.runSeconds
                    silenced := decide (p.base = 3) && (s.loadOf (.desk d)).flood } else none
  | _ => none

/-- The weight a forced re-alarm of a point adds (R55). -/
def realarmWeight : Option Point → Nat
  | some p =>
    match p.state with
    | .acked _ => if p.base = 1 then 4 else if p.base = 2 then 2 else if p.base = 3 then 1 else 0
    | _ => 0
  | none => 0

/-- The STATE entry of a re-alarmed point. -/
def realarmEntry (d : Desk) (x : Tag) : Draft := { kind := .state, desk := some d, tag := some x, d1 := some 2, d2 := some 1 }

theorem realarmOf_acked (hst : p.state = .acked τ) (hb : p.base ≤ 3) : s.realarmOf d p = some { p with
    state := .unack τ
    effective := if p.step = 0 then p.base else max 1 (p.base - (s.runSeconds - τ).toNat / 60 / p.step)
    silenced := decide (p.base = 3) && (s.loadOf (.desk d)).flood } := by
  rw [State.realarmOf, hst]
  simp only [if_pos hb, Point.escalatedNow, Point.age, hst, PointState.activation?, escalated, since]

theorem realarmWeight_none (h : s.realarmOf d p = none) : realarmWeight (some p) = 0 := by
  rw [State.realarmOf] at h
  rw [realarmWeight]
  cases hst : p.state with
  | acked τ =>
    rw [hst] at h
    have hb : ¬ p.base ≤ 3 := fun hb => by simp [hb] at h
    simp only
    rw [if_neg (by omega), if_neg (by omega), if_neg (by omega)]
  | _ => rfl

/-- A re-alarm of a point that it takes up (R14, R55). -/
theorem forcedRealarm_some {q : Point} (hout : s.inHandover d = false) (hp : s.point x = some p)
    (hq : s.realarmOf d p = some q) :
    forcedRealarm d x s = enter (realarmEntry d x)
      ((s.putLoad (.desk d) { s.loadOf (.desk d) with
        w := min 255 ((s.loadOf (.desk d)).w + realarmWeight (some p)) }).putPoint x q) := by
  rw [State.realarmOf] at hq
  rw [forcedRealarm, hp]
  cases hst : p.state with
  | acked τ =>
    rw [hst] at hq
    simp only at hq
    split at hq
    · next hb =>
      have hweight : realarmWeight (some p) = arrivalWeight p.base := by
        rw [realarmWeight, hst]
        obtain h | h | h | h : p.base = 0 ∨ p.base = 1 ∨ p.base = 2 ∨ p.base = 3 := by omega
        all_goals rw [h]; rfl
      have hcode : p.state.code = 2 := by rw [hst]; rfl
      simp only [hst, if_pos hb]
      rw [arriveAt_eq (new := { p with state := .unack τ, effective := p.escalatedNow s.runSeconds }) (τ := τ) rfl
        (by rw [hcode]; decide) hb, hweight, tellTarget]
      rw [tellDesk_out (by rw [State.inHandover, enter_unit]; exact hout)]
      cases hq
      rw [hcode]
      rfl
    · cases hq
  | _ => rw [hst] at hq; cases hq

theorem forcedRealarm_none (h : (s.point x).bind (s.realarmOf d) = none) : forcedRealarm d x s = s := by
  rw [forcedRealarm]
  cases hp : s.point x with
  | none => rfl
  | some p =>
    rw [hp, Option.bind_some, State.realarmOf] at h
    cases hst : p.state with
    | acked τ =>
      rw [hst] at h
      have hb : ¬ p.base ≤ 3 := fun hb => by simp [hb] at h
      simp only [if_neg hb, hst]
    | _ => simp only [hst]

end Realarm

/-! ### Several re-alarms -/

/-- From `s` to `t` the points of some tags have been re-alarmed at desk `d`, those in ACKED of base priority 1 to 3, and
nothing else has happened (R14, R55, R140). -/
structure State.Realarmed (d : Desk) (tags : List Tag) (s t : State) : Prop where
  rest : t = { s with points := t.points, load := t.load, journal := t.journal, nextSeq := t.nextSeq
                      attention := t.attention, links := t.links }
  loads : ∀ x, x ≠ .desk d → t.loadOf x = s.loadOf x
  flood : (t.loadOf (.desk d)).flood = (s.loadOf (.desk d)).flood
  weight : tags.Nodup → (s.loadOf (.desk d)).w ≤ 255 → t.loadOf (.desk d) = { s.loadOf (.desk d) with
    w := min 255 ((s.loadOf (.desk d)).w + (tags.map fun x => realarmWeight (s.point x)).sum) }
  kept : ∀ x, x ∉ tags ∨ (s.point x).bind (s.realarmOf d) = none → t.point x = s.point x
  alarmed : ∀ x ∈ tags, ∀ q, (s.point x).bind (s.realarmOf d) = some q → t.point x = some q
  logs : ∃ ws, ws.length ≤ tags.length ∧ s.Logs t ws ∧
    ∀ x ∈ tags, (s.point x).bind (s.realarmOf d) ≠ none → realarmEntry d x ∈ ws

section Several
variable {s t u : State} {d : Desk} {x : Tag} {tags : List Tag}

theorem State.Realarmed.refl (d : Desk) (s : State) : State.Realarmed d [] s s :=
  ⟨rfl, fun _ _ => rfl, rfl, fun _ h => by simp [Nat.min_eq_right h], fun _ _ => rfl, by simp, [], by simp, .refl s, by simp⟩

theorem State.Realarmed.runSeconds (h : State.Realarmed d tags s t) : t.runSeconds = s.runSeconds := by rw [h.rest]

theorem State.Realarmed.unit (h : State.Realarmed d tags s t) (e : Desk) : t.unit e = s.unit e := by
  have hdesks : t.desks = s.desks := by rw [h.rest]
  rw [State.unit, hdesks, State.unit]

theorem State.Realarmed.realarmOf (h : State.Realarmed d tags s t) : t.realarmOf d = s.realarmOf d := by
  funext p
  simp only [State.realarmOf, h.runSeconds, h.flood]

/-- A re-alarmed record is not re-alarmed again. -/
theorem realarmOf_again {p q : Point} (h : s.realarmOf d p = some q) : s.realarmOf d q = none := by
  rw [State.realarmOf] at h
  cases hst : p.state with
  | acked τ =>
    rw [hst] at h
    simp only at h
    split at h
    · cases h
      rfl
    · cases h
  | _ => rw [hst] at h; cases h

theorem realarmed_one (hout : s.inHandover d = false) (x : Tag) : State.Realarmed d [x] s (forcedRealarm d x s) := by
  cases hq : (s.point x).bind (s.realarmOf d) with
  | none =>
    rw [forcedRealarm_none hq]
    have hweight : realarmWeight (s.point x) = 0 := by
      cases hp : s.point x with
      | none => rfl
      | some p =>
        rw [hp] at hq
        exact realarmWeight_none hq
    refine ⟨rfl, fun _ _ => rfl, rfl, fun _ h => ?_, fun _ _ => rfl, fun y hy q hq' => ?_, [], by simp, .refl s,
      fun y hy hne => ?_⟩
    · simp [hweight, Nat.min_eq_right h]
    · rw [List.mem_singleton.mp hy, hq] at hq'
      cases hq'
    · rw [List.mem_singleton.mp hy, hq] at hne
      exact absurd rfl hne
  | some q =>
    obtain ⟨p, hp, hpq⟩ := Option.bind_eq_some_iff.mp hq
    rw [forcedRealarm_some hout hp hpq]
    let v := (s.putLoad (.desk d) { s.loadOf (.desk d) with
        w := min 255 ((s.loadOf (.desk d)).w + realarmWeight (some p)) }).putPoint x q
    have hload : ∀ y, (enter (realarmEntry d x) v).loadOf y = (s.putLoad (.desk d) { s.loadOf (.desk d) with
        w := min 255 ((s.loadOf (.desk d)).w + realarmWeight (some p)) }).loadOf y := fun y => enter_loadOf _ v y
    have hpoint : ∀ y, (enter (realarmEntry d x) v).point y = tableGet (tablePut s.points x q) y := fun y => by
      rw [State.point, enter_points]
      rfl
    refine ⟨?_, fun y hy => ?_, ?_, fun _ _ => ?_, fun y hy => ?_, fun y hy q' hq' => ?_, [realarmEntry d x], by simp,
      .enter_after rfl rfl, by simp⟩
    · rw [enter_points, enter_load]
      exact enter_fields (realarmEntry d x) v
    · rw [hload, State.loadOf_putLoad, if_neg hy]
    · rw [hload, State.loadOf_putLoad_self]
    · rw [hload, State.loadOf_putLoad_self]
      simp [hp]
    · have hne : y ≠ x := by
        rcases hy with hy | hy
        · simpa using hy
        · rintro rfl
          rw [hq] at hy
          cases hy
      rw [hpoint, tableGet_put_ne _ _ hne, State.point]
    · obtain rfl : y = x := by simpa using hy
      rw [hq] at hq'
      rw [hpoint, tableGet_put_self, hq']

theorem State.Realarmed.cons (h : State.Realarmed d [x] s t) (k : State.Realarmed d tags t u) :
    State.Realarmed d (x :: tags) s u := by
  have hof := h.realarmOf
  have hpoint : ∀ y, y ≠ x → t.point y = s.point y := fun y hy => h.kept y (.inl (by simpa using hy))
  obtain ⟨ws, hws, hlog, hmem⟩ := h.logs
  obtain ⟨vs, hvs, hlog', hmem'⟩ := k.logs
  refine ⟨?_, fun y hy => (k.loads y hy).trans (h.loads y hy), k.flood.trans h.flood, fun hnodup hw => ?_, fun y hy => ?_,
    fun y hy q hq => ?_, ws ++ vs, ?_, hlog.trans hlog', fun y hy hq => ?_⟩
  · have h1 := h.rest
    have h2 := k.rest
    rw [h1] at h2
    exact h2
  · obtain ⟨hx, htags⟩ := List.nodup_cons.mp hnodup
    have hfirst := h.weight (by simp) hw
    have hsum : (tags.map fun y => realarmWeight (t.point y)) = tags.map fun y => realarmWeight (s.point y) :=
      List.map_congr_left fun y hy => by rw [hpoint y (fun heq => hx (heq ▸ hy))]
    rw [k.weight htags (by rw [hfirst]; simp only; omega), hfirst, hsum]
    simp only [List.map_cons, List.map_nil, List.sum_cons, List.sum_nil, Load.mk.injEq, and_true]
    omega
  · have hkept : y ∉ [x] ∨ (s.point y).bind (s.realarmOf d) = none := by
      rcases hy with hy | hy
      · exact .inl fun h => hy (List.mem_singleton.mp h ▸ List.mem_cons_self)
      · exact .inr hy
    rw [k.kept y ?_, h.kept y hkept]
    rcases hy with hy | hy
    · exact .inl fun h => hy (List.mem_cons_of_mem _ h)
    · exact .inr (by rw [h.kept y (.inr hy), hof]; exact hy)
  · by_cases hyx : y = x
    · have ht := h.alarmed y (by simp [hyx]) q hq
      rw [k.kept y (.inr ?_), ht]
      obtain ⟨p, -, hpq⟩ := Option.bind_eq_some_iff.mp hq
      rw [ht, Option.bind_some, hof, realarmOf_again hpq]
    · refine k.alarmed y ((List.mem_cons.mp hy).resolve_left hyx) q ?_
      rw [hpoint y hyx, hof, hq]
  · simp only [List.length_append, List.length_cons, List.length_nil] at *
    omega
  · by_cases hyx : y = x
    · exact List.mem_append_left _ (hmem y (by simp [hyx]) hq)
    · refine List.mem_append_right _ (hmem' y ((List.mem_cons.mp hy).resolve_left hyx) ?_)
      rw [hpoint y hyx, hof]
      exact hq

/-- Points are re-alarmed one after the other at a desk in no handover. -/
theorem foldl_forcedRealarm (tags : List Tag) (hout : s.inHandover d = false) :
    State.Realarmed d tags s (tags.foldl (fun s' t => forcedRealarm d t s') s) := by
  induction tags generalizing s with
  | nil => exact .refl d s
  | cons x tags ih =>
    have hfirst := realarmed_one hout x
    exact hfirst.cons (ih (by rw [State.inHandover, hfirst.unit]; exact hout))

end Several

end Sys2Proof.Machine
end

section
/-! PROOFS. A key drawn in HANDOVER_REVIEW, settled (O24). -/

namespace Sys2Proof.Machine

section TakenOver
variable {s v : State} {d : Desk} {k : SlotId} {inc : OpIndex} {h : Handover} {cause : LossCause} {left : Slot} {first : Draft}

theorem noted_eq (entries : List Carried) :
    noted entries = (entries.filter (fun e => !e.briefed && decide (e.standing = .acked))).map (·.tag) := by
  rw [noted, unbriefed, List.filter_filter]
  simp only [Bool.and_comm]

theorem takeOver_logs (w : Draft) : s.Logs (takeOver d k inc w s) [w] :=
  State.Logs.congr (t := enter w (s.setResult d k.other (.holder inc))) (.enter_after rfl rfl) rfl rfl

/-- What a forced takeover leaves (R140, R14, R55). -/
theorem takenOver_of_forced (hres : v.resultAt d k.other = some (.incoming inc)) :
    State.TakenOver d k cause.code left h inc first v
      (forcedTakeover d k h inc cause ((enter first v).putSlot d k left)) := by
  unfold State.TakenOver
  intro u other ld notes weight
  rw [forcedTakeover_eq]
  let w := u.putSlot d k left
  let x := takeOver d k inc (forcedEntry d h inc cause) w
  have hxunit : x.unit d = (w.unit d).held k.other inc := takeOver_unit d k inc _ w
  have hatDesk : u.AtDesk d x := (putSlot_atDesk d k left u).trans (takeOver_atDesk d k inc _ w)
  have hwslot : (w.unit d).slot k.other = other := by
    rw [putSlot_unit, DeskUnit.slot_setSlot_other]
    rfl
  have hr : State.Realarmed d (noted h.carried) x ((noted h.carried).foldl (fun s' t => forcedRealarm d t s') x) :=
    foldl_forcedRealarm _ (by rw [State.inHandover, hxunit]; rfl)
  have hnoted : noted h.carried = notes.map (·.tag) := noted_eq h.carried
  have hpoint : ∀ y, x.point y = u.point y := fun y => by rw [State.point, hatDesk.points, State.point]
  have hload : ∀ y, x.loadOf y = u.loadOf y := fun y => by rw [State.loadOf, hatDesk.load, State.loadOf]
  have hseconds : x.runSeconds = u.runSeconds := hatDesk.runSeconds
  have hmem : ∀ e ∈ notes, e.tag ∈ noted h.carried := fun e he => by
    rw [hnoted]
    exact List.mem_map_of_mem he
  have hlen : notes.length ≤ h.carried.length := List.length_filter_le _ _
  generalize (noted h.carried).foldl (fun s' t => forcedRealarm d t s') x = t at *
  obtain ⟨ws, hws, hlog, hentries⟩ := hr.logs
  have hlogs : v.Logs t (first :: forcedEntry d h inc cause :: ws) :=
    ((State.Logs.congr (.enter first v) rfl rfl : v.Logs w [first]).trans (takeOver_logs _)).trans hlog
  have hlogs' : u.Logs t (forcedEntry d h inc cause :: ws) :=
    ((State.Logs.of_eq rfl rfl : u.Logs w []).trans (takeOver_logs _)).trans hlog
  have hwlen : ws.length ≤ notes.length := by rwa [hnoted, List.length_map] at hws
  have hunit : t.unit d = (w.unit d).held k.other inc := (hr.unit d).trans hxunit
  have hresult : (u.unit d).result k.other = some (.incoming inc) := by
    rw [enter_unit]
    exact hres
  have halarm : ∀ (e : Carried) (p : Point) (τ : Word32), u.point e.tag = some p → p.state = .acked τ → p.base ≤ 3 →
      (x.point e.tag).bind (x.realarmOf d) = some { p with
        state := .unack τ
        effective := if p.step = 0 then p.base else max 1 (p.base - (u.runSeconds - τ).toNat / 60 / p.step)
        silenced := decide (p.base = 3) && ld.flood } := fun e p τ hp hst hb => by
    rw [hpoint, hp, Option.bind_some, realarmOf_acked hst hb, hseconds, hload]
  refine ⟨?_, ?_, ?_, fun e he => (hr.unit e).trans (hatDesk.others e he), fun y hy => (hr.loads y hy).trans (hload y),
    fun hnodup hw => ?_, fun hshort => ⟨hlogs.records_head (by simp; omega), ?_⟩, fun _ => ⟨fun y hy => ?_,
    fun e he p τ hp hst hb => ⟨?_, fun hshort => ?_⟩⟩⟩
  · have hx := hatDesk.rest
    have howners : x.owners = u.owners := takeOver_owners d k inc _ w
    have hdesks : t.desks = x.desks := by rw [hr.rest]
    have ht := hr.rest
    rw [howners] at hx
    rw [hdesks]
    rw [hx] at ht
    exact ht
  · exact held_holder hunit (by rw [hwslot]; exact present_of_result (u := u.unit d) (r := .incoming inc) hresult)
  · rw [hunit, DeskUnit.held, DeskUnit.withResult, hwslot, putSlot_unit]
  · have hsum : (noted h.carried).map (fun y => realarmWeight (x.point y)) = notes.map weight := by
      rw [hnoted, List.map_map]
      refine List.map_congr_left fun e _ => ?_
      rw [Function.comp_apply, hpoint]
      rfl
    rw [hr.weight ?_ (by rw [hload]; exact hw), hsum, hload]
    rw [hnoted]
    exact hnodup.sublist (List.filter_sublist.map _)
  · have hforced := hlogs'.records_head (by omega)
    rw [forcedEntry, hnoted, List.length_map] at hforced
    exact hforced
  · rw [hr.kept y (.inl ?_), hpoint]
    rw [hnoted, List.mem_map]
    rintro ⟨e, he, rfl⟩
    exact hy e he rfl
  · exact hr.alarmed e.tag (hmem e he) _ (halarm e p τ hp hst hb)
  · exact hlogs.records_of_mem (by simp; omega) (List.mem_cons_of_mem _ (List.mem_cons_of_mem _
      (hentries e.tag (hmem e he) (by rw [halarm e p τ hp hst hb]; simp))))

/-- A takeover changes no routing (R36). -/
theorem reroute_takenOver {t : State} {n : Nat} (ht : State.TakenOver d k n left h inc first v t) {hk : SlotId}
    {x : Handover} {i : OpIndex} (hst : (v.unit d).state = .handoverReview hk x i) : reroute v t = t := by
  unfold State.TakenOver at ht
  obtain ⟨hrest, -, hunit, hothers, -⟩ := ht
  have howners : t.owners = v.owners := by rw [hrest]; exact enter_owners first v
  have hsupervisor : t.supervisor = v.supervisor := by rw [hrest]; exact enter_supervisor first v
  have hcommand : t.command = v.command := by rw [hrest]; exact enter_command first v
  refine reroute_same howners.symm hsupervisor.symm (isLocal_congr hcommand.symm) fun e => ?_
  rw [State.hasHolder, State.hasHolder]
  by_cases he : e = d
  · rw [he, hunit, hst]
    rfl
  · rw [hothers e he, enter_unit]

end TakenOver

/-- The incoming operator's key lost (R124). -/
theorem incomingLeaves_review {s : State} {d : Desk} {hk k : SlotId} {h : Handover} {inc : OpIndex}
    (hst : (s.unit d).state = .handoverReview hk h inc) (cause : Nat) : incomingLeaves d k cause s =
      enter { kind := .incoming, desk := some d, op := some inc, d1 := some (256 * k.code + cause)
              d2 := some (h.carried.filter (·.briefed)).length }
        (s.putDeskState d (.handoverOpen hk { h with carried := h.carried.map (fun e => { e with briefed := false }) })) := by
  rw [incomingLeaves, hst]
  rfl

theorem loseKey_review {s : State} {d : Desk} {k : SlotId} {op inc : OpIndex} {h : Handover} {cause : LossCause}
    (hst : (s.unit d).state = .handoverReview k h inc) :
    loseKey d k (.holder op) cause s = forcedTakeover d k h inc cause s := by
  unfold loseKey
  dsimp only
  split
  · next h1 =>
    rw [hst] at h1
    cases h1
    rfl
  · next hno => exact absurd hst (hno _ _ _)

/-- Settles O24. -/
theorem handoverKeysDrawn : Obligations.HandoverKeysDrawn := by
  refine ⟨fun s d k c op inc h hw hget hres hst hinc => ?_, fun s d k c inc h hw hget hinc hst => ?_⟩
  · intro sl left
    have hentry : keyOut d k 2 (some (.holder op)) = { kind := .keyOut, desk := some d, op := some op,
                                                       d1 := some (256 * k.code + 2), d2 := some 0 } := rfl
    have htaken := takenOver_of_forced (h := h) (cause := .removal) (left := left)
      (first := keyOut d k 2 (some (.holder op))) (v := s) hinc
    have hexec := exec_contactOpen_present hw hget hres
    rw [loseKey_review (by rw [putSlot_unit, DeskUnit.setSlot_state, enter_unit]; exact hst)] at hexec
    refine ⟨_, hexec, ?_⟩
    have hsame := reroute_takenOver htaken hst
    rw [← hentry]
    exact hsame.symm ▸ htaken
  · intro sl
    rw [exec_contactOpen_present hw hget hinc]
    refine congrArg Host.Outcome.next ?_
    have hlose : ∀ u : State, loseKey d k.other (.incoming inc) .removal u = incomingLeaves d k.other 3 u := fun _ => rfl
    rw [hlose, incomingLeaves_review (hk := k) (h := h) (inc := inc)
      (by rw [putSlot_unit, DeskUnit.setSlot_state, enter_unit]; exact hst), enter_putSlot]
    refine reroute_atDesk (d := d) (((putSlot_atDesk d k.other _ s).trans (enter_atDesk d _ _)).trans
      ((putDeskState_atDesk d _ _).trans (enter_atDesk d _ _))) ?_ ?_
    · rw [enter_owners]
      exact enter_owners _ _
    · rw [enter_unit, putDeskState_unit, hst]
      rfl

end Sys2Proof.Machine
end

section
/-! PROOFS. Keys revoked, and the operator table (O28). -/

namespace Sys2Proof.Machine

/-! ### A revocation -/

section Revoked
variable {s v : State} {d : Desk} {k : SlotId} {i : OpIndex} {reason : KeyRefusal} {first : Draft}

theorem revoke_result {r : SignOn} (h : (enter first v).resultAt d k = some r) : revoke d k reason (enter first v) =
    loseKey d k r .revocation ((enter first v).putSlot d k
      { (enter first v).slot d k with state := ((enter first v).slot d k).state.setResult (.refused reason) }) :=
  revoke_eq h reason

/-- Work that keeps the owners and whether the desk has a holder, in a state with the targets of the state before. -/
theorem reroute_atDesk_from {t : State} (htarget : ∀ a, s.target a = v.target a) (h : v.AtDesk d t)
    (howners : t.owners = v.owners) (hholder : (t.unit d).state.hasHolder = (v.unit d).state.hasHolder) :
    reroute s t = t := by
  rw [reroute_before_congr htarget, reroute_atDesk h howners hholder]

/-- What a revocation leaves, routing worked out (R85, R76). -/
theorem revoked_of_revoke (htarget : ∀ a, s.target a = v.target a) (hunits : ∀ e, v.unit e = s.unit e)
    (hpoints : v.points = s.points) :
    State.Revoked d k i reason first s v (reroute s (revoke d k reason (enter first v))) := by
  unfold State.Revoked
  intro u left
  have hvu : ∀ e, u.unit e = v.unit e := enter_unit first v
  have hstate : ((u.putSlot d k left).unit d).state = (v.unit d).state := by
    rw [putSlot_unit, DeskUnit.setSlot_state, hvu]
  have hleft : u.putSlot d k left = u.setResult d k (.refused reason) := rfl
  refine ⟨fun nq hres => ?_, fun hk h hres hst => ?_, fun hres => ⟨fun hst => ?_, fun h inc hst hinc => ?_⟩⟩
  · rw [revoke_result hres]
    change reroute s (enter _ (u.putSlot d k left)) = enter _ (u.putSlot d k left)
    refine reroute_atDesk_from (d := d) htarget (((enter_atDesk d first v).trans (putSlot_atDesk d k left u)).trans
      (enter_atDesk d _ _)) ?_ ?_
    · exact (enter_owners _ _).trans (enter_owners first v)
    · rw [enter_unit, hstate]
  · rw [hvu] at hst
    rw [revoke_result hres]
    change reroute s (incomingLeaves d k 4 (u.putSlot d k left)) = _
    rw [incomingLeaves_review (by rw [hstate, hst])]
    refine reroute_atDesk_from (d := d) htarget (((enter_atDesk d first v).trans (putSlot_atDesk d k left u)).trans
      ((putDeskState_atDesk d _ _).trans (enter_atDesk d _ _))) ?_ ?_
    · exact (enter_owners _ _).trans (enter_owners first v)
    · rw [enter_unit, putDeskState_unit, hst]
      rfl
  · rw [hvu] at hst
    rw [revoke_result hres, loseKey_holder (by rw [hstate]; exact hst)]
    exact deserted_of_desert (cause := .revocation) hst (fun e _ => hunits e) hpoints
  · rw [hvu] at hst
    rw [revoke_result hres, loseKey_review (by rw [hstate]; exact hst)]
    have htaken := takenOver_of_forced (v := v) (d := d) (k := k) (inc := inc) (h := h) (cause := .revocation) (left := left)
      (first := first) (by rw [resultAt_eq, ← hvu]; exact hinc)
    have hsame := reroute_takenOver htaken hst
    rw [reroute_before_congr htarget]
    exact hsame.symm ▸ htaken

end Revoked

/-! ### The table's commands -/

/-- The OPERATOR_CHANGED entry (R83, R84). -/
def changedEntry (i : OpIndex) (d : Option Desk) (d1 d2 : Nat) : Draft :=
  { kind := .operatorChanged, desk := d, op := some i, d1 := some d1, d2 := some d2 }

section Table
variable {s : State} {l : Link} {i : OpIndex} {ops : Table 64 OperatorRecord}

/-- The state in which the operator table has been written. -/
theorem operators_target (a : Area) : s.target a = State.target { s.listening l with operators := ops } a :=
  ((target_congr (s := { s.listening l with operators := ops }) (t := s.listening l) rfl rfl rfl (fun _ => rfl) a).trans
    (listening_target l s a)).symm

theorem operators_unit (e : Desk) : State.unit { s.listening l with operators := ops } e = s.unit e := listening_unit l s e

theorem operators_revoked {d : Desk} {k : SlotId} {reason : KeyRefusal} {first : Draft} :
    State.Revoked d k i reason first s { s.listening l with operators := ops }
      (reroute s (revoke d k reason (enter first { s.listening l with operators := ops }))) :=
  revoked_of_revoke operators_target operators_unit (listening_points l s)

/-- An entry about the operator table changes no routing. -/
theorem operators_reroute (w : Draft) : reroute s (enter w { s.listening l with operators := ops }) =
    enter w { s.listening l with operators := ops } :=
  reroute_atDesk_from (d := .d0) operators_target (enter_atDesk .d0 w _) (enter_owners w _) (by rw [enter_unit])

theorem keyTaken_listening (key : KeyNumber) : keyTaken i key (s.listening l) = keyTaken i key s := by
  simp only [keyTaken, listening_operators]

theorem keyTaken_iff (hw : tableWf s.operators = true) (key : KeyNumber) :
    keyTaken i key s = true ↔ ∃ j q, j ≠ i ∧ s.operator j = some q ∧ q.key = key := by
  simp only [keyTaken, List.any_eq_true, Bool.and_eq_true, decide_eq_true_eq]
  constructor
  · rintro ⟨⟨j, q⟩, hmem, hj, hq⟩
    exact ⟨j, q, hj, tableGet_of_mem hw hmem, hq⟩
  · rintro ⟨j, q, hj, hget, hq⟩
    exact ⟨(j, q), tableGet_mem hget, hj, hq⟩

end Table

/-- Settles O28. -/
theorem operatorTable : Obligations.OperatorTable := by
  refine ⟨fun s l tag i r x y pad hcom hr hwf hpad => ?_, fun s l tag i hcom => ⟨fun hnone => ?_, fun old hold => ⟨fun hwhere => ?_,
    fun d k hwhere => ?_⟩⟩⟩
  · intro sent
    have hread := readSetOperator_spelt i hr x y hpad
    refine ⟨fun htaken => ?_, fun hfree hwhere => ?_⟩
    · have hs : serveSetOperator (i, r) (s.listening l) = (s.listening l, .refused .duplicateKey) :=
        if_pos (by rw [keyTaken_listening]; exact (keyTaken_iff hwf r.key).mpr htaken)
      exact congrArg Host.Outcome.next (routing_served_same hcom 4 tag hread serveSetOperator hs rfl)
    · have hnot : keyTaken i r.key s = false := by
        rw [Bool.eq_false_iff, ne_eq, keyTaken_iff hwf]
        rintro ⟨j, q, hj, hget, hq⟩
        exact hfree j q hj hget hq
      have hs : serveSetOperator (i, r) (s.listening l) = accepted (enter
          (changedEntry i none (if s.operator i = none then 1 else 2) 0) { s.listening l with operators := tablePut s.operators i r }) := by
        rw [serveSetOperator, if_neg (by rw [keyTaken_listening, hnot]; decide), applySetOperator]
        rw [listening_operator, listening_whereSignedOn, hwhere, listening_operators]
        cases hold : s.operator i with
        | none => rfl
        | some old => rfl
      refine congrArg Host.Outcome.next ((routing_served hcom 4 tag hread serveSetOperator hs
        ((enter_phase _ _).trans (listening_phase l s)) rfl).trans ?_)
      rw [operators_reroute] <;> rfl
  · have hs : serveClearOperator i (s.listening l) = (s.listening l, .ok []) := by
      rw [serveClearOperator, listening_operator, hnone]
      rfl
    exact congrArg Host.Outcome.next (routing_served_same hcom 5 tag (readIndex_byte i) serveClearOperator hs rfl)
  · have hs : serveClearOperator i (s.listening l) = accepted (enter (changedEntry i none 3 0) { s.listening l with operators := tableErase s.operators i }) := by
      rw [serveClearOperator, listening_operator, hold, listening_whereSignedOn, hwhere, listening_operators]
      rfl
    refine congrArg Host.Outcome.next ((routing_served hcom 5 tag (readIndex_byte i) serveClearOperator hs
      ((enter_phase _ _).trans (listening_phase l s)) rfl).trans ?_)
    rw [operators_reroute] <;> rfl
  · have hs : serveClearOperator i (s.listening l) = accepted (revoke d k .revoked (enter (changedEntry i (some d) 3 1)
        { s.listening l with operators := tableErase s.operators i })) := by
      rw [serveClearOperator, listening_operator, hold, listening_whereSignedOn, hwhere, listening_operators]
      rfl
    exact ⟨_, congrArg Host.Outcome.next (routing_served hcom 5 tag (readIndex_byte i) serveClearOperator hs
      (((revoke_quiet d k .revoked _).phase.trans (enter_phase _ _)).trans (listening_phase l s)) rfl), operators_revoked⟩

end Sys2Proof.Machine
end

section
/-! PROOFS. SET_OPERATOR of a record that is signed on (O29). -/

namespace Sys2Proof.Machine

theorem withdrawal_revoked {old r : OperatorRecord} (h : ¬ (old.key = r.key ∧ old.issue = r.issue)) :
    withdrawal old r = some .revoked := by
  rw [withdrawal, if_pos]
  by_cases hk : old.key = r.key
  · exact .inr fun hi => h ⟨hk, hi⟩
  · exact .inl hk

theorem withdrawal_locked {old r : OperatorRecord} (h : old.key = r.key ∧ old.issue = r.issue) (hr : r.locked = true)
    (hold : old.locked = false) : withdrawal old r = some .locked := by
  rw [withdrawal, if_neg (by simp [h]), if_pos (by simp [hr, hold])]

theorem withdrawal_none {old r : OperatorRecord} (h : old.key = r.key ∧ old.issue = r.issue)
    (hkept : r.locked = true → old.locked = true) : withdrawal old r = none := by
  rw [withdrawal, if_neg (by simp [h]), if_neg (fun hl => hl.2 (hkept hl.1))]

theorem requalifies_iff (old r : OperatorRecord) : requalifies old r = true ↔ old.role ≠ r.role ∨ old.areas ≠ r.areas ∨
    old.validFrom ≠ r.validFrom ∨ old.validUntil ≠ r.validUntil := by
  simp only [requalifies, Bool.or_eq_true, decide_eq_true_eq, or_assoc]

/-- A set that has an area another has not is narrowed by it. -/
theorem narrows_of_mem {old r : OperatorRecord} {a : Area} (hin : inSet old.areas a = true) (hout : inSet r.areas a = false) :
    narrows old r = true := by
  rw [narrows, decide_eq_true_eq]
  intro hzero
  have hbit : (old.areas &&& ~~~r.areas).getLsbD a.val = true := by
    rw [inSet] at hin hout
    rw [BitVec.getLsbD_and, BitVec.getLsbD_not, hin, hout]
    simp
  rw [hzero] at hbit
  simp at hbit

section Consequence
variable {s : State} {l : Link} {tag : Byte} {i : OpIndex} {old r : OperatorRecord} {x y : Nat} {pad : List Byte} {d : Desk}
  {k : SlotId}

/-- The state in which a signed-on record is replaced. -/
def State.replaced (s : State) (l : Link) (i : OpIndex) (r : OperatorRecord) : State :=
  { s.listening l with operators := tablePut s.operators i r }

theorem consequence_ends {reason : KeyRefusal} (h : withdrawal old r = some reason) (u : State) :
    consequence d k old r u = .ends reason := by
  rw [consequence, h]

theorem consequence_stays {res : SignOn} (h : withdrawal old r = none) {u : State} (hres : u.resultAt d k = some res) :
    consequence d k old r u = match res with
      | .holder _ => if narrows old r && (u.ownedAreas d).any (fun a => !inSet r.areas a) then .releases else .nothing
      | .incoming _ => if requalifies old r && !u.qualifies d r then .disqualifies else .nothing
      | .companion _ _ | .refused _ => .nothing := by
  have hres' : (u.slot d k).state.result? = some res := hres
  rw [consequence, h]
  simp only [hres']
  cases res <;> rfl

theorem replaced_resultAt (s : State) (l : Link) (i : OpIndex) (r : OperatorRecord) :
    (s.replaced l i r).resultAt d k = s.resultAt d k := listening_resultAt l s d k

theorem replaced_qualifies (s : State) (l : Link) (i : OpIndex) (r q : OperatorRecord) :
    (s.replaced l i r).qualifies d q = s.qualifies d q :=
  qualifies_congr (listening_owners l s) (listening_mill l s) d q

theorem replaced_owner (s : State) (l : Link) (i : OpIndex) (r : OperatorRecord) (a : Area) :
    (s.replaced l i r).owner a = s.owner a := listening_owner l s a

/-- SET_OPERATOR of a signed-on record, by its consequence (R83). -/
theorem setOperator_served (hcom : s.commands l) (hr : r.Lawful) (hpad : pad.length = 12)
    (hwf : tableWf s.operators = true) (hfree : ∀ j q, j ≠ i → s.operator j = some q → q.key ≠ r.key)
    (hold : s.operator i = some old) (hwhere : s.whereSignedOn i = some (d, k)) {c : Consequence}
    (hc : consequence d k old r (s.replaced l i r) = c) {u : State}
    (hu : reroute s (applyConsequence d k i r c (enter (changedEntry i (some d) 2 c.code) (s.replaced l i r))) = u) :
    exec (.setOperator l tag (byte i.val :: r.spelt x y pad)) s = .next (u.replies l 4 tag 0 0 []) := by
  have hnot : keyTaken i r.key s = false := by
    rw [Bool.eq_false_iff, ne_eq, keyTaken_iff hwf]
    rintro ⟨j, q, hj, hget, hq⟩
    exact hfree j q hj hget hq
  have hs : serveSetOperator (i, r) (s.listening l) = accepted (applyConsequence d k i r c
      (enter (changedEntry i (some d) 2 c.code) (s.replaced l i r))) := by
    rw [serveSetOperator, if_neg (by rw [keyTaken_listening, hnot]; decide), applySetOperator]
    rw [listening_operator, listening_whereSignedOn, hwhere, listening_operators, hold, ← hc]
    rfl
  have hphase : (applyConsequence d k i r c (enter (changedEntry i (some d) 2 c.code) (s.replaced l i r))).phase = s.phase :=
    (applyConsequence_quiet d k i r c _).phase.trans ((enter_phase _ _).trans (listening_phase l s))
  rw [← hu]
  exact congrArg Host.Outcome.next (routing_served hcom 4 tag (readSetOperator_spelt i hr x y hpad) serveSetOperator hs
    hphase rfl)

end Consequence

/-- Settles O29, by the consequence of the change. -/
theorem setOperatorConsequences : Obligations.SetOperatorConsequences := by
  intro s l tag i old r x y pad d k hcom hr hpad hwf howf hfree hold hwhere sent replaced entry same kept requalified unchanged
  have hserved := fun {c : Consequence} (hc : consequence d k old r replaced = c) {u : State} =>
    setOperator_served (tag := tag) (x := x) (y := y) (u := u) hcom hr hpad hwf hfree hold hwhere hc
  have hresult : ∀ {res}, s.resultAt d k = some res → replaced.resultAt d k = some res := fun h =>
    (replaced_resultAt s l i r).trans h
  have hkept : kept → withdrawal old r = none := fun h => withdrawal_none h.1 h.2
  have hnothing : consequence d k old r replaced = .nothing → unchanged := fun hc => hserved hc (operators_reroute _)
  have hqualifies : replaced.qualifies d r = s.qualifies d r := replaced_qualifies s l i r r
  have howners : replaced.owners = s.owners := listening_owners l s
  have hrw : tableWf replaced.owners = true := by rw [howners]; exact howf
  have howner : ∀ a, replaced.owner a = s.owner a := replaced_owner s l i r
  refine ⟨fun hne => ?_, fun hsame hlocked hopen => ?_, fun nq hres hk => ?_, fun hres hk hq => ?_, fun hres hk hcovers => ?_,
    fun hk h hres hst hkeep hreq hnq => ?_, fun hres hk hnarrow => ?_⟩
  · exact ⟨_, hserved (consequence_ends (withdrawal_revoked hne) replaced) rfl, operators_revoked⟩
  · exact ⟨_, hserved (consequence_ends (withdrawal_locked hsame hlocked hopen) replaced) rfl, operators_revoked⟩
  · exact hnothing (consequence_stays (hkept hk) (hresult hres))
  · refine hnothing ((consequence_stays (hkept hk) (hresult hres)).trans (if_neg ?_))
    rw [hqualifies, Bool.and_eq_true, requalifies_iff]
    rintro ⟨hreq, hno⟩
    rcases hq with hq | hq
    · exact hq hreq
    · rw [hq] at hno
      cases hno
  · refine hnothing ((consequence_stays (hkept hk) (hresult hres)).trans (if_neg ?_))
    rw [Bool.and_eq_true, List.any_eq_true]
    rintro ⟨-, a, ha, hout⟩
    rw [hcovers a ((howner a).symm.trans ((mem_ownedAreas hrw).mp ha))] at hout
    cases hout
  · have hc : consequence d k old r replaced = .disqualifies := by
      refine (consequence_stays (hkept hkeep) (hresult hres)).trans (if_pos ?_)
      rw [hqualifies, hnq, (requalifies_iff old r).mpr hreq]
      rfl
    refine hserved hc ?_
    change reroute s (incomingLeaves d k 5 ((enter (entry 3) replaced).setResult d k (.companion i true))) = _
    have hst' : (((enter (entry 3) replaced).setResult d k (.companion i true)).unit d).state = .handoverReview hk h i := by
      rw [setResult_unit, DeskUnit.withResult_state, enter_unit]
      exact (congrArg DeskUnit.state (operators_unit d)).trans hst
    rw [incomingLeaves_review hst']
    refine reroute_atDesk_from (d := d) operators_target (((enter_atDesk d (entry 3) replaced).trans
      (setResult_atDesk d k _ _)).trans ((putDeskState_atDesk d _ _).trans (enter_atDesk d _ _))) ?_ ?_
    · exact (enter_owners _ _).trans (enter_owners (entry 3) replaced)
    · rw [enter_unit, putDeskState_unit, operators_unit, hst]
      rfl
  · have hc : consequence d k old r replaced = .releases := by
      obtain ⟨a, hown, hin, hout⟩ := hnarrow
      refine (consequence_stays (hkept hk) (hresult hres)).trans (if_pos ?_)
      rw [narrows_of_mem hin hout, Bool.true_and, List.any_eq_true]
      refine ⟨a, (mem_ownedAreas hrw).mpr ((howner a).trans hown), by rw [hout]; rfl⟩
    let u := enter (entry 2) replaced
    have huw : tableWf u.owners = true := by rw [enter_owners]; exact hrw
    have huowner : ∀ a, u.owner a = s.owner a := fun a => (enter_owner _ _ a).trans (howner a)
    have hxunit : (releaseOutside d r.areas u).unit d = s.unit d := by
      rw [releaseOutside_unit, enter_unit]
      exact operators_unit d
    have hatDesk : replaced.AtDesk d (releaseOutside d r.areas u) :=
      (enter_atDesk d (entry 2) replaced).trans (releaseOutside_atDesk d r.areas u)
    have hfirst : replaced.Logs u [entry 2] := .enter _ _
    have hreleased := releaseOutside_logs (d := d) huw r.areas
    have hlength := released_length (d := d) huw r.areas
    obtain ⟨rs, hrs, hrlog⟩ := reroute_logs s (releaseOutside d r.areas u)
    have hlogs := hfirst.trans (hreleased.trans hrlog)
    have hseq : replaced.nextSeq = s.nextSeq := listening_nextSeq l s
    refine ⟨_, hserved hc rfl, ?_, ?_, fun a hown hout => ?_, fun hout => ?_, fun a => ?_⟩
    · rw [← hxunit]
      exact routedAround_of_atDesk hatDesk (fun e _ => operators_unit e) (listening_points l s)
    · rw [← hseq]
      exact hlogs.records_head (by simp only [List.append_eq, List.nil_append, List.length_append]; omega)
    · refine hlogs.records_of_mem (by rw [List.length_append, List.length_append, List.length_singleton]; omega)
        (List.mem_append_right _ (List.mem_append_left _ (mem_released huw ((huowner a).trans hown) hout)))
    · have hxout : (releaseOutside d r.areas u).inHandover d = false := by rw [State.inHandover, hxunit]; exact hout
      exact (reroute_unit_out s _ d hxout).trans hxunit
    · rw [State.owner, reroute_rest]
      refine (releaseOutside_owner huw d r.areas a).trans ?_
      rw [huowner]

end Sys2Proof.Machine
end

section
/-! PROOFS. SET_POINT that changes the base priority to or from 4, the area, or both (O11): what the new priority and
step do to the record and to the desk of the old area, then the placing by the new area. -/

namespace Sys2Proof.Machine

/-! ### The record under its new priority and step -/

/-- The state a point has under a new base priority: one that becomes record-only is acknowledged (R21). -/
def Point.stateUnder (p : Point) (base : Nat) : PointState :=
  if p.base ≤ 3 ∧ base = 4 then
    match p.state with
    | .unack τ => .acked τ
    | .rtnUnack _ => .normal
    | st => st
  else p.state

/-- The record SET_POINT leaves before the point is placed by its new area (R19 to R21). -/
def Point.configured (p : Point) (base step : Nat) (shelvable : Bool) (effective : Nat) : Point :=
  { p with origin := .configured, base := base, step := step, shelvable := shelvable, state := p.stateUnder base
           effective := effective, silenced := decide (base ≤ 3) && p.silenced }

/-- What the new base priority makes of the alarm that stands: the entry and the word of a point that becomes
record-only (R10, R21). -/
def State.told (u : State) (x : Target) (t : Tag) (p : Point) (base : Nat) : State :=
  let e : Draft := { kind := .state, desk := x.desk?, tag := some t }
  if p.base ≤ 3 ∧ base = 4 then
    match p.state with
    | .unack _ => tellTarget x t none (enter { e with d1 := some 1, d2 := some 2 } u)
    | .rtnUnack _ => tellTarget x t none (enter { e with d1 := some 3, d2 := some 0 } u)
    | .acked _ => tellTarget x t none u
    | .normal | .shelved _ _ => u
  else u

section Record
variable {p : Point} {base step : Nat}

theorem withBase_eq (hb : base ≤ 4) (now : Word32) :
    p.withBase now base step = { p with base := base, step := step, state := p.stateUnder base
                                        effective := (p.withBase now base step).effective } := by
  unfold Point.withBase Point.stateUnder
  by_cases hp : p.base ≤ 3
  · by_cases h3 : base ≤ 3
    · have hnot : ¬(p.base ≤ 3 ∧ base = 4) := by omega
      rw [if_pos ⟨hp, h3⟩, if_neg hnot]
      split <;> rfl
    · have hnot : ¬(p.base ≤ 3 ∧ base ≤ 3) := by omega
      have h4 : p.base ≤ 3 ∧ base = 4 := by omega
      rw [if_neg hnot, if_pos hp, if_pos h4]
      cases p.state <;> rfl
  · have hnot : ¬(p.base ≤ 3 ∧ base = 4) := by omega
    have hnot' : ¬(p.base ≤ 3 ∧ base ≤ 3) := by omega
    rw [if_neg hnot', if_neg hp, if_neg hnot]

/-- A record-only point, before or after, has its base priority as its effective one (R21). -/
theorem withBase_effective_four (h : p.base = 4 ∨ base = 4) (now : Word32) :
    (p.withBase now base step).effective = base := by
  have hnot : ¬(p.base ≤ 3 ∧ base ≤ 3) := by omega
  unfold Point.withBase
  rw [if_neg hnot]
  split
  · cases p.state <;> rfl
  · rfl

/-- The effective priority after a change (R20, R21). -/
theorem withBase_effective (hl : p.base ≤ 4) (hb : base ≤ 4) (hne : base ≠ p.base ∨ step ≠ p.step) (now : Word32) :
    (p.withBase now base step).effective =
      if p.base = 4 ∨ base = 4 then base
      else
        match p.state with
        | .unack τ | .rtnUnack τ => if step = 0 then base else max 1 (base - (now - τ).toNat / 60 / step)
        | .acked _ => max 1 (base - (p.base - p.effective))
        | .normal | .shelved _ _ => base := by
  by_cases h4 : p.base = 4 ∨ base = 4
  · rw [if_pos h4, withBase_effective_four h4]
  · rw [if_neg h4, withBase_of_changed (by omega) (by omega) hne]
    dsimp only
    cases hst : p.state with
    | unack τ => exact reprioritised_unacknowledged (.inl hst) now base step
    | rtnUnack τ => exact reprioritised_unacknowledged (.inr hst) now base step
    | acked τ => exact reprioritised_acked hst now base step
    | normal => exact reprioritised_normal hst now base step
    | shelved expiry op => exact reprioritised_shelved hst now base step

/-- A record-only point stands in no list. -/
theorem standing_of_four (h : p.base = 4) : p.standing = none := if_neg (by omega)

theorem standing_none_of_idle (h : p.state = .normal ∨ ∃ e op, p.state = .shelved e op) : p.standing = none := by
  rw [Point.standing]
  rcases h with h | ⟨e, op, h⟩ <;> rw [h] <;> exact ite_self _

theorem stateUnder_of_kept (h : ¬(p.base ≤ 3 ∧ base = 4)) : p.stateUnder base = p.state := if_neg h

theorem silenced_of_idle (hl : p.Lawful) (h : p.standing = none) : p.silenced = false := by
  obtain ⟨-, -, -, -, -, -, hsil, -⟩ := hl
  rw [h] at hsil
  simpa using hsil

/-- A change that makes no point record-only keeps the silenced field (R6). -/
theorem configured_silenced (hl : p.Lawful) (hb : base ≤ 4) (h : ¬(p.base ≤ 3 ∧ base = 4)) :
    (decide (base ≤ 3) && p.silenced) = p.silenced := by
  by_cases h3 : base ≤ 3
  · rw [decide_eq_true h3, Bool.true_and]
  · obtain ⟨-, hp4, -⟩ := id hl
    rw [silenced_of_idle hl (standing_of_four (by omega)), Bool.and_false]

end Record

/-! ### The word of it -/

section Told
variable {p : Point} {t : Tag} {u s : State} {x : Target} {base step : Nat}

theorem told_kept (h : ¬(p.base ≤ 3 ∧ base = 4)) : u.told x t p base = u := if_neg h

theorem dropCarried_hasHolder (d e : Desk) (gone : Tag → Bool) (u : State) :
    (dropCarried d gone u).hasHolder e = u.hasHolder e := by
  by_cases h : e = d
  · subst h
    simp only [State.hasHolder, dropCarried, State.mapCarried, State.putDeskState, State.unit_putUnit_self]
    exact mapHandover_hasHolder _ _
  · simp only [State.hasHolder, dropCarried, (mapCarried_atDesk d _ u).others e h]

theorem tellTarget_none_target (u : State) : (tellTarget x t none u).target = u.target := by
  cases x with
  | room => rfl
  | desk d => exact funext (target_congr rfl rfl rfl fun e => dropCarried_hasHolder d e _ u)

theorem tellTarget_none_putPoint (u : State) (q : Point) :
    (tellTarget x t none u).putPoint t q = tellTarget x t none (u.putPoint t q) := by
  cases x <;> rfl

theorem putPoint_target (u : State) (q : Point) : (u.putPoint t q).target = u.target :=
  funext (target_congr rfl rfl rfl fun _ => rfl)

/-- The word of a new priority moves no target. -/
theorem told_target : (u.told x t p base).target = u.target := by
  have htold (w : Draft) : (tellTarget x t none (enter w u)).target = u.target := by
    rw [tellTarget_none_target]
    exact funext (enter_target w u)
  unfold State.told
  dsimp only
  split
  · cases p.state with
    | unack τ => exact htold _
    | rtnUnack τ => exact htold _
    | acked τ => exact tellTarget_none_target u
    | normal => rfl
    | shelved e op => rfl
  · rfl

/-- The point may be written before the word of it or after. -/
theorem told_putPoint (q : Point) : (u.told x t p base).putPoint t q = (u.putPoint t q).told x t p base := by
  have htold (w : Draft) :
      (tellTarget x t none (enter w u)).putPoint t q = tellTarget x t none (enter w (u.putPoint t q)) := by
    rw [tellTarget_none_putPoint, enter_putPoint]
  unfold State.told
  dsimp only
  split
  · cases p.state with
    | unack τ => exact htold _
    | rtnUnack τ => exact htold _
    | acked τ => exact tellTarget_none_putPoint u q
    | normal => rfl
    | shelved e op => rfl
  · rfl

theorem told_point {q : Point} : ((u.putPoint t q).told x t p base).point t = some q := by
  rw [← told_putPoint, State.point_putPoint_self]

/-- The change of priority and step is the record written and the word of it (R19 to R21). -/
theorem changePoint_told (hl : p.Lawful) (hb : base ≤ 4) (shelvable : Bool) (now : Word32) :
    changePoint t p { p.withBase now base step with origin := .configured, shelvable := shelvable } s =
      (s.putPoint t (p.configured base step shelvable (p.withBase now base step).effective)).told
        (s.target p.area) t p base := by
  obtain ⟨-, hp4, -, -, -, -, hsil, -⟩ := id hl
  rw [withBase_eq hb]
  dsimp only
  generalize (p.withBase now base step).effective = eff
  by_cases h : p.base ≤ 3 ∧ base = 4
  · obtain ⟨h3, rfl⟩ := h
    have hnew (q : Point) (hq : q.base = 4) : q.unlisted = { q with silenced := false } :=
      if_neg (by rw [standing_of_four hq]; exact Bool.false_ne_true)
    unfold State.told changePoint
    simp only [h3, and_self, if_true]
    cases hst : p.state with
    | unack τ =>
      rw [changePointAt_moves (by simp [Point.stateUnder, h3, hst, PointState.code]), standing_of_four rfl, hnew _ rfl]
      simp [Point.stateUnder, Point.configured, h3, hst, PointState.code]
    | rtnUnack τ =>
      rw [changePointAt_moves (by simp [Point.stateUnder, h3, hst, PointState.code]), standing_of_four rfl, hnew _ rfl]
      simp [Point.stateUnder, Point.configured, h3, hst, PointState.code]
    | acked τ =>
      simp [changePointAt, hnew, Point.stateUnder, Point.configured, h3, hst, Point.standing]
    | normal =>
      simp [changePointAt, hnew, Point.stateUnder, Point.configured, h3, hst, Point.standing]
    | shelved e op =>
      simp [changePointAt, hnew, Point.stateUnder, Point.configured, h3, hst, Point.standing]
  · let q : Point := { p with origin := .configured, base := base, step := step, shelvable := shelvable, effective := eff }
    have hstands : p.standing.isSome = true → q.standing.isSome = true := fun hs => by
      have h3 : p.base ≤ 3 := by
        by_contra h4
        rw [standing_of_four (by omega)] at hs
        cases hs
      rw [standing_congr (p := p) (q := q) rfl (iff_of_true (show base ≤ 3 by omega) h3)]
      exact hs
    rw [told_kept h, Point.configured, stateUnder_of_kept h, configured_silenced hl hb h]
    refine (changePoint_of_kept (old := p) (new := q) rfl hstands t s).trans ?_
    rw [unlisted_eq_self (p := q) fun hs => hstands (hsil hs)]

/-- SET_POINT of a point that stands in the table: the record and its word, then the placing by the area (R19). -/
theorem applySetPoint_told (h : s.point t = some p) (hl : p.Lawful) {c : StoredPoint} (hb : c.base ≤ 4) :
    applySetPoint t c s = moveArea t c.area ((s.putPoint t (p.configured c.base c.step c.shelvable
      (p.withBase s.runSeconds c.base c.step).effective)).told (s.target p.area) t p c.base) := by
  rw [applySetPoint, h]
  exact congrArg (moveArea t c.area) (changePoint_told hl hb c.shelvable s.runSeconds)

/-- A point whose record and word stand is placed by its area (R23). -/
theorem moveArea_told {q : Point} (ha : q.area = p.area) (a : Area) :
    moveArea t a ((s.putPoint t q).told x t p base) =
      if q.standing.isSome = true ∧ s.target p.area ≠ s.target a then
        let moved : Point := { q with area := a, silenced := false }
        let left := tellTarget (s.target p.area) t none (((s.putPoint t q).told x t p base).putPoint t moved)
        match s.target a with
        | .desk d => takeIn d (t, moved) left
        | .room => left
      else ((s.putPoint t q).told x t p base).putPoint t { q with area := a } := by
  unfold moveArea
  rw [told_point, told_target, putPoint_target]
  dsimp only
  rw [ha] <;> rfl

/-- A SET_POINT that gives the base priority and the step the point has changes none of the alarm that stands. -/
theorem withBase_same (hl : p.Lawful) (now : Word32) : p.withBase now p.base p.step = p := by
  obtain ⟨-, hp4, -, -, -, -, -, -, hfour, -⟩ := hl
  unfold Point.withBase
  by_cases h3 : p.base ≤ 3
  · rw [if_pos ⟨h3, h3⟩, if_pos ⟨rfl, rfl⟩]
  · have heff : p.base = p.effective := by
      have h4 : p.base = 4 := by omega
      rw [h4, hfour h4]
    rw [if_neg (by omega), if_neg h3]
    exact congrArg (fun n => { p with effective := n }) heff

/-- The record of a point that becomes record-only or was so, and the word of it (R21). -/
theorem told_four {step : Nat} (hl : p.Lawful) (hb : base ≤ 4) (h : p.base = 4 ∨ base = 4) (shelvable : Bool) (x : Target)
    (u : State) (f : State → State) :
    let q : Point := { p with origin := .configured, base := base, step := step, shelvable := shelvable
                              effective := base }
    let e : Draft := { kind := .state, desk := x.desk?, tag := some t }
    f ((u.putPoint t (p.configured base step shelvable base)).told x t p base) =
      if p.base ≤ 3 then
        match p.state with
        | .unack τ => f (tellTarget x t none (enter { e with d1 := some 1, d2 := some 2 }
            (u.putPoint t { q with state := .acked τ, silenced := false })))
        | .rtnUnack _ => f (tellTarget x t none (enter { e with d1 := some 3, d2 := some 0 }
            (u.putPoint t { q with state := .normal, silenced := false })))
        | .acked _ => f (tellTarget x t none (u.putPoint t { q with silenced := false }))
        | .normal | .shelved _ _ => f (u.putPoint t q)
      else f (u.putPoint t q) := by
  intro q e
  by_cases h3 : p.base ≤ 3
  · obtain rfl : base = 4 := by omega
    have hidle (hi : p.standing = none) (hst : p.stateUnder 4 = p.state) : p.configured 4 step shelvable 4 = q := by
      rw [Point.configured, hst]
      exact congrArg (fun b => { q with silenced := b }) (silenced_of_idle hl hi).symm
    have hunder : p.stateUnder 4 = match p.state with | .unack τ => .acked τ | .rtnUnack _ => .normal | st => st :=
      if_pos ⟨h3, rfl⟩
    rw [if_pos h3, State.told, if_pos ⟨h3, rfl⟩]
    cases hst : p.state with
    | unack τ => rw [Point.configured, hunder, hst]; rfl
    | rtnUnack τ => rw [Point.configured, hunder, hst]; rfl
    | acked τ => rw [Point.configured, hunder, hst]; rfl
    | normal => rw [hidle (standing_none_of_idle (.inl hst)) (by rw [hunder, hst])]
    | shelved expiry op => rw [hidle (standing_none_of_idle (.inr ⟨_, _, hst⟩)) (by rw [hunder, hst])]
  · have hkept : ¬(p.base ≤ 3 ∧ base = 4) := by omega
    rw [if_neg h3, told_kept hkept, Point.configured, stateUnder_of_kept hkept, configured_silenced hl hb hkept]

end Told

/-- Settles O11: the priority and step first (`changePoint_told`), then the area (`moveArea_told`); a point whose area is
given again is placed nowhere, and one whose priority and step are keeps its record but for the area. -/
theorem setPointChanges : Obligations.SetPointChanges := by
  refine ⟨?_, ?_, ?_⟩
  · intro s l tag t p base sent shelvable hcom hpoint hl h1 h4 hsent h4' step q e
    rw [exec_setPoint_applied hcom tag t p.area shelvable h1 h4 hsent,
      applySetPoint_told (by simpa using hpoint) hl h4]
    refine congrArg Host.Outcome.next ?_
    dsimp only
    rw [withBase_effective_four h4', listening_target]
    refine (congrArg (State.replies l 1 tag 0 0 []) (?_ : _ = (((s.listening l).putPoint t
      (p.configured base (min 120 sent) shelvable base)).told (s.target p.area) t p base))).trans ?_
    · refine (moveArea_same (p := p.configured base (min 120 sent) shelvable base) told_point).trans ?_
      rw [told_putPoint, State.putPoint_put]
    · exact told_four hl h4 h4' shelvable (s.target p.area) (s.listening l) (State.replies l 1 tag 0 0 [])
  · intro s l tag t p a sent shelvable hcom hpoint hl hsent hstep q
    obtain ⟨h1, h4, -⟩ := id hl
    have hnot : ¬(p.base ≤ 3 ∧ p.base = 4) := by omega
    have hkept : p.configured p.base p.step shelvable p.effective =
        { p with origin := .configured, shelvable := shelvable } := by
      rw [Point.configured, stateUnder_of_kept hnot, configured_silenced hl h4 hnot]
    rw [exec_setPoint_applied hcom tag t a shelvable h1 h4 hsent,
      applySetPoint_told (by simpa using hpoint) hl h4]
    refine congrArg Host.Outcome.next ?_
    dsimp only
    rw [hstep, withBase_same hl, hkept]
    refine (congrArg (State.replies l 1 tag 0 0 []) (moveArea_told (p := p)
      (q := { p with origin := .configured, shelvable := shelvable }) rfl a)).trans ?_
    rw [listening_target, listening_target, told_kept hnot]
    dsimp only
    rw [State.putPoint_put, State.putPoint_put]
    exact apply_ite (State.replies l 1 tag 0 0 []) _ _ _
  · intro s l tag t p a base sent shelvable hcom hpoint hl h1 h4 hsent step hne state effective q e prioritised
    rw [exec_setPoint_applied hcom tag t a shelvable h1 h4 hsent,
      applySetPoint_told (by simpa using hpoint) hl h4]
    refine congrArg Host.Outcome.next ?_
    dsimp only
    rw [withBase_effective (by obtain ⟨-, h, -⟩ := hl; exact h) h4 hne, listening_target, listening_runSeconds]
    refine (congrArg (State.replies l 1 tag 0 0 []) (moveArea_told (p := p) (q := q) rfl a)).trans ?_
    rw [listening_target, listening_target]
    exact apply_ite (State.replies l 1 tag 0 0 []) _ _ _

end Sys2Proof.Machine
end

section
/-! PROOFS. The end of the start-up hold (O60): the slots sense their contacts, the first cycle start falls, RESTART
and STORE_INVALID are journalled, HELLO is sent. -/

namespace Sys2Proof.Machine

/-! ### The slots sense their contacts (R79) -/

/-- A slot that takes one contact as its pin stands. -/
def Slot.sense (inService : Bool) (c : Contact) (v : Slot) : Slot :=
  if v.pins.get c ∧ v.contacts.get c = false then
    { v with contacts := v.contacts.set c true, state := v.state.afterClose inService }
  else v

/-- A slot that takes both. -/
def Slot.senseBoth (inService : Bool) (v : Slot) : Slot := (v.sense inService .c1).sense inService .c2

/-- Whether a desk is in service, as its slots ask (R67). -/
def State.serves (s : State) (d : Desk) : Bool := decide ((s.unit d).state ≠ .outOfService)

section Sense
variable (s : State) (d : Desk) (k : SlotId)

theorem putSlot_self : s.putSlot d k (s.slot d k) = s := by
  rw [State.putSlot, State.slot, DeskUnit.setSlot_self, State.putUnit_unit]

theorem senseContact_eq (c : Contact) : senseContact d k c s = s.putSlot d k ((s.slot d k).sense (s.serves d) c) := by
  unfold senseContact closeContact Slot.sense
  by_cases hp : (s.slot d k).pins.get c = true
  · by_cases hc : (s.slot d k).contacts.get c = true
    · rw [if_pos hp, if_pos hc, if_neg (by simp [hc]), putSlot_self]
    · rw [if_pos hp, if_neg hc, if_pos ⟨hp, by simpa using hc⟩]
      rfl
  · rw [if_neg hp, if_neg (by simp [hp]), putSlot_self]

theorem putSlot_serves (v : Slot) (e : Desk) : (s.putSlot d k v).serves e = s.serves e := by
  rw [State.serves, State.serves, State.putSlot, State.unit_putUnit]
  split
  · next he => rw [DeskUnit.setSlot_state, he]
  · rfl

theorem senseSlot_eq : senseSlot s (d, k) = s.putSlot d k ((s.slot d k).senseBoth (s.serves d)) := by
  rw [senseSlot, senseContact_eq, senseContact_eq, putSlot_serves, slot_putSlot, putSlot_putSlot]
  rfl

end Sense

/-- A unit whose slots have sensed their contacts. -/
def DeskUnit.sensed (u : DeskUnit) : DeskUnit :=
  let inService := decide (u.state ≠ .outOfService)
  { u with slotA := u.slotA.senseBoth inService, slotB := u.slotB.senseBoth inService }

theorem senseDesk_eq (s : State) (d : Desk) :
    senseSlot (senseSlot s (d, .a)) (d, .b) = s.putUnit d (s.unit d).sensed := by
  have hb : (s.putSlot d .a ((s.slot d .a).senseBoth (s.serves d))).slot d .b = s.slot d .b := by
    rw [State.slot, State.slot, putSlot_unit]
    rfl
  rw [senseSlot_eq, senseSlot_eq, putSlot_serves, hb, State.putSlot, putSlot_unit, State.putSlot, putUnit_putUnit]
  rfl

/-- Every slot senses its contacts; nothing else is touched. -/
theorem senseAll_eq (s : State) :
    slotPlaces.foldl senseSlot s = { s with desks := PerDesk.of fun d => (s.unit d).sensed } := by
  rw [slotPlaces, List.foldl_flatMap]
  have hdesk (u : State) (d : Desk) : (allSlots.map fun k => (d, k)).foldl senseSlot u = u.putUnit d (u.unit d).sensed :=
    senseDesk_eq u d
  simp [hdesk, allDesks, State.putUnit, State.unit, PerDesk.set, PerDesk.get, PerDesk.of]

/-! ### The first cycle start (R147) -/

/-- No point alarms: every one is in NORMAL. -/
def State.AllNormal (s : State) : Prop := ∀ e ∈ s.points, e.2.state = .normal

theorem listHolds_of_allNormal {s : State} (h : s.AllNormal) (x : Target) (kind : Point → Bool) :
    s.listHolds x kind = false := by
  rw [State.listHolds, List.any_eq_false]
  intro e he
  have hnone : e.2.standing = none := standing_none_of_idle (.inl (h e he))
  simp [State.standsAt, hnone]

theorem requests_of_allNormal {s : State} (h : s.AllNormal) :
    PerTarget.of s.requestsHorn = State.reset.horn.requests := by
  rw [show s.requestsHorn = fun _ => false from funext fun x => listHolds_of_allNormal h x _]
  rfl

/-- With no alarm and no owner the horn stays as it is after reset (R157). -/
theorem arbitrate_of_allNormal {s : State} (h : s.AllNormal) (hhorn : s.horn = State.reset.horn) :
    arbitrate s = State.reset.horn := by
  rw [arbitrate, hhorn, requests_of_allNormal h]
  rfl

theorem sensed_flashesKey (inService : Bool) {v : Slot} (h : v.state = .empty) :
    (v.senseBoth inService).state.flashesKey = false := by
  obtain ⟨⟨p1, p2⟩, ⟨c1, c2⟩, st⟩ := v
  obtain rfl : st = .empty := h
  revert inService p1 p2 c1 c2
  decide

/-- What a slot senses from EMPTY with its contacts taken as open (R79). -/
theorem senseBoth_empty (inService : Bool) (p : Contacts) :
    ({ Slot.atReset with pins := p } : Slot).senseBoth inService =
      { pins := p, contacts := p
        state := match p with
          | ⟨false, false⟩ => .empty
          | ⟨true, true⟩ => if inService then .settling else .unpowered
          | _ => .oneContact } := by
  obtain ⟨p1, p2⟩ := p
  revert inService p1 p2
  decide

/-- The part right after its store is loaded (R199, R200). -/
def State.loaded (s : State) (image : Image) (st : StoreState) : State :=
  { loadImage image (resetTo .running s) with store := st }

/-- A desk unit at the end of the hold: its configuration, its slots as their contacts stand, its lamps chosen. -/
def startedDesk (c : StoredDesk) (u : DeskUnit) : DeskUnit :=
  { state := if c.inService then .vacant else .outOfService
    slotA := ({ Slot.atReset with pins := u.slotA.pins } : Slot).senseBoth c.inService
    slotB := ({ Slot.atReset with pins := u.slotB.pins } : Slot).senseBoth c.inService
    due := none, home := c.home, tone := c.tone, hornHold := c.hornHold
    lamps := if c.inService then ⟨.off, .off, .off, .off, .flash⟩ else ⟨.off, .off, .off, .off, .off⟩ }

section Started
variable (s : State) (image : Image) (st : StoreState)

theorem loaded_allNormal : (s.loaded image st).AllNormal := fun e he => by
  obtain ⟨x, -, rfl⟩ := List.mem_map.1 (show e ∈ tableMap (fun _ c => newPoint c) image.points from he)
  rfl

theorem loaded_sensed (d : Desk) : ((s.loaded image st).unit d).sensed =
    { startedDesk (image.desks.get d) (s.unit d) with lamps := ⟨.off, .off, .off, .off, .off⟩ } := by
  have hunit : (s.loaded image st).unit d =
      loadDesk (image.desks.get d) (keepPins (State.reset.unit d) (s.unit d)) :=
    (loadImage_unit image _ d).trans (congrArg _ (resetTo_unit .running s d))
  have hreset : State.reset.unit d = DeskUnit.atReset d.code := by cases d <;> rfl
  rw [hunit, hreset]
  generalize image.desks.get d = c
  cases hc : c.inService <;> simp [DeskUnit.sensed, loadDesk, keepPins, startedDesk, DeskUnit.atReset, hc]

/-- The lamps of a started desk, whatever state holds it, while nothing alarms and no link is latched (R150 to R154). -/
theorem chooseLamps_started {v : State} {d : Desk} {c : StoredDesk} {u : DeskUnit} (hnormal : v.AllNormal)
    (hflood : (v.loadOf (.desk d)).flood = false) (hlocal : v.isLocal = true)
    (hunit : v.unit d = { startedDesk c u with lamps := ⟨.off, .off, .off, .off, .off⟩ }) :
    chooseLamps v d = (startedDesk c u).lamps := by
  have hkey : lampKey { startedDesk c u with lamps := ⟨.off, .off, .off, .off, .off⟩ } = .off := by
    rw [lampKey]
    rw [show (startedDesk c u).slotA.state.flashesKey = false from sensed_flashesKey _ rfl,
      show (startedDesk c u).slotB.state.flashesKey = false from sensed_flashesKey _ rfl]
    unfold startedDesk
    cases c.inService <;> rfl
  have hholds := listHolds_of_allNormal hnormal (.desk d)
  cases hc : c.inService with
  | false => simp [chooseLamps, hunit, startedDesk, hc]
  | true =>
    have hlamps : chooseLamps v d = { alarm := lampAlarm v d, ret := lampReturn v d, hand := lampHand (v.unit d)
                                      key := lampKey (v.unit d), link := lampLink v } := by
      simp [chooseLamps, hunit, startedDesk, hc]
    rw [hlamps, hunit, hkey]
    simp [lampAlarm, lampReturn, lampHand, lampLink, startedDesk, hc, hflood, hlocal, State.hasUnack, State.hasReturn,
      State.hasStanding, hholds]

/-- A cycle start while nothing alarms and nothing is staged chooses the lamps alone (R147). -/
theorem cycleStart_quiescent {v : State} (hnormal : v.AllNormal) (hstaged : v.staged = none) (hposition : v.position = 0)
    (hhorn : v.horn = State.reset.horn) :
    cycleStart v = { v with desks := PerDesk.of fun d => { v.unit d with lamps := chooseLamps v d } } := by
  simp [cycleStart, arbitrate_of_allNormal hnormal hhorn, hstaged, hposition, hhorn]

/-- The loaded part with its slots' contacts sensed, every lamp still dark. -/
def State.sensed : State := { s.loaded image st with desks := PerDesk.of fun d =>
  { startedDesk (image.desks.get d) (s.unit d) with lamps := ⟨.off, .off, .off, .off, .off⟩ } }

theorem senseAll_loaded : slotPlaces.foldl senseSlot (s.loaded image st) = s.sensed image st := by
  have hsensed : (fun d => ((s.loaded image st).unit d).sensed) = fun d =>
      { startedDesk (image.desks.get d) (s.unit d) with lamps := ⟨.off, .off, .off, .off, .off⟩ } :=
    funext (loaded_sensed s image st)
  rw [senseAll_eq, hsensed]
  rfl

/-- The first cycle start of a loaded part (R147, R199). -/
theorem cycleStart_loaded : cycleStart (slotPlaces.foldl senseSlot (s.loaded image st)) =
    { s.loaded image st with desks := PerDesk.of fun d => startedDesk (image.desks.get d) (s.unit d) } := by
  have hnormal : (s.sensed image st).AllNormal := loaded_allNormal s image st
  have hunit (d : Desk) : (s.sensed image st).unit d =
      { startedDesk (image.desks.get d) (s.unit d) with lamps := ⟨.off, .off, .off, .off, .off⟩ } := PerDesk.get_of _ d
  rw [senseAll_loaded, cycleStart_quiescent hnormal rfl rfl rfl]
  refine congrArg (fun f => { s.loaded image st with desks := PerDesk.of f }) (funext fun d => ?_)
  rw [chooseLamps_started hnormal (by cases d <;> rfl) rfl (hunit d), hunit]

/-! ### The entries and HELLO -/

/-- The part after the hold's end, but for the entries: HELLO on both links, its notice as given. -/
def State.started (s : State) (image : Image) (st : StoreState) (cause : ResetCause) (journal : List Entry) : State :=
  let hello : OutFrame := { role := .hello, type := 240, tag := 0
                            body := [byte cause.code, yesNo (decide (st = .valid)), 12, 88, 1] }
  let link : SupLink := { receiver := .hunting, sending := some hello, waiting := [], notice := decide (st = .invalid) }
  { s.loaded image st with
    desks := PerDesk.of fun d => startedDesk (image.desks.get d) (s.unit d)
    journal := journal, nextSeq := if st = .invalid then 3 else 2
    attention := { pending := if st = .invalid then 0x80 else 0, enables := 0xFF, globalEnable := true
                   clearMode := image.clearMode }
    links := ⟨link, link⟩ }

theorem setPending_store {v : State} {m : ClearMode}
    (hatt : v.attention = { pending := 0, enables := 0xFF, globalEnable := true, clearMode := m }) :
    setPending .store v = { raiseNotice v with
      attention := { pending := 0x80, enables := 0xFF, globalEnable := true, clearMode := m } } := by
  have hclear : ¬inClasses v.attention.pending .store = true := by simp [hatt, inClasses]
  have henabled : inClasses v.attention.enabled .store = true := by
    simp only [hatt, Attention.enabled, if_true]
    decide
  have hbit : v.attention.pending ||| classBit .store = 0x80 := by
    simp only [hatt]
    decide
  rw [setPending, if_neg hclear]
  dsimp only
  rw [if_pos henabled, hbit, hatt]
  rfl

theorem startUp_valid (cause : ResetCause) (h : loadStore (resetTo .running s) = s.loaded image .valid) :
    ∃ j, startUp cause s = s.started image .valid cause j ∧
      ∃ e ∈ j, e.seq = 1 ∧ e.what = { kind := .restart, d1 := some cause.code } := by
  obtain ⟨v, hv⟩ : ∃ v, v = cycleStart (slotPlaces.foldl senseSlot (s.loaded image .valid)) := ⟨_, rfl⟩
  have hlog := State.Logs.enter { kind := .restart, d1 := some cause.code } v
  obtain ⟨e, he, hseq, hwhat⟩ := hlog.records_head (show 0 < 2048 by decide)
  rw [startUp, h, ← hv]
  refine ⟨_, ?_, e, he, hseq.trans ?_, hwhat⟩
  · rw [restartEntries, enter_none (w := { kind := .restart, d1 := some cause.code }) rfl, hv, cycleStart_loaded]
    rfl
  · rw [hv, cycleStart_loaded]
    rfl

theorem startUp_invalid (cause : ResetCause) (h : loadStore (resetTo .running s) = s.loaded image .invalid) :
    ∃ j, startUp cause s = s.started image .invalid cause j ∧
      (∃ e ∈ j, e.seq = 1 ∧ e.what = { kind := .restart, d1 := some cause.code }) ∧
      ∃ e ∈ j, e.seq = 2 ∧ e.what = { kind := .storeInvalid } := by
  obtain ⟨v, hv⟩ : ∃ v, v = cycleStart (slotPlaces.foldl senseSlot (s.loaded image .invalid)) := ⟨_, rfl⟩
  have hlog := (State.Logs.enter { kind := .restart, d1 := some cause.code } v).then_enter { kind := .storeInvalid }
  have hnext : v.nextSeq = 1 := by rw [hv, cycleStart_loaded]; rfl
  have hfirst := hlog.records_getElem? (i := 0) (show 2 ≤ 2048 by decide) rfl
  have hsecond := hlog.records_getElem? (i := 1) (show 2 ≤ 2048 by decide) rfl
  rw [hnext] at hfirst hsecond
  rw [startUp, h, ← hv]
  refine ⟨_, ?_, hfirst, hsecond⟩
  rw [restartEntries, enter_none (w := { kind := .restart, d1 := some cause.code }) rfl, hv, cycleStart_loaded]
  dsimp only
  rw [enter_some (c := .store) rfl, if_pos (show (s.loaded image .invalid).store = .invalid from rfl),
    setPending_store (m := image.clearMode) rfl]
  rfl

/-- Which image the hold's end loads: the store's, or the factory's under an image that fails its check (R200, R201). -/
def State.Loads (s : State) (image : Image) : StoreState → Prop
  | .valid => s.image = some image ∧ ∀ i, s.store ≠ .writing i
  | .invalid => image = factoryImage ∧ (s.image = none ∨ ∃ i, s.store = .writing i)
  | .writing _ => False

theorem loadStore_loads : ∃ image st, loadStore (resetTo .running s) = s.loaded image st ∧ s.Loads image st := by
  by_cases hwriting : ∃ i, s.store = .writing i
  · refine ⟨factoryImage, .invalid, ?_, rfl, .inr hwriting⟩
    obtain ⟨i, hi⟩ := hwriting
    have hnone : (resetTo .running s).image = none := by simp only [resetTo, hi]
    rw [loadStore, hnone]
    rfl
  · have hkept : (resetTo .running s).image = s.image := by
      rw [resetTo]
      cases hst : s.store with
      | writing i => exact absurd ⟨i, hst⟩ hwriting
      | valid => rfl
      | invalid => rfl
    cases himage : s.image with
    | none =>
      refine ⟨factoryImage, .invalid, ?_, rfl, .inl himage⟩
      rw [loadStore, hkept, himage]
      rfl
    | some image =>
      refine ⟨image, .valid, ?_, himage, fun i hi => hwriting ⟨i, hi⟩⟩
      rw [loadStore, hkept, himage]
      rfl

/-- The end of the hold, in full (R199, R200). -/
theorem startUp_eq (cause : ResetCause) : ∃ image st j, startUp cause s = s.started image st cause j ∧
    s.Loads image st ∧ (∃ e ∈ j, e.seq = 1 ∧ e.what = { kind := .restart, d1 := some cause.code }) ∧
      (st = .invalid → ∃ e ∈ j, e.seq = 2 ∧ e.what = { kind := .storeInvalid }) := by
  obtain ⟨image, st, hload, hloads⟩ := loadStore_loads s
  cases st with
  | valid =>
    obtain ⟨j, hj, hfirst⟩ := startUp_valid s image cause hload
    exact ⟨image, .valid, j, hj, hloads, hfirst, fun h => by cases h⟩
  | invalid =>
    obtain ⟨j, hj, hfirst, hsecond⟩ := startUp_invalid s image cause hload
    exact ⟨image, .invalid, j, hj, hloads, hfirst, fun _ => hsecond⟩
  | writing i => exact hloads.elim

theorem tableGet_tableMap {n : Nat} {α β : Type} (f : Fin n → α → β) (t : Table n α) (x : Fin n) :
    tableGet (tableMap f t) x = (tableGet t x).map (f x) := by
  induction t with
  | nil => rfl
  | cons e rest ih =>
    by_cases h : e.1 = x
    · simp [tableMap, tableGet, h]
    · simpa [tableMap, tableGet, h] using ih

theorem started_unit (cause : ResetCause) (j : List Entry) (d : Desk) :
    (s.started image st cause j).unit d = startedDesk (image.desks.get d) (s.unit d) := PerDesk.get_of _ d

theorem startedDesk_slot (c : StoredDesk) (u : DeskUnit) (k : SlotId) : (startedDesk c u).slot k =
    { pins := (u.slot k).pins, contacts := (u.slot k).pins
      state := match (u.slot k).pins with
        | ⟨false, false⟩ => .empty
        | ⟨true, true⟩ => if (startedDesk c u).state = .outOfService then .unpowered else .settling
        | _ => .oneContact } := by
  have hsense := senseBoth_empty c.inService (u.slot k).pins
  have hslot : (startedDesk c u).slot k = ({ Slot.atReset with pins := (u.slot k).pins } : Slot).senseBoth c.inService := by
    cases k <;> rfl
  have hserves : ∀ x y : SlotState, (if c.inService then x else y) = if (startedDesk c u).state = .outOfService then y else x := by
    intro x y
    unfold startedDesk
    cases c.inService <;> rfl
  rw [hslot, hsense]
  simp only [hserves]

end Started

/-- Settles O60: the state at the hold's end is known in full (`startUp_eq`), and each clause reads a part of it. -/
theorem startUp_holds : Obligations.StartUp := by
  intro s cause hphase
  obtain ⟨image, st, j, hstart, hloads, hfirst, hsecond⟩ := startUp_eq s cause
  have hexec : exec .startupHoldEnd s = .next (s.started image st cause j) := by
    refine congrArg Host.Outcome.next ?_
    rw [startupHoldEnd, hphase]
    exact hstart
  have hunit := started_unit s image st cause j
  refine ⟨_, hexec, rfl, rfl, rfl, rfl, rfl, rfl, rfl, rfl, rfl, rfl, rfl, rfl, rfl, fun d => ?_, fun x => ?_, fun l => ?_, rfl,
    fun d => ?_, fun d k => ?_, fun l => ?_, fun l => ?_, hfirst, fun i hi hnot => ?_, fun hbad => ?_⟩
  · rw [hunit]
    rfl
  · cases x with
    | room => rfl
    | desk d => cases d <;> rfl
  · cases l <;> rfl
  · rw [hunit]
    unfold startedDesk
    cases (image.desks.get d).inService <;> rfl
  · rw [State.slot, hunit, startedDesk_slot]
    exact ⟨rfl, rfl, rfl⟩
  · cases l <;> exact ⟨rfl, rfl⟩
  · cases l <;> rfl
  · cases st with
    | valid =>
      obtain ⟨himage, -⟩ := hloads
      obtain rfl : image = i := by rw [himage] at hi; exact Option.some.inj hi
      refine ⟨rfl, rfl, rfl, fun l => by cases l <;> rfl, rfl, rfl, rfl, rfl, rfl, rfl, rfl, rfl, fun d => ?_, fun x => ?_⟩
      · rw [hunit]
        exact ⟨rfl, rfl, rfl, rfl⟩
      · exact tableGet_tableMap (fun _ c => newPoint c) image.points x
    | invalid =>
      obtain ⟨-, hnone | ⟨k, hk⟩⟩ := hloads
      · rw [hnone] at hi
        cases hi
      · exact absurd hk (hnot k)
    | writing k => exact hloads.elim
  · cases st with
    | valid =>
      obtain ⟨himage, hnot⟩ := hloads
      obtain hnone | ⟨k, hk⟩ := hbad
      · rw [hnone] at himage
        cases himage
      · exact absurd hk (hnot k)
    | invalid =>
      obtain ⟨rfl, -⟩ := hloads
      refine ⟨rfl, rfl, hsecond rfl, rfl, fun l => by cases l <;> rfl, rfl, rfl, rfl, rfl, rfl, rfl, rfl, rfl, rfl, fun d => ?_⟩
      rw [hunit]
      cases d <;> exact ⟨rfl, rfl, rfl, rfl⟩
    | writing k => exact hloads.elim

end Sys2Proof.Machine
end

section
/-! PROOFS. SET_DESK (O51): the configuration and the supervisor setting, a desk taken out of service and returned. -/

namespace Sys2Proof.Machine

/-! ### The body and its service -/

theorem readSetDesk_be (d : Desk) (serve sup : Bool) (home : AreaSet) {tone hold : Nat} (ht : tone ≤ 7) (hh : hold < 256) :
    readSetDesk ([byte d.code, yesNo serve, yesNo sup] ++ areaSetBytes home ++ [byte tone, byte hold]) =
      some { desk := d, inService := serve, supervisor := sup, home := home, tone := tone
             hornHold := max 1 (min 15 hold) } := by
  have hset := areaSetOf_bytes home
  simp only [areaSetBytes] at hset
  simp [readSetDesk, field, slice, areaSetBytes, num, yesNoOf_yesNo, hset, clamp, Nat.mod_eq_of_lt hh,
    Nat.mod_eq_of_lt (show tone < 256 by omega), ht]

/-- The supervisor setting a SET_DESK leaves (R42, R202). -/
def State.supervisorAfter (s : State) (d : Desk) (sup : Bool) : Option Desk :=
  if sup then some d else if s.supervisor = some d then none else s.supervisor

section Serve
variable {s : State} {d : Desk} {sup : Bool} {f : SetDeskFields}

theorem setSupervisor_eq (d : Desk) (sup : Bool) (s : State) :
    setSupervisor d sup s = { s with supervisor := s.supervisorAfter d sup } := by
  unfold setSupervisor State.supervisorAfter
  cases sup with
  | true => rfl
  | false =>
    by_cases h : s.supervisor = some d
    · simp [h]
    · simp [h]

theorem serveSetDesk_taken (hother : ∃ e, s.supervisor = some e ∧ e ≠ f.desk) (hsup : f.supervisor = true) :
    serveSetDesk f s = (s, .refused .supervisorTaken) := by
  obtain ⟨e, he, hne⟩ := hother
  exact if_pos (by simp [hsup, State.supervisedElsewhere, he, hne])

theorem serveSetDesk_free (h : (∀ e, s.supervisor = some e → e = f.desk) ∨ f.supervisor = false) :
    serveSetDesk f s = (applySetDesk f s, .ok [byte f.hornHold]) := by
  refine if_neg ?_
  rcases h with h | h
  · cases hs : s.supervisor with
    | none => simp [State.supervisedElsewhere, hs]
    | some e => simp [State.supervisedElsewhere, hs, h e hs]
  · simp [h]

/-- The state SET_DESK leaves, from the one its service part leaves (R94, R202). -/
theorem applySetDesk_eq (f : SetDeskFields) (s : State) : applySetDesk f s =
    let v := setService f.desk f.inService s
    { v with supervisor := v.supervisorAfter f.desk f.supervisor }.putUnit f.desk
      { v.unit f.desk with home := f.home, tone := f.tone, hornHold := f.hornHold } := by
  rw [applySetDesk, setSupervisor_eq]
  rfl

theorem setService_same (h : f.inService = true ↔ (s.unit f.desk).state ≠ .outOfService) :
    setService f.desk f.inService s = s := by
  unfold setService State.inService
  cases hs : f.inService with
  | true => rw [if_pos (by simpa using h.mp hs), if_pos rfl]
  | false =>
    have hout : ¬(s.unit f.desk).state ≠ .outOfService := fun hne => by rw [h.mpr hne] at hs; cases hs
    rw [if_neg (by simpa using hout), if_neg (by simp)]

theorem setService_out (h : (s.unit d).state ≠ .outOfService) : setService d false s = takeOutOfService d s := by
  rw [setService, State.inService, if_pos (by simpa using h), if_neg (by simp)]

theorem setService_back (h : (s.unit d).state = .outOfService) : setService d true s = returnToService d s := by
  rw [setService, State.inService, if_neg (by simpa using h), if_pos rfl]

end Serve

/-! ### The desk's unit -/

section Unit
variable {s : State} {d : Desk}

theorem mapSlots_unit (f : SlotState → SlotState) (s : State) : (mapSlots d f s).unit d =
    { s.unit d with slotA := { (s.unit d).slotA with state := f (s.unit d).slotA.state }
                    slotB := { (s.unit d).slotB with state := f (s.unit d).slotB.state } } := by
  simp only [mapSlots, State.putSlotState, State.slot, putSlot_unit]
  rfl

theorem signOffSlot_unit (d : Desk) (k : SlotId) (s : State) (e : Desk) : (signOffSlot d k s).unit e = s.unit e := by
  rw [signOffSlot]
  split
  · exact enter_unit _ s e
  · rfl

theorem setResult_unpower (r : SignOn) (st : SlotState) : (st.setResult r).unpower = st.unpower := by
  cases st <;> rfl

/-- A desk taken out of service: its keys unpowered, its handover and DUE gone (R67, R94). -/
theorem takeOutOfService_unit (d : Desk) (s : State) : (takeOutOfService d s).unit d =
    { s.unit d with
      state := .outOfService
      slotA := { (s.unit d).slotA with state := (s.unit d).slotA.state.unpower }
      slotB := { (s.unit d).slotB with state := (s.unit d).slotB.state.unpower }, due := none } := by
  rw [takeOutOfService_eq, mapSlots_unit, clearDue_unit, putDeskState_unit, releaseOutside_unit, signedOff, signOffSlot_unit,
    signOffSlot_unit, abortHandover_unit, DeskUnit.aborted]
  cases (s.unit d).state with
  | handoverReview k h inc =>
    dsimp only
    cases k <;> simp only [DeskUnit.withResult, DeskUnit.setSlot, DeskUnit.slot, SlotId.other, setResult_unpower]
  | _ => rfl

/-- A desk returned to service: VACANT, a seated key settling afresh (R67, R94). -/
theorem returnToService_unit (d : Desk) (s : State) : (returnToService d s).unit d =
    { s.unit d with
      state := .vacant
      slotA := { (s.unit d).slotA with state := (s.unit d).slotA.state.repower }
      slotB := { (s.unit d).slotB with state := (s.unit d).slotB.state.repower } } := by
  rw [returnToService, mapSlots_unit, putDeskState_unit]

end Unit

/-! ### The work at the desk -/

theorem State.AtDesk.withSupervisor {s t : State} {d : Desk} (h : s.AtDesk d t) (x : Option Desk) :
    State.AtDesk d { s with supervisor := x } { t with supervisor := x } :=
  ⟨congrArg (fun r : State => { r with supervisor := x }) h.rest, h.others⟩

section Applied
variable {s : State} {f : SetDeskFields}

theorem setService_atDesk (d : Desk) (serve : Bool) (s : State) : s.AtDesk d (setService d serve s) := by
  rw [setService]
  split
  · split
    · exact .refl d s
    · exact takeOutOfService_atDesk d s
  · split
    · exact returnToService_atDesk d s
    · exact .refl d s

/-- But for the supervisor setting, SET_DESK works at its desk alone (R202). -/
theorem applySetDesk_atDesk (f : SetDeskFields) (s : State) :
    State.AtDesk f.desk { s with supervisor := s.supervisorAfter f.desk f.supervisor } (applySetDesk f s) := by
  have hservice := setService_atDesk f.desk f.inService s
  have hsup : (setService f.desk f.inService s).supervisorAfter f.desk f.supervisor =
      s.supervisorAfter f.desk f.supervisor := by
    rw [State.supervisorAfter, hservice.supervisor, State.supervisorAfter]
  rw [applySetDesk_eq]
  dsimp only
  rw [hsup]
  exact (hservice.withSupervisor _).trans (putUnit_atDesk _ _ _)

theorem applySetDesk_unit (f : SetDeskFields) (s : State) : (applySetDesk f s).unit f.desk =
    { (setService f.desk f.inService s).unit f.desk with home := f.home, tone := f.tone, hornHold := f.hornHold } := by
  rw [applySetDesk_eq]
  exact State.unit_putUnit_self _ _ _

theorem applySetDesk_owners (f : SetDeskFields) (s : State) :
    (applySetDesk f s).owners = (setService f.desk f.inService s).owners := by
  rw [applySetDesk_eq]
  rfl

theorem applySetDesk_journal (f : SetDeskFields) (s : State) :
    (applySetDesk f s).journal = (setService f.desk f.inService s).journal := by
  rw [applySetDesk_eq]
  rfl

theorem applySetDesk_logs {ws : List Draft} (h : s.Logs (setService f.desk f.inService s) ws) :
    s.Logs (applySetDesk f s) ws := by
  rw [applySetDesk_eq]
  exact h.congr rfl rfl

end Applied

/-! ### The entries -/

section Logs
variable {s : State} {d : Desk}

/-- SIGN_OFF of a key at a desk going out of service (R94). -/
def serviceSignOff (d : Desk) (k : SlotId) (op : OpIndex) : Draft :=
  { kind := .signOff, desk := some d, op := some op, d1 := some (256 * k.code + 3) }

/-- HANDOVER_ABORT at a desk going out of service (R138). -/
def abortedEntry (d : Desk) (h : Handover) : Draft :=
  { kind := .handoverAbort, desk := some d, op := some h.outgoing, d1 := some 5, d2 := some h.carried.length }

/-- The entries of a slot's sign-off. -/
def signOffLog (d : Desk) (k : SlotId) (signed : Option OpIndex) : List Draft := (signed.map (serviceSignOff d k)).toList

theorem signOffSlot_logs (d : Desk) (k : SlotId) (s : State) :
    s.Logs (signOffSlot d k s) (signOffLog d k (s.signedOn d k)) := by
  rw [signOffSlot]
  cases s.signedOn d k with
  | none => exact .refl s
  | some op => exact .enter _ s

theorem signOffLog_length (d : Desk) (k : SlotId) (x : Option OpIndex) :
    (signOffLog d k x).length = if x.isSome then 1 else 0 := by
  cases x <;> rfl

/-- What a desk taken out of service journals: the abort, the sign-offs, slot A first, the releases (R94, R138). -/
theorem takeOutOfService_logs (hw : tableWf s.owners = true) : ∃ ws, ws.length ≤ 64 ∧
    s.Logs (takeOutOfService d s) (abortLog d 5 (s.unit d) ++ signOffLog d .a ((s.unit d).aborted.signs .a) ++
      signOffLog d .b ((s.unit d).aborted.signs .b) ++ ws) ∧ ∀ a, s.owner a = some d → releaseEntry d a ∈ ws := by
  have hsigned (k : SlotId) (u : State) (hu : u.unit d = (s.unit d).aborted) :
      u.Logs (signOffSlot d k u) (signOffLog d k ((s.unit d).aborted.signs k)) := by
    have h := signOffSlot_logs d k u
    rwa [signedOn_eq, hu] at h
  have habort : (abortHandover d .outOfService s).unit d = (s.unit d).aborted := abortHandover_unit _ _ _
  have hlog := ((abortHandover_logs d .outOfService s).trans (hsigned .a _ habort)).trans
    (hsigned .b _ ((signOffSlot_unit d .a _ d).trans habort))
  have howners : (signedOff d s).owners = s.owners := signedOff_owners d s
  have hw' : tableWf (signedOff d s).owners = true := by rw [howners]; exact hw
  have hall := hlog.trans (releaseOutside_logs (d := d) hw' 0)
  have hlen := released_length (d := d) hw' 0
  refine ⟨_, hlen, ?_, fun a ha => mem_released hw' ?_ (inSet_zero a)⟩
  · rw [takeOutOfService_eq]
    generalize releaseOutside d 0 (signedOff d s) = r at *
    exact hall.congr rfl rfl
  · rw [State.owner, howners]
    exact ha

/-- An operator in HANDOVER_REVIEW being INCOMING in its slot, an abort signs nobody on or off (R134). -/
theorem aborted_signs_incoming {u : DeskUnit} (h : ∀ k x inc, u.state = .handoverReview k x inc → u.result k.other = some (.incoming inc))
    (k : SlotId) : u.aborted.signs k = u.signs k := by
  rw [DeskUnit.aborted]
  cases hst : u.state with
  | handoverReview k' x inc =>
    have hres := h k' x inc hst
    rw [DeskUnit.signs, DeskUnit.result_withState, DeskUnit.signs]
    obtain rfl | rfl := SlotId.eq_or_other k' k
    · rw [DeskUnit.result_withResult_of_other]
    · rw [DeskUnit.result_withResult_self, hres]
      rfl
  | _ => rfl

end Logs

/-! ### The statement -/

section Configured
variable {s : State} {l : Link} {d : Desk} {sup : Bool}

/-- An accepted SET_DESK, routing worked out once at its end (R37, R202). -/
theorem exec_setDesk_free (hcom : s.commands l) (tag : Byte) (serve : Bool) (home : AreaSet) {tone hold : Nat}
    (ht : tone ≤ 7) (hh : hold < 256) (hfree : (∀ e, s.supervisor = some e → e = d) ∨ sup = false) :
    exec (.setDesk l tag ([byte d.code, yesNo serve, yesNo sup] ++ areaSetBytes home ++ [byte tone, byte hold])) s =
      .next ((reroute s (applySetDesk { desk := d, inService := serve, supervisor := sup, home := home, tone := tone
                                        hornHold := max 1 (min 15 hold) } (s.listening l))).replies l 16 tag 0 0
        [byte (max 1 (min 15 hold))]) := by
  refine congrArg Host.Outcome.next (routing_served hcom 16 tag (readSetDesk_be d serve sup home ht hh) serveSetDesk
    (serveSetDesk_free ?_) ?_ rfl)
  · simpa using hfree
  · rw [(applySetDesk_atDesk _ _).phase]
    exact listening_phase l s

/-- What SET_DESK leaves beside its desk (R37, R202). -/
theorem setDesk_around (f : SetDeskFields) (l : Link) {u : State}
    (hu : u = { s.listening l with supervisor := s.supervisorAfter f.desk f.supervisor })
    (hout : (applySetDesk f (s.listening l)).inHandover f.desk = false) :
    State.RoutedAround f.desk ((reroute s (applySetDesk f (s.listening l))).unit f.desk) s u
      (reroute s (applySetDesk f (s.listening l))) ∧
    (reroute s (applySetDesk f (s.listening l))).unit f.desk = (applySetDesk f (s.listening l)).unit f.desk := by
  have hatDesk : State.AtDesk f.desk u (applySetDesk f (s.listening l)) := by
    have h := applySetDesk_atDesk f (s.listening l)
    rw [show (s.listening l).supervisorAfter f.desk f.supervisor = s.supervisorAfter f.desk f.supervisor by
      rw [State.supervisorAfter, listening_supervisor, State.supervisorAfter]] at h
    rwa [hu]
  have hunit := reroute_unit_out s (applySetDesk f (s.listening l)) f.desk hout
  refine ⟨?_, hunit⟩
  rw [hunit]
  exact routedAround_of_atDesk hatDesk (fun e _ => by rw [hu]; exact listening_unit l s e) (by rw [hu]; exact listening_points l s)

/-- A desk taken out of service: its unit, the owners and the entries, before routing is worked out (R94, R40, R138). -/
theorem setDesk_out {f : SetDeskFields} (hserve : f.inService = false) (hin : (s.unit f.desk).state ≠ .outOfService)
    (hw : tableWf s.owners = true) :
    (applySetDesk f (s.listening l)).unit f.desk = { s.unit f.desk with
      state := .outOfService
      slotA := { (s.unit f.desk).slotA with state := (s.unit f.desk).slotA.state.unpower }
      slotB := { (s.unit f.desk).slotB with state := (s.unit f.desk).slotB.state.unpower }
      due := none, home := f.home, tone := f.tone, hornHold := f.hornHold } ∧
    (∀ a, (applySetDesk f (s.listening l)).owner a = if s.owner a = some f.desk then none else s.owner a) ∧
    ∃ ws, ws.length ≤ 64 ∧ s.Logs (applySetDesk f (s.listening l)) (abortLog f.desk 5 (s.unit f.desk) ++
        signOffLog f.desk .a ((s.unit f.desk).aborted.signs .a) ++
        signOffLog f.desk .b ((s.unit f.desk).aborted.signs .b) ++ ws) ∧
      ∀ a, s.owner a = some f.desk → releaseEntry f.desk a ∈ ws := by
  have hservice : setService f.desk f.inService (s.listening l) = takeOutOfService f.desk (s.listening l) := by
    rw [hserve]
    exact setService_out (by rw [listening_unit]; exact hin)
  have hw' : tableWf (s.listening l).owners = true := by rw [listening_owners]; exact hw
  obtain ⟨ws, hlen, hlog, hreleased⟩ := takeOutOfService_logs (d := f.desk) hw'
  rw [listening_unit] at hlog
  refine ⟨?_, fun a => ?_, ws, hlen, ?_, fun a ha => hreleased a (by rw [listening_owner]; exact ha)⟩
  · rw [applySetDesk_unit, hservice, takeOutOfService_unit, listening_unit]
  · rw [State.owner, applySetDesk_owners, hservice]
    exact (takeOutOfService_owner hw' f.desk a).trans (by rw [listening_owner])
  · exact (State.Logs.of_eq (listening_journal l s) (listening_nextSeq l s)).trans (applySetDesk_logs (by rw [hservice]; exact hlog))

/-- A desk returned to service: its unit, before routing is worked out (R94). -/
theorem setDesk_back {f : SetDeskFields} (hserve : f.inService = true) (hout : (s.unit f.desk).state = .outOfService) :
    (applySetDesk f (s.listening l)).unit f.desk = { s.unit f.desk with
      state := .vacant
      slotA := { (s.unit f.desk).slotA with state := (s.unit f.desk).slotA.state.repower }
      slotB := { (s.unit f.desk).slotB with state := (s.unit f.desk).slotB.state.repower }
      home := f.home, tone := f.tone, hornHold := f.hornHold } ∧
    (applySetDesk f (s.listening l)).owners = s.owners ∧ (applySetDesk f (s.listening l)).journal = s.journal := by
  have hservice : setService f.desk f.inService (s.listening l) = returnToService f.desk (s.listening l) := by
    rw [hserve]
    exact setService_back (by rw [listening_unit]; exact hout)
  refine ⟨?_, ?_, ?_⟩
  · rw [applySetDesk_unit, hservice, returnToService_unit, listening_unit]
  · rw [applySetDesk_owners, hservice]
    exact listening_owners l s
  · rw [applySetDesk_journal, hservice]
    exact listening_journal l s

/-- With no holder at it, a desk is no supervisor desk to the routing, before or after (R36). -/
theorem supervisorAfter_filter (h : s.hasHolder d = false) (hfree : (∀ e, s.supervisor = some e → e = d) ∨ sup = false) :
    (s.supervisorAfter d sup).filter s.hasHolder = s.supervisor.filter s.hasHolder := by
  have hnone (hd : s.supervisor = some d) : s.supervisor.filter s.hasHolder = none := by simp [hd, h]
  rw [State.supervisorAfter]
  cases sup with
  | true =>
    obtain hfree | hfree := hfree
    · cases hs : s.supervisor with
      | none => simp [h]
      | some e => simp [hfree e hs]
    · cases hfree
  | false =>
    rw [if_neg (by simp)]
    split
    · next hd => exact (hnone hd).symm
    · rfl

/-- Returning a desk to service changes no target: nobody holds it yet (R36, R94). -/
theorem setDesk_back_target {f : SetDeskFields} (hserve : f.inService = true)
    (hout : (s.unit f.desk).state = .outOfService)
    (hfree : (∀ e, s.supervisor = some e → e = f.desk) ∨ f.supervisor = false) (a : Area) :
    s.target a = (applySetDesk f (s.listening l)).target a := by
  obtain ⟨hunit, howners, -⟩ := setDesk_back (l := l) hserve hout
  have hatDesk := applySetDesk_atDesk f (s.listening l)
  generalize applySetDesk f (s.listening l) = x at *
  have hholder : x.hasHolder = s.hasHolder := funext fun e => by
    by_cases he : e = f.desk
    · rw [he, State.hasHolder, hunit, State.hasHolder, hout]
      rfl
    · rw [State.hasHolder, hatDesk.others e he]
      exact listening_hasHolder l s e
  have hlocal : x.isLocal = s.isLocal := (isLocal_congr hatDesk.command).trans (listening_isLocal l s)
  have hsup : x.supervisor = s.supervisorAfter f.desk f.supervisor := by
    rw [hatDesk.supervisor, State.supervisorAfter, listening_supervisor, State.supervisorAfter]
  have hnone : s.hasHolder f.desk = false := by rw [State.hasHolder, hout]; rfl
  have hunowned : x.unownedTarget = s.unownedTarget := by
    simp only [State.unownedTarget, hsup, hholder, hlocal, supervisorAfter_filter hnone hfree]
  have howner : x.owner a = s.owner a := by rw [State.owner, howners, State.owner]
  rw [State.target, State.target, howner, hunowned]

end Configured

/-- Settles O51: SET_DESK's service part by what it makes of the desk's unit and by its entries; a desk returned to service
has no holder, so no target changes with it. -/
theorem deskConfigured : Obligations.DeskConfigured := by
  refine ⟨fun s l tag d sup home tone hold hcom ht hh => ?_, fun s l tag d sup home tone hold hcom ht hh hw hfree => ?_⟩
  · intro hold' sent
    refine ⟨fun hother hsup serve => ?_, fun hfree serve hserve => ?_⟩
    · refine congrArg Host.Outcome.next (routing_served_same hcom 16 tag (readSetDesk_be d serve sup home ht hh) serveSetDesk
        (serveSetDesk_taken ?_ hsup) rfl)
      simpa using hother
    · refine (exec_setDesk_free hcom tag serve home ht hh hfree).trans ?_
      have hsame : setService d serve (s.listening l) = s.listening l :=
        setService_same (f := ⟨d, serve, sup, home, tone, hold'⟩) (by rw [listening_unit]; exact hserve)
      rw [applySetDesk_eq]
      dsimp only
      rw [hsame, State.supervisorAfter, listening_supervisor, listening_unit]
  · intro body hold' u configured unpowered powered aborted signedOff
    have hsupervised : u = { s.listening l with supervisor := s.supervisorAfter d sup } := rfl
    have hunpower : ∀ st : SlotState, st.unpower = unpowered st := fun st => by cases st <;> rfl
    have hrepower : ∀ st : SlotState, st.repower = powered st := fun st => by cases st <;> rfl
    refine ⟨fun hin => ?_, fun hout => ?_⟩
    · obtain ⟨f, hf⟩ : ∃ f : SetDeskFields, f = ⟨d, false, sup, home, tone, hold'⟩ := ⟨_, rfl⟩
      obtain ⟨hunit, howner, ws, hws, hlog, hreleased⟩ := setDesk_out (l := l) (f := f) (by rw [hf]) (by rw [hf]; exact hin) hw
      obtain ⟨haround, hkept⟩ := setDesk_around (s := s) f l (u := u) (by rw [hsupervised, hf]) (by rw [State.inHandover, hunit]; rfl)
      have hexec := exec_setDesk_free (s := s) (l := l) hcom tag false home ht hh hfree
      rw [← hf] at hexec
      have hdesk : f.desk = d := by rw [hf]
      rw [hdesk] at hunit hlog hkept howner hreleased haround
      obtain ⟨rs, hrs, hrlog⟩ := reroute_logs s (applySetDesk f (s.listening l))
      have hlogs := hlog.trans hrlog
      have howners : ∀ a, (reroute s (applySetDesk f (s.listening l))).owner a = (applySetDesk f (s.listening l)).owner a :=
        fun a => by rw [State.owner, reroute_rest, State.owner]
      have habort : (abortLog d 5 (s.unit d)).length = if s.inHandover d then 1 else 0 := abortLog_length _ _ _
      have hahead : BitVec.ofNat 32 (abortLog d 5 (s.unit d)).length = aborted := by
        rw [habort]
        exact apply_ite (BitVec.ofNat 32) _ _ _
      have hlen : (abortLog d 5 (s.unit d) ++ signOffLog d .a ((s.unit d).aborted.signs .a) ++
          signOffLog d .b ((s.unit d).aborted.signs .b) ++ ws ++ rs).length ≤ 2048 := by
        simp only [List.length_append, signOffLog_length, habort]
        split <;> split <;> split <;> omega
      refine ⟨_, hexec, haround, ?_, fun a => (howners a).trans (howner a), fun h hh => ?_, fun hincoming => ?_, fun a ha => ?_⟩
      · rw [hkept, hunit, hf, hunpower, hunpower]
        rfl
      · have hat := hlogs.records_getElem? (i := 0) hlen (w := abortedEntry d h) (by rw [abortLog, hh]; rfl)
        rwa [BitVec.add_zero] at hat
      · rw [aborted_signs_incoming hincoming, aborted_signs_incoming hincoming] at hlogs hlen
        simp only [List.append_assoc] at hlogs hlen
        refine ⟨fun op hop => ?_, fun op hop => ?_⟩
        · rw [← hahead]
          refine hlogs.records_getElem? hlen ?_
          rw [List.getElem?_append_right (le_refl _), Nat.sub_self, show (s.unit d).signs .a = some op from hop]
          rfl
        · have hsecond : (abortLog d 5 (s.unit d)).length + (signOffLog d .a ((s.unit d).signs .a)).length =
              (abortLog d 5 (s.unit d)).length + if (s.signedOn d .a).isSome then 1 else 0 := by
            rw [signOffLog_length]
            rfl
          have hat := hlogs.records_getElem? (i := (abortLog d 5 (s.unit d)).length +
            (signOffLog d .a ((s.unit d).signs .a)).length) (w := signedOff .b op) hlen (by
              rw [List.getElem?_append_right (by omega), List.getElem?_append_right (by omega), Nat.add_sub_cancel_left, Nat.sub_self,
                show (s.unit d).signs .b = some op from hop]
              rfl)
          rw [hsecond, BitVec.ofNat_add, hahead, ← BitVec.add_assoc] at hat
          refine cast (congrArg (fun n => State.records _ n _) ?_) hat
          congr 1
          exact apply_ite (BitVec.ofNat 32) _ _ _
      · exact hlogs.records_of_mem hlen (List.mem_append_left _ (List.mem_append_right _ (hreleased a ha)))
    · obtain ⟨f, hf⟩ : ∃ f : SetDeskFields, f = ⟨d, true, sup, home, tone, hold'⟩ := ⟨_, rfl⟩
      obtain ⟨hunit, howners, hjournal⟩ := setDesk_back (s := s) (l := l) (f := f) (by rw [hf]) (by rw [hf]; exact hout)
      obtain ⟨haround, hkept⟩ := setDesk_around (s := s) f l (u := u) (by rw [hsupervised, hf]) (by rw [State.inHandover, hunit]; rfl)
      have hexec := exec_setDesk_free (s := s) (l := l) hcom tag true home ht hh hfree
      have hsame : reroute s (applySetDesk f (s.listening l)) = applySetDesk f (s.listening l) :=
        reroute_eq (setDesk_back_target (by rw [hf]) (by rw [hf]; exact hout) (by rw [hf]; exact hfree))
      rw [← hf] at hexec
      have hdesk : f.desk = d := by rw [hf]
      rw [hdesk] at hunit haround hkept
      refine ⟨_, hexec, haround, ?_, by rw [hsame]; exact howners, by rw [hsame]; exact hjournal⟩
      rw [hkept, hunit, hf, hrepower, hrepower]
      rfl

end Sys2Proof.Machine
end

section
/-! PROOFS. The bodies of replies, read field by field (R206): the rules of `field` and `slice` over bytes one after the
other, then the layouts of POINT_READ, OPERATOR_READ and the carried list. -/

namespace Sys2Proof.Machine

/-! ### Fields of bytes one after the other -/

section Fields
variable {xs ys : List Byte} {off len : Nat}

/-- A slice that begins after some bytes is a slice of what follows them. -/
@[simp] theorem slice_append_right (h : xs.length ≤ off) : slice (xs ++ ys) off len = slice ys (off - xs.length) len := by
  simp [slice, List.drop_append, List.drop_eq_nil_of_le h]

/-- A slice that ends within some bytes does not see what follows them. -/
@[simp] theorem slice_append_left (h : off + len ≤ xs.length) : slice (xs ++ ys) off len = slice xs off len := by
  rw [slice, slice, List.drop_append_of_le_length (by omega), List.take_append_of_le_length (by rw [List.length_drop]; omega)]

@[simp] theorem slice_cons_pos {b : Byte} (h : 0 < off) : slice (b :: xs) off len = slice xs (off - 1) len := by
  obtain ⟨n, rfl⟩ := Nat.exists_eq_succ_of_ne_zero (Nat.pos_iff_ne_zero.mp h)
  rfl

theorem slice_all (h : xs.length ≤ len) : slice xs 0 len = xs := by
  rw [slice, List.drop_zero, List.take_of_length_le h]

@[simp] theorem field_append_right (h : xs.length ≤ off) : field (xs ++ ys) off len = field ys (off - xs.length) len :=
  congrArg num (slice_append_right h)

@[simp] theorem field_append_left (h : off + len ≤ xs.length) : field (xs ++ ys) off len = field xs off len :=
  congrArg num (slice_append_left h)

@[simp] theorem field_cons_pos {b : Byte} (h : 0 < off) : field (b :: xs) off len = field xs (off - 1) len :=
  congrArg num (slice_cons_pos h)

@[simp] theorem field_cons_zero (b : Byte) (xs : List Byte) : field (b :: xs) 0 1 = b.toNat := by
  simp [field, slice, num]

@[simp] theorem field_be (len n : Nat) : field (be len n) 0 len = n % 256 ^ len := by
  rw [field, slice_all (le_of_eq (be_length len n)), num_be]

end Fields

/-! ### The parts of the replies -/

@[simp] theorem optSeconds_length (x : Option Word32) : (optSeconds x).length = 5 := by
  cases x <;> simp [optSeconds, seconds]

@[simp] theorem seconds_length (t : Word32) : (seconds t).length = 4 := be_length 4 _

@[simp] theorem field_seconds (t : Word32) : field (seconds t) 0 4 = t.toNat := by
  exact (field_be 4 _).trans (Nat.mod_eq_of_lt t.isLt)

theorem num_cons (b : Byte) (xs : List Byte) : num (b :: xs) = b.toNat * 256 ^ xs.length + num xs := by
  rw [← List.singleton_append, num_append]
  simp [num]

/-- An optional run-second count (R206). -/
@[simp] theorem field_optSeconds (x : Option Word32) : field (optSeconds x) 0 5 = (x.map fun t => 4294967296 + t.toNat).getD 0 := by
  rw [field, slice_all (by simp)]
  cases x with
  | none => rfl
  | some t =>
    have ht : num (seconds t) = t.toNat := (num_be 4 _).trans (Nat.mod_eq_of_lt t.isLt)
    rw [optSeconds, num_cons, ht, seconds_length]
    rfl

theorem optByte_toNat {x : Option Nat} (h : ∀ n, x = some n → n < 256) : (optByte x).toNat = x.getD 255 := by
  cases x with
  | none => rfl
  | some n => exact (byte_toNat n).trans (Nat.mod_eq_of_lt (h n rfl))

@[simp] theorem optIndex_toNat (x : Option OpIndex) : (optIndex x).toNat = (x.map (·.val)).getD 255 :=
  optByte_toNat fun n hn => by
    obtain ⟨i, -, rfl⟩ := Option.map_eq_some_iff.mp hn
    omega

@[simp] theorem optDesk_toNat (x : Option Desk) : (optDesk x).toNat = (x.map Desk.code).getD 255 :=
  optByte_toNat fun n hn => by
    obtain ⟨d, -, rfl⟩ := Option.map_eq_some_iff.mp hn
    have := deskCode_lt d
    omega

/-- A yes/no byte, as `yesNo_toNat` leaves it, is the truth value's number. -/
@[simp] theorem ite_eq_toNat (b : Bool) : (if b = true then 1 else 0) = b.toNat := by cases b <;> rfl

theorem target_code_lt (x : Target) : x.code < 7 := by
  cases x with
  | desk d => exact Nat.lt_succ_of_lt (deskCode_lt d)
  | room => decide

/-! ### POINT_READ -/

theorem pointReadBody_none {s : State} {t : Tag} (h : s.point t = none) : pointReadBody s t = be 2 t.val ++
    ([0, 0, 0, 0, 0, 0, 0, 0, 0, 0, 0, 0, 0, 0, 0, 0, 255, 0, 0, 0, 0, 0, 255, 255] : List Byte) := by
  rw [pointReadBody, h]
  rfl

theorem pointReadBody_some {s : State} {t : Tag} {p : Point} (h : s.point t = some p) : pointReadBody s t =
    be 2 t.val ++
      ([1, byte p.origin.code, byte p.area.val, byte p.base, byte p.step, yesNo p.shelvable, byte p.state.code,
        yesNo p.active] ++
      (optSeconds p.state.activation? ++
      ([byte p.effective, yesNo p.silenced, byte p.repeats, optIndex p.lastAck] ++
      (optSeconds p.state.expiry? ++ [optIndex p.state.shelvedBy?, byte (s.target p.area).code])))) := by
  rw [pointReadBody, h]
  simp only [List.append_assoc]

theorem pointRead_laid (s : State) (t : Tag) : s.PointReadLaid t (pointReadBody s t) := by
  have htag (rest : List Byte) : field (be 2 t.val ++ rest) 0 2 = t.val := by
    rw [field_append_left (by simp), field_be]
    exact Nat.mod_eq_of_lt (by omega)
  cases hp : s.point t with
  | none =>
    rw [pointReadBody_none hp]
    refine ⟨by simp, htag _, fun _ i h2 h26 => ?_, fun p h => by rw [hp] at h; cases h⟩
    rw [field_append_right (by simpa using h2), be_length]
    obtain ⟨j, rfl⟩ := Nat.exists_eq_add_of_le h2
    have hj : j < 24 := by omega
    rw [Nat.add_sub_cancel_left]
    interval_cases j <;> rfl
  | some p =>
    rw [pointReadBody_some hp]
    refine ⟨by simp, htag _, fun h => absurd (hp.symm.trans h) (Option.some_ne_none p), fun q hq hl => ?_⟩
    obtain rfl : p = q := by rw [hp] at hq; exact Option.some.inj hq
    obtain ⟨h1, h4, hstep, hrep, heff1, heff, -⟩ := hl
    have htarget := target_code_lt (s.target p.area)
    have hstate : p.state.code < 256 := by cases p.state <;> exact Nat.lt_of_sub_eq_succ rfl
    simp
    refine ⟨by cases p.origin <;> rfl, by omega, by omega, by omega, hstate, by cases p.state <;> rfl, by omega, by omega,
      by cases p.state <;> rfl, by cases p.state <;> rfl, by omega⟩

/-! ### OPERATOR_READ -/

@[simp] theorem displayTagBytes_length (x : Option (List Byte)) : (displayTagBytes x).length = 13 := by
  cases x <;> simp [displayTagBytes]

@[simp] theorem optDay_length (x : Option Nat) : (optDay x).length = 3 := by cases x <;> simp [optDay]

@[simp] theorem areaSetBytes_length (x : AreaSet) : (areaSetBytes x).length = 8 := by simp [areaSetBytes]

theorem field_optDay {x : Option Nat} (h : ∀ v, x = some v → v < 65536) :
    field (optDay x) 0 3 = (x.map fun v => 65536 + v).getD 0 := by
  rw [field, slice_all (by simp)]
  cases x with
  | none => rfl
  | some v =>
    have hv : num (be 2 v) = v := (num_be 2 v).trans (Nat.mod_eq_of_lt (h v rfl))
    rw [optDay, num_cons, hv, be_length]
    rfl

theorem operatorReadBody_none {s : State} {i : OpIndex} (h : s.operator i = none) :
    operatorReadBody s i = [byte i.val, 0] ++ (List.replicate 33 0 ++ [255, 255, 255]) := by
  rw [operatorReadBody, h]
  simp only [List.append_assoc]

theorem operatorReadBody_some {s : State} {i : OpIndex} {r : OperatorRecord} (h : s.operator i = some r) :
    operatorReadBody s i = [byte i.val, 1] ++ (be 3 r.key.toNat ++ ([r.issue, byte r.role.code] ++ (areaSetBytes r.areas ++
      (optDay r.validFrom ++ (optDay r.validUntil ++ (yesNo r.locked :: (displayTagBytes r.displayTag ++
        signedOnBytes s i))))))) := by
  rw [operatorReadBody, h]
  simp [OperatorRecord.bytes]

@[simp] theorem signedOnBytes_length (s : State) (i : OpIndex) : (signedOnBytes s i).length = 3 := by
  rw [signedOnBytes]
  cases s.whereSignedOn i <;> rfl

theorem displayTagBytes_laid (x : Option (List Byte)) (h : ∀ c, x = some c → c.length ≤ 12) :
    (x = none → field (displayTagBytes x) 0 1 = 255 ∧ slice (displayTagBytes x) 1 12 = List.replicate 12 0) ∧
    ∀ c, x = some c → field (displayTagBytes x) 0 1 = c.length ∧
      slice (displayTagBytes x) 1 12 = c ++ List.replicate (12 - c.length) 0 := by
  refine ⟨?_, ?_⟩
  · rintro rfl
    exact ⟨rfl, rfl⟩
  · rintro c rfl
    have hc := h c rfl
    have htake : (c ++ List.replicate 12 0).take 12 = c ++ List.replicate (12 - c.length) (0 : Byte) := by
      rw [List.take_append, List.take_of_length_le hc, List.take_replicate, Nat.min_eq_left (Nat.sub_le _ _)]
    rw [displayTagBytes, field_cons_zero, byte_toNat, slice_cons_pos Nat.one_pos, htake]
    exact ⟨Nat.mod_eq_of_lt (by omega), slice_all (by simp; omega)⟩

theorem signedOnBytes_laid (s : State) (i : OpIndex) :
    (s.whereSignedOn i = none → slice (signedOnBytes s i) 0 3 = [255, 255, 255]) ∧
    ∀ d k, s.whereSignedOn i = some (d, k) → field (signedOnBytes s i) 0 1 = d.code ∧
      field (signedOnBytes s i) 1 1 = k.code ∧ field (signedOnBytes s i) 2 1 = (match s.resultAt d k with
        | some (.holder _) => 0
        | some (.companion _ _) => 1
        | some (.incoming _) => 2
        | some (.refused _) => 3
        | none => 255) := by
  refine ⟨fun h => ?_, fun d k h => ?_⟩
  · rw [signedOnBytes, h]
    rfl
  · rw [signedOnBytes, h]
    refine ⟨?_, ?_, ?_⟩
    · cases d <;> rfl
    · cases k <;> rfl
    · have hres : (s.slot d k).state.result? = s.resultAt d k := rfl
      dsimp only
      rw [hres, field_cons_pos (by simp), field_cons_pos (by simp), field_cons_zero]
      cases s.resultAt d k with
      | none => rfl
      | some r => cases r <;> rfl

theorem operatorRead_laid (s : State) (i : OpIndex) : s.OperatorReadLaid i (operatorReadBody s i) := by
  have hindex (rest : List Byte) : field (byte i.val :: rest) 0 1 = i.val := by
    rw [field_cons_zero, byte_toNat]
    omega
  cases hr : s.operator i with
  | none =>
    rw [operatorReadBody_none hr]
    exact ⟨by simp, hindex _, fun _ => ⟨rfl, rfl, rfl⟩, fun r h => absurd (hr.symm.trans h) (Option.some_ne_none r).symm⟩
  | some r =>
    rw [operatorReadBody_some hr]
    refine ⟨by simp, hindex _, fun h => absurd (hr.symm.trans h) (Option.some_ne_none r), fun q hq hl => ?_⟩
    obtain rfl : r = q := by rw [hr] at hq; exact Option.some.inj hq
    obtain ⟨hkey, hfrom, huntil, -, htag⟩ := hl
    obtain ⟨habsent, hpresent⟩ := displayTagBytes_laid r.displayTag fun c h => (htag c h).1
    obtain ⟨hnowhere, hsigned⟩ := signedOnBytes_laid s i
    have hareas : areaSetOf (slice (areaSetBytes r.areas) 0 8) = r.areas := by
      rw [slice_all (le_of_eq (areaSetBytes_length _)), areaSetOf_bytes]
    simp [field_optDay hfrom, field_optDay huntil, hareas]
    refine ⟨r.key.isLt, by cases r.role <;> rfl, by cases r.validFrom <;> rfl, by cases r.validUntil <;> rfl, habsent, hpresent,
      hnowhere, hsigned⟩

/-! ### The carried list -/

theorem slice_flatMap {α : Type} {f : α → List Byte} {n : Nat} (hf : ∀ a, (f a).length = n) {l : List α} {i : Nat} {a : α}
    (h : l[i]? = some a) {off len : Nat} (hfits : off + len ≤ n) : slice (l.flatMap f) (n * i + off) len = slice (f a) off len := by
  induction l generalizing i with
  | nil => cases h
  | cons b l ih =>
    rw [List.flatMap_cons]
    cases i with
    | zero =>
      obtain rfl : b = a := by simpa using h
      rw [Nat.mul_zero, Nat.zero_add, slice_append_left (by rw [hf]; exact hfits)]
    | succ i =>
      rw [slice_append_right (by rw [hf, Nat.mul_succ]; omega), hf, ← ih (by simpa using h)]
      congr 1
      rw [Nat.mul_succ]
      omega

theorem field_flatMap {α : Type} {f : α → List Byte} {n : Nat} (hf : ∀ a, (f a).length = n) {l : List α} {i : Nat} {a : α}
    (h : l[i]? = some a) {off len : Nat} (hfits : off + len ≤ n) : field (l.flatMap f) (n * i + off) len = field (f a) off len :=
  congrArg num (slice_flatMap hf h hfits)

theorem flatMap_length {α : Type} {f : α → List Byte} {n : Nat} (hf : ∀ a, (f a).length = n) (l : List α) :
    (l.flatMap f).length = n * l.length := by
  rw [List.length_flatMap, List.map_congr_left fun a _ => hf a, List.map_const', List.sum_replicate_nat, Nat.mul_comm]

/-- An entry of a carried list, two bytes (R209). -/
def Carried.bytes (e : Carried) : List Byte :=
  be 2 (e.tag.val + 1024 * (e.standing.code + 3 * (if e.briefed then 1 else 0)))

theorem Carried.bytes_length (e : Carried) : e.bytes.length = 2 := be_length 2 _

theorem Carried.field_bytes (e : Carried) : field e.bytes 0 2 = e.tag.val + 1024 *
    ((match e.standing with | .unack => 0 | .rtnUnack => 1 | .acked => 2) + 3 * e.briefed.toNat) := by
  obtain ⟨tag, standing, briefed⟩ := e
  rw [Carried.bytes, field_be]
  refine (Nat.mod_eq_of_lt ?_).trans ?_
  · cases standing <;> cases briefed <;> simp [Standing.code] <;> omega
  · cases standing <;> cases briefed <;> rfl

theorem deskPart1_eq (s : State) (d : Desk) : deskPart1 s d =
    [byte d.code, 1, byte (s.carried d).length, byte (unbriefed (s.carried d)).length] ++
      (s.carried d).flatMap Carried.bytes := rfl

theorem carriedRead_laid {s : State} {d : Desk} (h : (s.carried d).length ≤ 32) : s.CarriedReadLaid d (deskPart1 s d) := by
  have hlen : (unbriefed (s.carried d)).length ≤ (s.carried d).length := List.length_filter_le _ _
  have hdesk := deskCode_lt d
  rw [deskPart1_eq]
  refine ⟨?_, ?_, rfl, ?_, ?_, fun i e he => ?_⟩
  · rw [List.length_append, flatMap_length Carried.bytes_length]
    rfl
  · simpa using by omega
  · simpa using by omega
  · have hcount : (s.carried d |>.filter fun e => !e.briefed).length = (unbriefed (s.carried d)).length := rfl
    rw [hcount]
    simpa using by omega
  · rw [field_append_right (by simp)]
    have hat := field_flatMap Carried.bytes_length he (off := 0) (len := 2) (by omega)
    rw [Carried.field_bytes] at hat
    refine Eq.trans (congrArg (fun n => field _ n 2) ?_) hat
    simp

end Sys2Proof.Machine
end

section
/-! PROOFS. The layouts of JOURNAL_READ and LIST_READ, and the entries a JOURNAL_READ returns (R182, R208). -/

namespace Sys2Proof.Machine

/-! ### The journal's numbers -/

section Journal
variable {s : State}

/-- The oldest number retained, the next number while none is (R178; log 32). -/
theorem oldestSeq_eq (h : s.JournalLawful) : s.oldestSeq = s.nextSeq - BitVec.ofNat 32 s.journal.length := by
  obtain ⟨-, hseq⟩ := h
  rw [State.oldestSeq]
  cases hj : s.journal with
  | nil => simp
  | cons e rest =>
    rw [hj] at hseq
    have hfirst := congrArg List.head? hseq
    rw [List.length_cons, List.range_succ_eq_map] at hfirst
    simpa using hfirst

theorem journalFrom_within (h : s.JournalLawful) {n : Nat} (hn : n < s.journal.length) :
    journalFrom s (s.nextSeq - BitVec.ofNat 32 (s.journal.length - n)) = s.journal.drop n := by
  have hle : s.journal.length ≤ 2048 := h.1
  have hwithin : (s.nextSeq - BitVec.ofNat 32 (s.journal.length - n) - s.oldestSeq).toNat = n := by
    rw [oldestSeq_eq h]
    have hsub : s.nextSeq - BitVec.ofNat 32 (s.journal.length - n) - (s.nextSeq - BitVec.ofNat 32 s.journal.length) =
        BitVec.ofNat 32 n := by
      apply BitVec.eq_of_toNat_eq
      simp only [BitVec.toNat_sub, BitVec.toNat_ofNat]
      have := s.nextSeq.isLt
      omega
    rw [hsub, BitVec.toNat_ofNat]
    omega
  rw [journalFrom, hwithin, if_pos hn]

theorem journalFrom_ahead (h : s.JournalLawful) {n : Nat} (hn : n < 2147483647) :
    journalFrom s (s.nextSeq + BitVec.ofNat 32 n) = [] := by
  have hle : s.journal.length ≤ 2048 := h.1
  have hnext := s.nextSeq.isLt
  have hwithin : (s.nextSeq + BitVec.ofNat 32 n - s.oldestSeq).toNat = s.journal.length + n := by
    rw [oldestSeq_eq h]
    simp only [BitVec.toNat_sub, BitVec.toNat_add, BitVec.toNat_ofNat]
    omega
  have hnewest : (s.nextSeq + BitVec.ofNat 32 n - s.newestSeq).toNat = n + 1 := by
    have hone : (1 : Word32).toNat = 1 := rfl
    rw [State.newestSeq]
    simp only [BitVec.toNat_sub, BitVec.toNat_add, BitVec.toNat_ofNat, hone]
    omega
  rw [journalFrom, hwithin, hnewest, if_neg (by omega), if_pos (by omega)]

theorem journalFrom_behind (h : s.JournalLawful) {n : Word32}
    (hold : s.journal.length ≤ (n - (s.nextSeq - BitVec.ofNat 32 s.journal.length)).toNat)
    (hnew : 2147483648 ≤ (n - (s.nextSeq - 1)).toNat) : journalFrom s n = s.journal := by
  rw [← oldestSeq_eq h] at hold
  rw [journalFrom, if_neg (by omega), if_neg (by rw [State.newestSeq]; omega)]

end Journal

/-! ### JOURNAL_READ -/

@[simp] theorem optMill_length (x : Option MillTime) : (optMill x).length = 5 := by cases x <;> simp [optMill]

/-- A mill time's day and second, or UNSET (R206). -/
@[simp] theorem field_optMill_day (x : Option MillTime) :
    field (optMill x) 0 2 = match x with | some t => t.day % 65536 | none => 65535 := by
  cases x <;> simp [optMill]

@[simp] theorem field_optMill_second (x : Option MillTime) :
    field (optMill x) 2 3 = match x with | some t => t.second % 16777216 | none => 16777215 := by
  cases x <;> simp [optMill]

@[simp] theorem detailBytes_length (x y : Option Nat) : (detailBytes x y).length = 5 := by simp [detailBytes]

theorem field_detailBytes (x y : Option Nat) : field (detailBytes x y) 0 1 = x.isSome.toNat + 2 * y.isSome.toNat ∧
    field (detailBytes x y) 1 2 = x.getD 0 % 65536 ∧ field (detailBytes x y) 3 2 = y.getD 0 % 65536 := by
  refine ⟨?_, by simp [detailBytes], by simp [detailBytes]⟩
  cases x <;> cases y <;> rfl

theorem kind_code_byte (k : Kind) : k.code % 256 = k.row.1 := by cases k <;> rfl

theorem Entry.bytes_eq (e : Entry) : e.bytes = seconds e.seq ++ (seconds e.runSeconds ++ (optMill e.mill ++
    ([byte e.what.kind.code, optDesk e.what.desk, optIndex e.what.op] ++ (be 2 ((e.what.tag.map (·.val)).getD 65535) ++
      detailBytes e.what.d1 e.what.d2)))) := by
  rw [Entry.bytes]
  simp only [List.append_assoc]

theorem Entry.bytes_length (e : Entry) : e.bytes.length = 23 := by
  rw [Entry.bytes_eq]
  simp

theorem journalRead_laid {s : State} (h : s.JournalLawful) (n : Word32) {count : Nat} (hc : count ≤ 4) :
    s.JournalReadLaid ((journalFrom s n).take count) (journalReadBody s n count) := by
  have hbody : journalReadBody s n count = seconds s.oldestSeq ++ (seconds s.newestSeq ++
      (byte ((journalFrom s n).take count).length :: ((journalFrom s n).take count).flatMap Entry.bytes)) := by
    simp [journalReadBody]
  have hlen : ((journalFrom s n).take count).length ≤ 4 := by rw [List.length_take]; omega
  rw [hbody]
  generalize (journalFrom s n).take count = page at *
  refine ⟨?_, ?_, ?_, ?_, fun i e he => ?_⟩
  · simp [flatMap_length Entry.bytes_length]
    omega
  · rw [field_append_left (by simp), field_seconds, oldestSeq_eq h]
  · simp [State.newestSeq]
  · simpa using by omega
  · intro part
    have hpart (off len : Nat) (hfits : off + len ≤ 23) : part off len = field e.bytes off len := by
      rw [← field_flatMap Entry.bytes_length he hfits]
      simp only [part]
      rw [field_append_right (by simp; omega), field_append_right (by simp; omega), field_cons_pos (by simp; omega)]
      refine congrArg (fun k => field _ k len) ?_
      simp
      omega
    have htag : (e.what.tag.map (·.val)).getD 65535 < 65536 := by
      cases e.what.tag with
      | none => decide
      | some t => exact t.isLt.trans (by decide)
    obtain ⟨hpresent, hd1, hd2⟩ := field_detailBytes e.what.d1 e.what.d2
    simp only [hpart, Nat.reduceAdd, Nat.reduceLeDiff, Entry.bytes_eq]
    refine ⟨by simp, by simp, ?_, ?_, (by simp : _ = e.what.kind.code % 256).trans (kind_code_byte _), by simp, by simp,
      (by simp : _ = _ % 65536).trans (Nat.mod_eq_of_lt htag), by simpa using hpresent, by simpa using hd1,
      by simpa using hd2⟩
    · cases e.mill <;> simp
    · cases e.mill <;> simp

/-! ### LIST_READ -/

section List
variable {s : State} {x : Target}

theorem standing_code {p : Point} (hb : p.base ≤ 3) (st : Standing) :
    p.standing = some st ↔ p.state.code = (match st with | .unack => 1 | .rtnUnack => 3 | .acked => 2) := by
  rw [Point.standing, if_pos hb]
  cases p.state <;> cases st <;> simp [PointState.code]

/-- An item of a list is a point of base priority 1 to 3 in UNACK, RTN_UNACK or ACKED (R6, R43). -/
theorem listed_standing {e : Item} (h : e ∈ s.attentionList x) : ∃ st, e.2.standing = some st := by
  have hstands := (mem_attentionList.mp h).2
  rw [State.standsAt] at hstands
  cases hs : e.2.standing with
  | none => simp [hs] at hstands
  | some st => exact ⟨st, rfl⟩

theorem base_of_standing {p : Point} {st : Standing} (h : p.standing = some st) : p.base ≤ 3 := by
  by_contra hb
  rw [Point.standing, if_neg hb] at h
  cases h

theorem countStanding_eq (st : Standing) : countStanding (s.attentionList x) st =
    ((s.attentionList x).filter fun e => decide (e.2.state.code =
      (match st with | .unack => 1 | .rtnUnack => 3 | .acked => 2))).length := by
  rw [countStanding]
  refine congrArg List.length (List.filter_congr fun e he => ?_)
  obtain ⟨st', hst⟩ := listed_standing he
  exact decide_eq_decide.mpr (standing_code (base_of_standing hst) st)

theorem listItemBytes_length (s : State) (x : Target) (e : Item) : (listItemBytes s x e).length = 6 := by
  simp [listItemBytes]

theorem carriedMark_le (s : State) (x : Target) (t : Tag) : carriedMark s x t ≤ 2 := by
  cases x with
  | room => exact Nat.zero_le _
  | desk d =>
    rw [carriedMark]
    cases (s.carried d).find? fun e => decide (e.tag = t) with
    | none => exact Nat.zero_le _
    | some e => dsimp only; split <;> omega

/-- The six bytes of an item (R208). -/
theorem field_listItemBytes {t : Tag} {p : Point} {st : Standing} {τ : Word32} (hst : p.standing = some st)
    (hτ : p.state.activation? = some τ) (heff : p.effective ≤ p.base) :
    field (listItemBytes s x (t, p)) 0 2 =
      t.val + 1024 * (18 * carriedMark s x t + 9 * p.silenced.toNat + 3 * (p.effective - 1) + st.code) ∧
    field (listItemBytes s x (t, p)) 2 4 = τ.toNat := by
  have hmark := carriedMark_le s x t
  have hb := base_of_standing hst
  have hcode : st.code ≤ 2 := by cases st <;> decide
  have hsil : p.silenced.toNat ≤ 1 := Bool.toNat_le _
  refine ⟨?_, ?_⟩
  · simp [listItemBytes, hst]
    omega
  · simp [listItemBytes, hτ]

/-- The 12 bytes before the items (R208). -/
def listReadHead (s : State) (x : Target) (start : Nat) (page : List Item) : List Byte :=
  byte x.code :: (be 2 (s.attentionList x).length ++ (be 2 (countStanding (s.attentionList x) .unack) ++
    (be 2 (countStanding (s.attentionList x) .rtnUnack) ++ (be 2 (countStanding (s.attentionList x) .acked) ++
    (be 2 start ++ [byte page.length])))))

theorem listReadHead_length (start : Nat) (page : List Item) : (listReadHead s x start page).length = 12 := by
  simp [listReadHead]

theorem listReadBody_eq (s : State) (x : Target) (start count : Nat) : listReadBody s x start count =
    listReadHead s x start (((s.attentionList x).drop start).take count) ++
      (((s.attentionList x).drop start).take count).flatMap (listItemBytes s x) := by
  simp [listReadBody, listReadHead]

theorem listRead_laid {start count : Nat} (hs : start < 65536) (hc : count ≤ 16) (hl : (s.attentionList x).length ≤ 1024) :
    s.ListReadLaid x start count (listReadBody s x start count) := by
  have hcount (st : Standing) : countStanding (s.attentionList x) st < 65536 :=
    (List.length_filter_le _ _).trans_lt (by omega)
  have hpage : (((s.attentionList x).drop start).take count).length ≤ 16 := by rw [List.length_take]; omega
  have hcode := target_code_lt x
  rw [listReadBody_eq]
  have hhead := listReadHead_length (s := s) (x := x) start (((s.attentionList x).drop start).take count)
  unfold State.ListReadLaid
  intro items page standing mark
  refine ⟨?_, ?_, ?_, ?_, ?_, ?_, ?_, ?_, fun i t p hi hlaw => ?_⟩
  · rw [List.length_append, hhead, flatMap_length (listItemBytes_length s x)]
  · rw [field_append_left (by omega)]
    simpa [listReadHead] using by omega
  · rw [field_append_left (by omega)]
    simpa [listReadHead, items] using by omega
  · rw [field_append_left (by omega)]
    simp [listReadHead]
    rw [Nat.mod_eq_of_lt (hcount .unack), countStanding_eq]
  · rw [field_append_left (by omega)]
    simp [listReadHead]
    rw [Nat.mod_eq_of_lt (hcount .rtnUnack), countStanding_eq]
  · rw [field_append_left (by omega)]
    simp [listReadHead]
    rw [Nat.mod_eq_of_lt (hcount .acked), countStanding_eq]
  · rw [field_append_left (by omega)]
    simpa [listReadHead] using hs
  · rw [field_append_left (by omega)]
    simpa [listReadHead, page, items] using by omega
  · intro laid
    have hlisted : (t, p) ∈ s.attentionList x :=
      List.mem_of_mem_drop (List.mem_of_mem_take (List.mem_of_getElem? hi))
    obtain ⟨st, hst⟩ := listed_standing hlisted
    have hmark : mark t = carriedMark s x t := by cases x <;> rfl
    have heff : p.effective ≤ p.base := by
      obtain ⟨-, -, -, -, -, heff, -⟩ := hlaw
      exact heff
    have hitem (off len : Nat) (hfits : off + len ≤ 6) :
        field (listReadHead s x start page ++ page.flatMap (listItemBytes s x)) (12 + off + 6 * i) len =
          field (listItemBytes s x (t, p)) off len := by
      have hhead : (listReadHead s x start page).length = 12 := listReadHead_length _ _
      rw [field_append_right (by omega), hhead, ← field_flatMap (listItemBytes_length s x) hi hfits]
      exact congrArg (fun k => field _ k len) (by omega)
    have hlaid (st : Standing) (τ : Word32) (hτ : p.state.activation? = some τ)
        (hcode : p.state.code = (match st with | .unack => 1 | .rtnUnack => 3 | .acked => 2)) : laid st.code τ := by
      have hst := (standing_code (base_of_standing hst) st).mpr hcode
      obtain ⟨hword, htime⟩ := field_listItemBytes (s := s) (x := x) (t := t) hst hτ heff
      exact ⟨(hitem 0 2 (by omega)).trans (by rw [hword, hmark]), (hitem 2 4 (by omega)).trans htime⟩
    exact ⟨fun τ hτ => hlaid .unack τ (by rw [hτ]; rfl) (by rw [hτ]; rfl),
      fun τ hτ => hlaid .rtnUnack τ (by rw [hτ]; rfl) (by rw [hτ]; rfl),
      fun τ hτ => hlaid .acked τ (by rw [hτ]; rfl) (by rw [hτ]; rfl)⟩

end List

end Sys2Proof.Machine
end

section
/-! PROOFS. The layouts of DESK_READ and TIME_READ (R176, R209), then the statement O49. -/

namespace Sys2Proof.Machine

/-! ### DESK_READ -/

section Desk
variable (s : State) (d : Desk)

theorem slotBytes_length (k : SlotId) : (slotBytes s d k).length = 26 := by
  have hid (st : SlotState) : st.identityBytes.length = 4 := by cases st <;> simp [SlotState.identityBytes]
  simp [slotBytes, hid]

/-- The 26 bytes of a slot, by its state (R209). -/
theorem slotBytes_laid (k : SlotId) : slotBytes s d k = s.slotLaid d k := by
  have hcontacts (c : Contacts) : c.code = c.c1.toNat + 2 * c.c2.toNat := by
    obtain ⟨c1, c2⟩ := c
    cases c1 <;> cases c2 <;> rfl
  have hsigned : s.signedOn d k = (s.slot d k).state.result?.bind SignOn.op? := rfl
  rw [slotBytes, State.slotLaid, hsigned]
  dsimp only
  rw [hcontacts]
  cases (s.slot d k).state with
  | reading b n f => cases b <;> cases f with
    | none => rfl
    | some f => cases f <;> rfl
  | present b key issue r =>
    cases r with
    | companion op nq => cases b <;> cases nq <;> rfl
    | refused reason => cases b <;> cases reason <;> rfl
    | holder op => cases b <;> rfl
    | incoming op => cases b <;> rfl
  | faultRead f => cases f <;> rfl
  | _ => rfl

theorem handoverBytes_length (u : DeskUnit) : (handoverBytes u).length = 12 := by
  rw [handoverBytes]
  cases u.state.handover? <;> simp

theorem inSet_foldl_or (areas : List Area) (acc : AreaSet) (a : Area) :
    inSet (areas.foldl (fun acc a => acc ||| BitVec.twoPow 64 a.val) acc) a = (inSet acc a || decide (a ∈ areas)) := by
  induction areas generalizing acc with
  | nil => simp
  | cons b rest ih =>
    rw [List.foldl_cons, ih]
    have hone : inSet (acc ||| BitVec.twoPow 64 b.val) a = (inSet acc a || decide (a = b)) := by
      simp [inSet, Fin.ext_iff, a.isLt]
    rw [hone, Bool.or_assoc, List.decide_mem_cons]
    rfl

theorem inSet_ownedSet (hw : tableWf s.owners = true) (a : Area) :
    inSet (s.ownedSet d) a = decide (s.owner a = some d) := by
  rw [State.ownedSet, inSet_foldl_or, inSet_zero, Bool.false_or]
  exact decide_eq_decide.mpr (mem_ownedAreas hw)

theorem deskPart0_eq : deskPart0 s d =
    [byte d.code, 0, byte (s.unit d).state.code, optByte ((s.unit d).state.holderSlot?.map SlotId.code),
      yesNo (s.unit d).due.isSome, yesNo (((s.unit d).due.map (·.late)).getD false)] ++
    (optSeconds ((s.unit d).due.map (·.time)) ++ (areaSetBytes (s.ownedSet d) ++ (byte (s.loadOf (.desk d)).w ::
      (be 2 (s.loadOf (.desk d)).l ++ ([yesNo (s.loadOf (.desk d)).flood, byte (s.unit d).lamps.alarm.code,
        byte (s.unit d).lamps.ret.code, byte (s.unit d).lamps.hand.code, byte (s.unit d).lamps.key.code,
        byte (s.unit d).lamps.link.code] ++ (slotBytes s d .a ++ (slotBytes s d .b ++ handoverBytes (s.unit d)))))))) := by
  simp [deskPart0]

theorem deskRead_laid : s.DeskReadLaid d (deskPart0 s d) := by
  have hdesk := deskCode_lt d
  have ha := slotBytes_length s d .a
  have hb := slotBytes_length s d .b
  have hh := handoverBytes_length (s.unit d)
  rw [deskPart0_eq]
  unfold State.DeskReadLaid
  intro u ld lamp record
  refine ⟨?_, ?_, ?_, ?_, ?_, ?_, ?_, ?_, fun hw a => ?_, ?_, ?_, ?_, ?_, ?_, ?_, ?_⟩
  · simp [ha, hb, hh]
  · simpa using by omega
  · rfl
  · simp [u]
    cases (s.unit d).state <;> rfl
  · simp [u]
    cases (s.unit d).state with
    | attended k => cases k <;> rfl
    | handoverOpen k h => cases k <;> rfl
    | handoverReview k h inc => cases k <;> rfl
    | _ => rfl
  · simp [u]
  · simp [u]
    cases (s.unit d).due <;> rfl
  · simp [u]
    cases (s.unit d).due <;> rfl
  · have hset : areaSetOf (slice (areaSetBytes (s.ownedSet d)) 0 8) = s.ownedSet d := by
      rw [slice_all (le_of_eq (areaSetBytes_length _)), areaSetOf_bytes]
    rw [← inSet_ownedSet s d hw]
    simp [hset]
  · simp [ld]
  · simp [ld]
  · simp [ld]
  · have hlamp (p : Pattern) : byte p.code = lamp p := by cases p <;> rfl
    simp [u]
    rw [hlamp, hlamp, hlamp, hlamp, hlamp]
    rfl
  · simp [ha, ← slotBytes_laid]
    exact slice_all (le_of_eq ha)
  · simp [ha, hb, ← slotBytes_laid]
    exact slice_all (le_of_eq hb)
  · simp [ha, hb]
    rw [slice_all (le_of_eq hh), handoverBytes]
    cases (s.unit d).state <;> rfl

end Desk

end Sys2Proof.Machine
end

section
/-! PROOFS. The layout of TIME_READ, with the current shift and the next start (R166, R176, R208). -/

namespace Sys2Proof.Machine

/-! ### The next start -/

section NextStart
variable {l : List Nat} (hok : scheduleOk l = true)
include hok

/-- From any second a start is at most two days away. -/
theorem startSecond_startsUpTo_le (p : Nat) : startSecond l (startsUpTo l p) ≤ p + 172800 := by
  have hk := scheduleOk_pos hok
  have hday : startSecond l ((p / 86400 + 1) * l.length) < (p / 86400 + 2) * 86400 := by
    have := scheduleOk_getD_lt hok ((p / 86400 + 1) * l.length % l.length)
    rw [startSecond, Nat.mul_div_cancel _ hk]
    omega
  have hcount : startsUpTo l p ≤ (p / 86400 + 1) * l.length := by
    rw [startsUpTo_le_iff hok, startSecond, Nat.mul_div_cancel _ hk]
    omega
  rcases Nat.lt_or_eq_of_le hcount with hlt | heq
  · have := startSecond_lt hok hlt
    omega
  · rw [heq]
    omega

/-- The next start is the first after mill time that is later than the last fired boundary (R176). -/
theorem nextStart_first (c : MillClock) :
    c.now.position < startSecond l (nextStart l c) ∧ 0 < difference c.lastFired (startMill l (nextStart l c)) ∧
      ∀ n, n < nextStart l c → c.now.position < startSecond l n → difference c.lastFired (startMill l n) ≤ 0 := by
  have hahead {m : Nat} (h : c.now.position < startSecond l m) := ahead_startMill c.lastFired c.now l h.le
  have hcycle : ahead c.lastFired c.now < millCycle := Nat.mod_lt _ (by decide)
  have hfirst : c.now.position < startSecond l (startsUpTo l c.now.position) :=
    (startsUpTo_le_iff hok _ _).mp (Nat.le_refl _)
  have hnear := startSecond_startsUpTo_le hok c.now.position
  have hfrom {n : Nat} (h : c.now.position < startSecond l n) : startsUpTo l c.now.position ≤ n :=
    (startsUpTo_le_iff hok _ _).mpr h
  rw [nextStart]
  split
  case isTrue hpos => exact ⟨hfirst, hpos, fun n hn hafter => absurd (hfrom hafter) (by omega)⟩
  case isFalse hpos =>
    set q := c.now.position + (millCycle - ahead c.lastFired c.now) with hq
    have hbeyond : q < startSecond l (startsUpTo l q) := (startsUpTo_le_iff hok _ _).mp (Nat.le_refl _)
    have hnear' := startSecond_startsUpTo_le hok q
    refine ⟨by omega, ?_, fun n hn hafter => ?_⟩
    · rw [difference_pos_iff, hahead (by omega)]
      simp only [millCycle] at *
      omega
    · have hupto : startSecond l n ≤ q := by
        by_contra h
        exact absurd ((startsUpTo_le_iff hok _ _).mpr (Nat.lt_of_not_le h)) (by omega)
      have hrise : startSecond l (startsUpTo l c.now.position) ≤ startSecond l n := by
        rcases Nat.lt_or_eq_of_le (hfrom hafter) with hlt | heq
        · exact (startSecond_lt hok hlt).le
        · rw [heq]
      have hfired : ¬ 0 < difference c.lastFired (startMill l (startsUpTo l c.now.position)) := hpos
      by_contra h
      rw [not_le, difference_pos_iff, hahead hafter] at h
      rw [difference_pos_iff, hahead hfirst] at hfired
      simp only [millCycle] at *
      omega

/-- The second of a start tells its index (R166). -/
theorem startIndex_eq {m j x : Nat} (hj : l[j]? = some x) (hx : (startTime l m).second = x) : startIndex l m = j := by
  obtain ⟨-, -, -, hrise⟩ := (scheduleOk_iff l).mp hok
  obtain ⟨hlt, hget⟩ := List.getElem?_eq_some_iff.mp hj
  have hm := Nat.mod_lt m (scheduleOk_pos hok)
  have hsame : l[m % l.length] = l[j] := by
    rw [hget, ← hx, startTime, startIndex, List.getD_eq_getElem?_getD, List.getElem?_eq_getElem hm, Option.getD_some]
  exact (List.Nodup.getElem_inj_iff (hrise.imp fun h => Nat.ne_of_lt h)).mp hsame

end NextStart

/-! ### TIME_READ -/

/-- The 36 bytes of TIME_READ, what mill time says of the shift and the next start being given. -/
def timeBytes (s : State) (shift next : List Byte) : List Byte :=
  seconds s.runSeconds ++ (optMill s.millNow ++ (shift ++ (optMill (s.mill.map (·.lastFired)) ++
    (byte s.schedule.length :: (((s.schedule ++ [0, 0, 0, 0]).take 4).flatMap (be 3) ++
      ([byte s.markMode.code, yesNo s.timeHold] ++ next))))))

theorem timeReadBody_unset {s : State} (h : s.mill = none) :
    timeReadBody s = timeBytes s (be 2 65535 ++ [255]) (be 3 16777215 ++ [255]) := by
  simp only [timeReadBody, timeBytes, h, List.append_assoc, List.cons_append, List.nil_append]

theorem timeReadBody_set {s : State} {c : MillClock} (h : s.mill = some c) :
    timeReadBody s = timeBytes s (be 2 (currentShift s.schedule c.now).1 ++ [byte (currentShift s.schedule c.now).2])
      (be 3 (startTime s.schedule (nextStart s.schedule c)).second ++
        [byte (startIndex s.schedule (nextStart s.schedule c))]) := by
  simp only [timeReadBody, timeBytes, h, List.append_assoc, List.cons_append, List.nil_append]

section Laid
variable {s : State} {shift next : List Byte}

theorem startBytes_length (l : List Nat) : (((l ++ [0, 0, 0, 0]).take 4).flatMap (be 3)).length = 12 := by
  rw [flatMap_length (be_length 3)]
  simp

/-- What TIME_READ shows of the settings and the mill times (R208). -/
theorem timeBytes_laid (hs : shift.length = 3) (hn : next.length = 4) :
    (timeBytes s shift next).length = 36 ∧ field (timeBytes s shift next) 0 4 = s.runSeconds.toNat ∧
    field (timeBytes s shift next) 4 2 = field (optMill s.millNow) 0 2 ∧
    field (timeBytes s shift next) 6 3 = field (optMill s.millNow) 2 3 ∧
    field (timeBytes s shift next) 9 2 = field shift 0 2 ∧ field (timeBytes s shift next) 11 1 = field shift 2 1 ∧
    field (timeBytes s shift next) 12 2 = field (optMill (s.mill.map (·.lastFired))) 0 2 ∧
    field (timeBytes s shift next) 14 3 = field (optMill (s.mill.map (·.lastFired))) 2 3 ∧
    field (timeBytes s shift next) 17 1 = s.schedule.length % 256 ∧
    (∀ j x, (s.schedule ++ [0, 0, 0, 0])[j]? = some x → j < 4 → field (timeBytes s shift next) (18 + 3 * j) 3 = x % 16777216) ∧
    field (timeBytes s shift next) 30 1 = s.markMode.code % 256 ∧
    field (timeBytes s shift next) 31 1 = s.timeHold.toNat ∧ field (timeBytes s shift next) 32 3 = field next 0 3 ∧
    field (timeBytes s shift next) 35 1 = field next 3 1 := by
  have hstarts := startBytes_length s.schedule
  simp only [timeBytes]
  refine ⟨by simp [hs, hn, hstarts], by simp, by simp, by simp, by simp [hs], by simp [hs], by simp [hs], by simp [hs],
    by simp [hs], fun j x hx hj => ?_, by simp [hs, hstarts], by simp [hs, hstarts], by simp [hs, hstarts],
    by simp [hs, hstarts]⟩
  have hget : ((s.schedule ++ [0, 0, 0, 0]).take 4)[j]? = some x := by rw [List.getElem?_take_of_lt hj, hx]
  rw [field_append_right (by simp; omega), field_append_right (by simp; omega), field_append_right (by simp; omega),
    field_append_right (by simp; omega), field_cons_pos (by simp; omega), field_append_left (by rw [hstarts]; simp [hs]; omega)]
  have hfield := field_flatMap (off := 0) (len := 3) (be_length 3) hget (by decide)
  rw [field_be] at hfield
  refine Eq.trans (congrArg (fun k => field _ k 3) ?_) hfield
  simp [hs]
  omega

end Laid

theorem timeRead_laid {s : State} (hok : scheduleOk s.schedule = true) : s.TimeReadLaid (timeReadBody s) := by
  obtain ⟨hpos, hfour, hday, -⟩ := (scheduleOk_iff _).mp hok
  have hbody : ∃ shift next, shift.length = 3 ∧ next.length = 4 ∧ timeReadBody s = timeBytes s shift next := by
    cases hm : s.mill with
    | none => exact ⟨_, _, by simp, by simp, timeReadBody_unset hm⟩
    | some c => exact ⟨_, _, by simp, by simp, timeReadBody_set hm⟩
  have hcommon : (timeReadBody s).length = 36 ∧ field (timeReadBody s) 0 4 = s.runSeconds.toNat ∧
      field (timeReadBody s) 17 1 = s.schedule.length ∧
      (∀ j x, s.schedule[j]? = some x → field (timeReadBody s) (18 + 3 * j) 3 = x) ∧
      (∀ j, s.schedule.length ≤ j → j < 4 → field (timeReadBody s) (18 + 3 * j) 3 = 0) ∧
      field (timeReadBody s) 30 1 = (match s.markMode with | .strict => 0 | .follow => 1) ∧
      field (timeReadBody s) 31 1 = s.timeHold.toNat := by
    obtain ⟨shift, next, hs, hn, heq⟩ := hbody
    obtain ⟨hlen, hrun, -, -, -, -, -, -, hcount, hstart, hmode, hhold, -, -⟩ := timeBytes_laid (s := s) hs hn
    rw [heq]
    refine ⟨hlen, hrun, by omega, fun j x hx => ?_, fun j hj h4 => ?_, ?_, hhold⟩
    · obtain ⟨hlt, -⟩ := List.getElem?_eq_some_iff.mp hx
      have := hday x (List.mem_of_getElem? hx)
      rw [hstart j x (by rw [List.getElem?_append_left hlt, hx]) (by omega), Nat.mod_eq_of_lt (by omega)]
    · refine hstart j 0 ?_ h4
      rw [List.getElem?_append_right hj]
      obtain ⟨k, hk⟩ := Nat.exists_eq_add_of_le hj
      rw [hk, Nat.add_sub_cancel_left]
      have : k < 4 := by omega
      interval_cases k <;> rfl
    · rw [hmode]
      cases s.markMode <;> rfl
  obtain ⟨hlen, hrun, hcount, hstart, hpad, hmode, hhold⟩ := hcommon
  refine ⟨hlen, hrun, hcount, hstart, hpad, hmode, hhold, fun hm => ?_, fun c hm hnow hnows hfired hfireds => ?_⟩
  · obtain ⟨-, -, hday, hsecond, hshift, hindex, hlday, hlsecond, -, -, -, -, hnext, hnexti⟩ :=
      timeBytes_laid (s := s) (shift := be 2 65535 ++ [255]) (next := be 3 16777215 ++ [255]) (by simp) (by simp)
    rw [← timeReadBody_unset hm] at hday hsecond hshift hindex hlday hlsecond hnext hnexti
    rw [hday, hsecond, hshift, hindex, hlday, hlsecond, hnext, hnexti, State.millNow, hm]
    decide
  · obtain ⟨-, -, hd, hsecond, hshift, hindex, hlday, hlsecond, -, -, -, -, hnext, hnexti⟩ :=
      timeBytes_laid (s := s) (shift := be 2 (currentShift s.schedule c.now).1 ++ [byte (currentShift s.schedule c.now).2])
        (next := be 3 (startTime s.schedule (nextStart s.schedule c)).second ++
          [byte (startIndex s.schedule (nextStart s.schedule c))]) (by simp) (by simp)
    rw [← timeReadBody_set hm] at hd hsecond hshift hindex hlday hlsecond hnext hnexti
    have hnowt : s.millNow = some c.now := by rw [State.millNow, hm]; rfl
    have hlast : s.mill.map (·.lastFired) = some c.lastFired := by rw [hm]; rfl
    rw [hnowt, field_optMill_day] at hd
    rw [hnowt, field_optMill_second] at hsecond
    rw [hlast, field_optMill_day] at hlday
    rw [hlast, field_optMill_second] at hlsecond
    have hindexlt (m : Nat) : startIndex s.schedule m < 4 :=
      (Nat.mod_lt m (scheduleOk_pos hok)).trans_le hfour
    obtain ⟨hafter, hlater, hfirst⟩ := nextStart_first hok c
    refine ⟨hd.trans (Nat.mod_eq_of_lt hnow), hsecond.trans (Nat.mod_eq_of_lt (by omega)),
      hlday.trans (Nat.mod_eq_of_lt hfired), hlsecond.trans (Nat.mod_eq_of_lt (by omega)), fun j x hj hle hmax => ?_,
      fun hbefore => ?_, nextStart s.schedule c, hafter, hlater, hfirst, ?_, ?_⟩
    · have hcur := startTime_currentStart_today hok hnow hnows (List.mem_of_getElem? hj) hle hmax
      have hj4 := hindexlt (currentStart s.schedule c.now)
      have hji := startIndex_eq hok hj (congrArg MillTime.second hcur)
      rw [hshift, hindex]
      simp [currentShift, hcur, hji]
      omega
    · obtain ⟨j, hlast⟩ : ∃ j, j + 1 = s.schedule.length := ⟨_, Nat.succ_pred_eq_of_pos hpos⟩
      have hjlt : j < s.schedule.length := by omega
      have hj : s.schedule[j]? = some s.schedule[j] := List.getElem?_eq_getElem hjlt
      have hmax : ∀ y ∈ s.schedule, y ≤ s.schedule[j] := by
        intro y hy
        obtain ⟨i, hi, rfl⟩ := List.mem_iff_getElem.mp hy
        obtain ⟨-, -, -, hrise⟩ := (scheduleOk_iff _).mp hok
        rcases Nat.lt_or_eq_of_le (by omega : i ≤ j) with hlt | heq
        · exact (List.pairwise_iff_getElem.mp hrise _ _ hi hjlt hlt).le
        · subst heq; exact Nat.le_refl _
      have hcur := startTime_currentStart_yesterday hok hnows (List.mem_of_getElem? hj) hmax hbefore
      have hji := startIndex_eq hok hj (congrArg MillTime.second hcur)
      rw [hshift, hindex]
      simp [currentShift, hcur, hji]
      omega
    · rw [hnext]
      have : (startTime s.schedule (nextStart s.schedule c)).second < 86400 := scheduleOk_getD_lt hok _
      simp
      exact (Nat.mod_eq_of_lt (by omega)).trans rfl
    · rw [hnexti]
      have := hindexlt (nextStart s.schedule c)
      simp
      exact (Nat.mod_eq_of_lt (by omega)).trans rfl

end Sys2Proof.Machine
end

section
/-! PROOFS. The queries (O49). -/

namespace Sys2Proof.Machine

/-! ### The bodies of replies in the state in which they are served -/

section Listening
variable (l : Link) (s : State)

@[simp] theorem pointReadBody_listening (t : Tag) : pointReadBody (s.listening l) t = pointReadBody s t := by
  simp [pointReadBody]

theorem listItemBytes_listening (x : Target) : listItemBytes (s.listening l) x = listItemBytes s x := by
  funext e
  cases x <;> simp [listItemBytes, carriedMark]

@[simp] theorem listReadBody_listening (x : Target) (start count : Nat) :
    listReadBody (s.listening l) x start count = listReadBody s x start count := by
  simp [listReadBody, listItemBytes_listening]

@[simp] theorem journalReadBody_listening (n : Word32) (count : Nat) :
    journalReadBody (s.listening l) n count = journalReadBody s n count := by
  simp [journalReadBody, journalFrom, State.oldestSeq, State.newestSeq]

@[simp] theorem slotBytes_listening (d : Desk) (k : SlotId) : slotBytes (s.listening l) d k = slotBytes s d k := by
  simp [slotBytes]

@[simp] theorem deskPart0_listening (d : Desk) : deskPart0 (s.listening l) d = deskPart0 s d := by
  simp [deskPart0, State.ownedSet]

@[simp] theorem deskPart1_listening (d : Desk) : deskPart1 (s.listening l) d = deskPart1 s d := by
  simp [deskPart1]

@[simp] theorem operatorReadBody_listening (i : OpIndex) : operatorReadBody (s.listening l) i = operatorReadBody s i := by
  simp [operatorReadBody, signedOnBytes]

@[simp] theorem timeReadBody_listening : timeReadBody (s.listening l) = timeReadBody s := by
  simp [timeReadBody, State.millNow]

end Listening

/-! ### Serving a query -/

/-- A query that reads a body out is answered with it (R193). -/
theorem readOut_served {α : Type} {s : State} {l : Link} {read : Option α} {x : α} {body : α → State → List Byte}
    (h : s.answers l) (type tag : Byte) (hr : read = some x) (hb : body x (s.listening l) = body x s) :
    takeFrame l type tag (asQuery l (served read fun x => readOut (body x))) s =
      (s.listening l).replies l type tag 0 0 (body x s) :=
  query_served h type tag hr _ rfl (by simp) (by simp [Answer.body, hb])

theorem exec_listRead (l : Link) (tag : Byte) (body : List Byte) (s : State) : exec (.listRead l tag body) s =
    .next (takeFrame l 34 tag (asQuery l (served (readListRead body)
      fun x => readOut ((fun y s => listReadBody s y.1 y.2.1 y.2.2) x))) s) := rfl

theorem exec_journalRead (l : Link) (tag : Byte) (body : List Byte) (s : State) : exec (.journalRead l tag body) s =
    .next (takeFrame l 35 tag (asQuery l (served (readJournalRead body)
      fun x => readOut ((fun y s => journalReadBody s y.1 y.2) x))) s) := rfl

/-- Settles O49: a query reads its answer out of a state that listening leaves as it was, and each body is read field by
field as laid out. -/
theorem queriesAnswered : Obligations.QueriesAnswered := by
  unfold Obligations.QueriesAnswered
  refine ⟨fun s l tag h => ⟨fun t => ?_, fun x start count hs hc => ?_, fun n count hc => ?_, fun d => ⟨?_, ?_⟩,
    fun i => ?_, ?_⟩, fun s => ⟨fun h _ _ hn => journalFrom_within h hn, fun h _ hn => journalFrom_ahead h hn,
    fun h _ ho hn => journalFrom_behind h ho hn, pointRead_laid s, fun _ _ _ hs hc hl => listRead_laid hs hc hl,
    fun h n _ hc => journalRead_laid h n hc, fun d => ⟨deskRead_laid s d, fun h => carriedRead_laid h⟩, operatorRead_laid s,
    fun h => timeRead_laid h⟩⟩
  · exact congrArg Host.Outcome.next (readOut_served (body := fun t s => pointReadBody s t) h 33 tag (readTag_be t) (by simp))
  · rw [exec_listRead, readOut_served h 34 tag (readListRead_be x hs hc) (by simp)]
  · rw [exec_journalRead, readOut_served h 35 tag (readJournalRead_be n hc) (by simp)]
  · exact congrArg Host.Outcome.next (readOut_served (body := fun y s => deskReadBody s y) h 36 tag
      (readDeskRead_byte d).1 (by simp [deskReadBody]))
  · exact congrArg Host.Outcome.next (readOut_served (body := fun y s => deskReadBody s y) h 36 tag
      (readDeskRead_byte d).2 (by simp [deskReadBody]))
  · exact congrArg Host.Outcome.next (readOut_served (body := fun i s => operatorReadBody s i) h 37 tag
      (readIndex_byte i) (by simp))
  · exact congrArg Host.Outcome.next (readOut_served (body := fun _ s => timeReadBody s) h 38 tag (x := ()) rfl (by simp))

end Sys2Proof.Machine
end

section
/-! PROOFS. The shelf list, in order of expiry, then of tag (R108; log 9). -/

namespace Sys2Proof.Machine

/-! ### Putting a shelf entry in its place -/

/-- A run second as one half of the cycle ahead of now ranks it (log 9). -/
def expiryRank (now x : Word32) : Nat := (x - now + 2147483648).toNat

/-- A shelf entry that may stand before another (R108). -/
def shelfOrdered (now : Word32) (e f : Tag × Word32 × OpIndex) : Prop :=
  expiryRank now e.2.1 < expiryRank now f.2.1 ∨ (e.2.1 = f.2.1 ∧ e.1 ≤ f.1)

section Order
variable {now : Word32} {e f g : Tag × Word32 × OpIndex}

theorem expiryRank_inj {x y : Word32} (h : expiryRank now x = expiryRank now y) : x = y := by
  have hsum := BitVec.eq_of_toNat_eq h
  have hsub : x - now = y - now := by simpa using hsum
  simpa using hsub

theorem shelfOrdered_rank (h : shelfOrdered now e f) : expiryRank now e.2.1 ≤ expiryRank now f.2.1 := by
  obtain hlt | ⟨heq, -⟩ := h
  · exact hlt.le
  · rw [heq]

theorem shelfOrdered_trans (hef : shelfOrdered now e f) (hfg : shelfOrdered now f g) : shelfOrdered now e g := by
  obtain hlt | ⟨heq, htag⟩ := hef
  · exact .inl (hlt.trans_le (shelfOrdered_rank hfg))
  · obtain hlt' | ⟨heq', htag'⟩ := hfg
    · exact .inl (by rwa [heq])
    · exact .inr ⟨heq.trans heq', le_trans htag htag'⟩

/-- Whether an entry put into the list goes past another (R108). -/
def shelfPast (now : Word32) (y x : Tag × Word32 × OpIndex) : Bool :=
  expiryBefore now y.2.1 x.2.1 || (!expiryBefore now x.2.1 y.2.1 && decide (y.1 < x.1))

theorem insertShelf_past {rest : List (Tag × Word32 × OpIndex)} (h : shelfPast now f e = true) :
    insertShelf now e (f :: rest) = f :: insertShelf now e rest := if_pos h

theorem insertShelf_here {rest : List (Tag × Word32 × OpIndex)} (h : shelfPast now f e = false) :
    insertShelf now e (f :: rest) = e :: f :: rest := if_neg (by rw [← Bool.not_eq_true] at h; exact h)

theorem shelfPast_iff : shelfPast now f e = true ↔ expiryRank now f.2.1 < expiryRank now e.2.1 ∨
    (¬ expiryRank now e.2.1 < expiryRank now f.2.1 ∧ f.1 < e.1) := by
  have hbefore (a b : Word32) : expiryBefore now a b = decide (expiryRank now a < expiryRank now b) := rfl
  rw [shelfPast, hbefore, hbefore, Bool.or_eq_true, Bool.and_eq_true, Bool.not_eq_true', decide_eq_true_eq,
    decide_eq_false_iff_not, decide_eq_true_eq]

theorem shelfOrdered_of_past (h : shelfPast now f e = true) : shelfOrdered now f e := by
  obtain hlt | ⟨hle, htag⟩ := shelfPast_iff.mp h
  · exact .inl hlt
  · rcases Nat.lt_or_eq_of_le (Nat.le_of_not_lt hle) with hlt | heq
    · exact .inl hlt
    · exact .inr ⟨expiryRank_inj heq, le_of_lt htag⟩

theorem shelfOrdered_of_here (h : shelfPast now f e = false) : shelfOrdered now e f := by
  have hnot : ¬ shelfPast now f e = true := by rw [h]; exact Bool.false_ne_true
  rw [shelfPast_iff] at hnot
  rcases Nat.lt_trichotomy (expiryRank now e.2.1) (expiryRank now f.2.1) with hlt | heq | hgt
  · exact .inl hlt
  · exact .inr ⟨expiryRank_inj heq, le_of_not_gt fun htag => hnot (.inr ⟨by omega, htag⟩)⟩
  · exact absurd (.inl hgt) hnot

theorem insertShelf_perm (e : Tag × Word32 × OpIndex) (l : List (Tag × Word32 × OpIndex)) :
    (insertShelf now e l).Perm (e :: l) := by
  induction l with
  | nil => exact .refl _
  | cons f rest ih =>
    cases h : shelfPast now f e with
    | true =>
      rw [insertShelf_past h]
      exact (ih.cons f).trans (.swap e f rest)
    | false => rw [insertShelf_here h]

theorem insertShelf_ordered {l : List (Tag × Word32 × OpIndex)} (hl : l.Pairwise (shelfOrdered now)) :
    (insertShelf now e l).Pairwise (shelfOrdered now) := by
  induction l with
  | nil => exact List.pairwise_singleton _ _
  | cons f rest ih =>
    obtain ⟨hf, hrest⟩ := List.pairwise_cons.mp hl
    cases h : shelfPast now f e with
    | true =>
      rw [insertShelf_past h]
      refine List.pairwise_cons.mpr ⟨fun z hz => ?_, ih hrest⟩
      obtain rfl | hz := List.mem_cons.mp ((insertShelf_perm e rest).mem_iff.mp hz)
      · exact shelfOrdered_of_past h
      · exact hf z hz
    | false =>
      rw [insertShelf_here h]
      refine List.pairwise_cons.mpr ⟨fun z hz => ?_, hl⟩
      obtain rfl | hz := List.mem_cons.mp hz
      · exact shelfOrdered_of_here h
      · exact shelfOrdered_trans (shelfOrdered_of_here h) (hf z hz)

end Order

/-! ### The shelf list -/

section Shelf
variable {s : State}

theorem mem_shelfEntries {t : Tag} {x : Word32} {o : OpIndex} :
    (t, x, o) ∈ s.shelfEntries ↔ ∃ p, (t, p) ∈ s.points ∧ p.state = .shelved x o := by
  rw [State.shelfEntries, List.mem_filterMap]
  constructor
  · rintro ⟨⟨u, p⟩, hmem, hp⟩
    refine ⟨p, ?_⟩
    dsimp only at hp
    cases hst : p.state with
    | shelved y q =>
      rw [hst] at hp
      cases hp
      exact ⟨hmem, rfl⟩
    | normal => rw [hst] at hp; cases hp
    | unack τ => rw [hst] at hp; cases hp
    | acked τ => rw [hst] at hp; cases hp
    | rtnUnack τ => rw [hst] at hp; cases hp
  · rintro ⟨p, hmem, hp⟩
    exact ⟨(t, p), hmem, by dsimp only; rw [hp]⟩

theorem isShelved_eq (p : Point) : p.isShelved = decide (p.state.code = 4) := by
  obtain ⟨origin, area, base, step, shelvable, state, active, effective, silenced, repeats, lastAck⟩ := p
  cases state <;> rfl

theorem shelfList_perm : s.shelfList.Perm s.shelfEntries := by
  rw [State.shelfList]
  induction s.shelfEntries with
  | nil => exact .refl _
  | cons e rest ih => exact (insertShelf_perm e _).trans (ih.cons e)

theorem shelfList_ordered : s.shelfList.Pairwise (shelfOrdered s.runSeconds) := by
  rw [State.shelfList]
  induction s.shelfEntries with
  | nil => exact .nil
  | cons x rest ih => exact insertShelf_ordered ih

theorem shelfListed (s : State) : s.ShelfListed s.shelfList :=
  ⟨by simp only [shelfList_perm.length_eq, shelfEntries_length, isShelved_eq],
    fun _ _ _ => shelfList_perm.mem_iff.trans mem_shelfEntries, shelfList_ordered⟩

/-- The earliest expiry is the first of the list (R108). -/
def State.earliestExpiry (s : State) : Nat := (s.shelfList.head?.map fun e => e.2.1.toNat).getD 0

theorem earliestExpiry_empty (h : ∀ e ∈ s.points, ∀ x o, e.2.state ≠ .shelved x o) : s.earliestExpiry = 0 := by
  have hnil : s.shelfList = [] := by
    rw [List.eq_nil_iff_forall_not_mem]
    rintro ⟨t, x, o⟩ hmem
    obtain ⟨p, hp, hst⟩ := mem_shelfEntries.mp (shelfList_perm.mem_iff.mp hmem)
    exact h (t, p) hp x o hst
  rw [State.earliestExpiry, hnil]
  rfl

theorem earliestExpiry_first {e : Tag × Point} (he : e ∈ s.points) {x : Word32} {o : OpIndex} (hst : e.2.state = .shelved x o) :
    expiryRank s.runSeconds (BitVec.ofNat 32 s.earliestExpiry) ≤ expiryRank s.runSeconds x ∧
      ∃ y ∈ s.points, ∃ o, y.2.state = .shelved (BitVec.ofNat 32 s.earliestExpiry) o := by
  have hmem : (e.1, x, o) ∈ s.shelfList := shelfList_perm.mem_iff.mpr (mem_shelfEntries.mpr ⟨e.2, he, hst⟩)
  have hordered := shelfList_ordered (s := s)
  rw [State.earliestExpiry]
  cases hl : s.shelfList with
  | nil => rw [hl] at hmem; cases hmem
  | cons a rest =>
    have hfirst : BitVec.ofNat 32 (((List.head? (a :: rest)).map fun e => e.2.1.toNat).getD 0) = a.2.1 := by simp
    obtain ⟨p, hp, hpst⟩ := mem_shelfEntries.mp (shelfList_perm.mem_iff.mp (hl ▸ List.mem_cons_self : (a.1, a.2.1, a.2.2) ∈ s.shelfList))
    rw [hl] at hmem hordered
    rw [hfirst]
    refine ⟨?_, (a.1, p), hp, a.2.2, hpst⟩
    obtain heq | hrest := List.mem_cons.mp hmem
    · have hx : a.2.1 = x := by rw [← heq]
      exact Nat.le_of_eq (congrArg (expiryRank s.runSeconds) hx)
    · exact shelfOrdered_rank (f := (e.1, x, o)) ((List.pairwise_cons.mp hordered).1 _ hrest)

end Shelf

end Sys2Proof.Machine
end

section
/-! PROOFS. The layout of STATUS (R189, R206, R208). -/

namespace Sys2Proof.Machine

/-! ### Sets of targets -/

theorem foldl_add_if {α : Type} (p : α → Bool) (g : α → Nat) (l : List α) (n : Nat) :
    l.foldl (fun acc x => if p x then acc + g x else acc) n = n + (l.map fun x => if p x then g x else 0).sum := by
  induction l generalizing n with
  | nil => rfl
  | cons x rest ih =>
    rw [List.foldl_cons, ih, List.map_cons, List.sum_cons]
    split <;> omega

/-- The number of a set of targets, desk `n` at 2^n and the room at 2^6 (R206). -/
def markedTargets (f : Target → Bool) : Nat :=
  (allDesks.map fun d => if f (.desk d) then 2 ^ d.code else 0).sum + (if f .room then 64 else 0)

theorem markedTargets_lt (f : Target → Bool) : markedTargets f < 256 := by
  have hle (b : Bool) (n : Nat) : (if b then n else 0) ≤ n := by split <;> omega
  have hroom := hle (f .room) 64
  have hdesk (d : Desk) := hle (f (.desk d)) (2 ^ d.code)
  have h0 := hdesk .d0
  have h1 := hdesk .d1
  have h2 := hdesk .d2
  have h3 := hdesk .d3
  have h4 := hdesk .d4
  have h5 := hdesk .d5
  simp only [Desk.code, Nat.reducePow] at h0 h1 h2 h3 h4 h5
  simp only [markedTargets, allDesks, List.map_cons, List.map_nil, List.sum_cons, List.sum_nil, Desk.code, Nat.reducePow]
  omega

theorem targetSet_toNat (p : PerTarget Bool) : (targetSet p).toNat = markedTargets p.get := by
  have hsum : allTargets.foldl (fun acc t => if p.get t then acc + 2 ^ t.code else acc) 0 = markedTargets p.get := by
    rw [foldl_add_if]
    simp only [markedTargets, allTargets, allDesks, List.map_cons, List.map_nil, List.sum_cons, List.sum_nil, Target.code,
      Nat.reducePow]
    omega
  rw [targetSet, hsum, byte_toNat, Nat.mod_eq_of_lt (markedTargets_lt _)]

/-! ### The parts of the reply -/

theorem field_of_getElem {xs : List Byte} {i : Nat} {b : Byte} (h : xs[i]? = some b) : field xs i 1 = b.toNat := by
  obtain ⟨hlt, rfl⟩ := List.getElem?_eq_some_iff.mp h
  rw [field, slice, List.drop_eq_getElem_cons hlt, List.take_succ_cons, List.take_zero]
  simp [num]

/-- The owners of the areas, in order (R208). -/
def ownerBytes (s : State) : List Byte := allAreas.map fun a => optDesk (s.owner a)

theorem ownerBytes_length (s : State) : (ownerBytes s).length = 64 := by simp [ownerBytes, allAreas]

theorem field_ownerBytes (s : State) (a : Area) : field (ownerBytes s) a.val 1 = ((s.owner a).map Desk.code).getD 255 := by
  rw [field_of_getElem (b := optDesk (s.owner a)) (by simp [ownerBytes, allAreas]), optDesk_toNat]

/-- An optional flood pair and optional flash settings (R206). -/
def optFlood : Option FloodPair → List Byte
  | some p => 1 :: (be 2 p.onAt ++ be 2 p.offAt)
  | none => List.replicate 5 0

def optFlash : Option Flash → List Byte
  | some f => 1 :: f.bytes
  | none => List.replicate 5 0

theorem optFlood_length (x : Option FloodPair) : (optFlood x).length = 5 := by cases x <;> simp [optFlood]

theorem optFlash_length (x : Option Flash) : (optFlash x).length = 5 := by cases x <;> simp [optFlash, Flash.bytes]

theorem flashBytes_length (f : Flash) : f.bytes.length = 4 := by simp [Flash.bytes]

theorem shelfBytes_eq (s : State) : shelfBytes s = byte s.shelfList.length :: be 4 s.earliestExpiry := by
  rw [shelfBytes, State.earliestExpiry]
  cases s.shelfList <;> rfl

theorem earliestExpiry_lt (s : State) : s.earliestExpiry < 4294967296 := by
  rw [State.earliestExpiry]
  cases s.shelfList with
  | nil => decide
  | cons e rest => exact e.2.1.isLt

/-- The 106 bytes of STATUS, part by part (R208). -/
theorem statusBody_eq (s : State) : statusBody s =
    seconds s.runSeconds ++ ([optByte (s.commandLink.map Link.code), yesNo s.isLocal, byte s.store.code,
      s.attention.pending, s.attention.enables, yesNo s.attention.globalEnable, byte s.attention.clearMode.code] ++
    (ownerBytes s ++
    ([targetSet (PerTarget.of fun t => (s.loadOf t).flood), byte (s.loadOf .room).w] ++ (be 2 (s.loadOf .room).l ++
    (be 2 s.limits.flood.onAt ++ (be 2 s.limits.flood.offAt ++ (optFlood s.heldFlood ++
    (byte s.shelfList.length :: (be 4 s.earliestExpiry ++ (s.flash.bytes ++ (optFlash s.staged ++
      [optByte (s.horn.owner.map Target.code), byte s.horn.count, yesNo s.horn.output.isSome,
        targetSet s.horn.requests]))))))))))) := by
  rw [statusBody, shelfBytes_eq]
  cases s.heldFlood <;> cases s.staged <;>
    simp only [List.append_assoc, List.cons_append, List.nil_append] <;> rfl

theorem statusLaid (s : State) : s.StatusLaid (statusBody s) := by
  have howners := ownerBytes_length s
  have hheld := optFlood_length s.heldFlood
  have hstaged := optFlash_length s.staged
  have hflash := flashBytes_length s.flash
  have hexpiry := earliestExpiry_lt s
  have hfloods : (targetSet (PerTarget.of fun t => (s.loadOf t).flood)).toNat = markedTargets fun t => (s.loadOf t).flood :=
    (targetSet_toNat _).trans (congrArg markedTargets (funext fun t => PerTarget.get_of _ t))
  have hearliest : field (statusBody s) 89 4 = s.earliestExpiry := by
    rw [statusBody_eq]
    simp [howners, hheld]
    omega
  rw [statusBody_eq] at *
  unfold State.StatusLaid
  intro marked flash rank
  refine ⟨?_, ?_, ?_, ?_, ?_, ?_, ?_, ?_, ?_, fun a => ?_, ?_, ?_, ?_, ?_, ?_, fun h => ?_, fun p h => ?_, ?_,
    fun h => hearliest.trans (earliestExpiry_empty h), fun e he x o hst => ?_, ?_, fun h => ?_, fun f h => ?_, ?_, ?_, ?_, ?_⟩
  · simp [howners, hheld, hstaged, hflash]
  · simp
  · simp [State.commandLink]
    cases s.command with
    | unlatched => rfl
    | latched l t => cases l <;> rfl
    | lost l t => cases l <;> rfl
  · simp [State.isLocal]
    cases s.command <;> rfl
  · simp
    cases s.store <;> rfl
  · simp
  · simp
  · simp
  · simp
    cases s.attention.clearMode <;> rfl
  · rw [field_append_right (by simp; omega), field_append_right (by simp; omega), field_append_left (by rw [howners]; simp; omega),
      ← field_ownerBytes]
    exact congrArg (fun k => field (ownerBytes s) k 1) (by simp; omega)
  · simp [howners]
    exact hfloods
  · simp [howners]
  · simp [howners]
  · simp [howners]
  · simp [howners]
  · rw [h] at hheld ⊢
    simp [howners, optFlood]
    rfl
  · simp [h, howners, optFlood]
  · simp [howners, hheld, shelfList_perm.length_eq, shelfEntries_length, isShelved_eq]
  · rw [hearliest]
    exact earliestExpiry_first he hst
  · simp [flash, howners, hheld, Flash.bytes]
  · rw [h] at hstaged ⊢
    simp [howners, hheld, hflash, optFlash]
    rfl
  · simp [flash, h, howners, hheld, optFlash, Flash.bytes]
  · simp [howners, hheld, hstaged, hflash]
    cases s.horn.owner with
    | none => rfl
    | some x =>
      cases x with
      | room => rfl
      | desk d => cases d <;> rfl
  · simp [howners, hheld, hstaged, hflash]
  · simp [howners, hheld, hstaged, hflash]
  · simp [howners, hheld, hstaged, hflash]
    exact targetSet_toNat _

end Sys2Proof.Machine
end

section
/-! PROOFS. ATTN_CONTROL, ATTN_CLEAR and STATUS (O47). -/

namespace Sys2Proof.Machine

/-! ### Turning on the notices of a pending class -/

theorem readAttnControl_bytes (x : ClassSet) (g : Bool) (m : ClearMode) :
    readAttnControl [x, yesNo g, byte m.code] = some (x, g, m) := by
  cases g <;> cases m <;> simp [readAttnControl] <;> rfl

theorem readAttnClear_byte (x : ClassSet) : readAttnClear [x] = some x := by simp [readAttnClear]

theorem exists_number {i : Nat} (h : i < 8) : ∃ c : AttnClass, c.number = i := by
  interval_cases i
  exacts [⟨.alarm, rfl⟩, ⟨.key, rfl⟩, ⟨.session, rfl⟩, ⟨.handover, rfl⟩, ⟨.flood, rfl⟩, ⟨.intake, rfl⟩, ⟨.time, rfl⟩,
    ⟨.store, rfl⟩]

/-- A set of classes is empty exactly when no class is in it. -/
theorem classSet_ne_zero_iff (x : ClassSet) : x ≠ 0 ↔ ∃ c, classFlag x c = true := by
  refine ⟨fun h => ?_, fun ⟨c, hc⟩ h0 => ?_⟩
  · by_contra hnone
    refine h (BitVec.eq_of_getLsbD_eq fun i hi => ?_)
    obtain ⟨c, rfl⟩ := exists_number hi
    have hc : ¬ classFlag x c = true := fun hc => hnone ⟨c, hc⟩
    rw [classFlag_eq, inClasses, Bool.not_eq_true] at hc
    rw [hc]
    simp
  · rw [h0, classFlag_eq, inClasses] at hc
    simp at hc

theorem turnsOnPending_iff (old new : Attention) : turnsOnPending old new = true ↔
    ∃ c, classFlag new.pending c = true ∧ classFlag new.enabled c = true ∧ classFlag old.enabled c = false := by
  rw [turnsOnPending, decide_eq_true_eq, classSet_ne_zero_iff]
  refine exists_congr fun c => ?_
  simp only [classFlag_eq, inClasses, BitVec.getLsbD_and, BitVec.getLsbD_not, number_lt c, decide_true, Bool.true_and,
    Bool.and_eq_true, Bool.not_eq_true', and_assoc]

/-- ATTN_CONTROL raises a notice when a pending class becomes enabled that was not (R186; log 23). -/
theorem turnsOnPending_controlled (old : Attention) (x : ClassSet) (g : Bool) (m : ClearMode) :
    turnsOnPending old (old.controlled x g m) = true ↔ g = true ∧ ∃ c, classFlag old.pending c = true ∧
      classFlag x c = true ∧ (old.globalEnable = false ∨ classFlag old.enables c = false) := by
  rw [turnsOnPending_iff]
  simp only [classFlag_enabled, Attention.controlled, Bool.and_eq_true, Bool.and_eq_false_iff]
  exact ⟨fun ⟨c, hp, ⟨hg, hx⟩, ho⟩ => ⟨hg, c, hp, hx, ho⟩, fun ⟨hg, c, hp, hx, ho⟩ => ⟨c, hp, ⟨hg, hx⟩, ho⟩⟩

/-! ### The statement -/

section Serve
variable {s : State} {l : Link} {tag : Byte} (h : s.commands l)
include h

theorem attnControl_served (x : ClassSet) (g : Bool) (m : ClearMode) :
    exec (.attnControl l tag [x, yesNo g, byte m.code]) s =
      .next (((if turnsOnPending s.attention (s.attention.controlled x g m) then raiseNotice else id)
        { s.listening l with attention := s.attention.controlled x g m }).replies l 19 tag 0 0
          [s.attention.pending, x, yesNo g, byte m.code]) := by
  refine congrArg Host.Outcome.next (command_served h 19 tag (readAttnControl_bytes x g m) serveAttnControl
    (a := .ok [s.attention.pending, x, yesNo g, byte m.code]) ?_ ?_ rfl)
  · simp only [serveAttnControl, listening_attention]
    split <;> rfl
  · split <;> simp [raiseNotice]

theorem attnClear_served (x : ClassSet) : exec (.attnClear l tag [x]) s =
    .next ({ s.listening l with attention := { s.attention with pending := s.attention.pending &&& ~~~x } }.replies l 20 tag
      0 0 [s.attention.pending &&& ~~~x]) :=
  congrArg Host.Outcome.next (command_served h 20 tag (readAttnClear_byte x) serveAttnClear
    (a := .ok [s.attention.pending &&& ~~~x]) (by simp only [serveAttnClear, clearPending, listening_attention]) (by simp) rfl)

end Serve

theorem listening_commandLink (l : Link) (s : State) : (s.listening l).commandLink = s.commandLink := by
  rw [State.listening, State.timerRestarted]
  cases hc : s.command with
  | unlatched => simp [State.commandLink, hc]
  | latched c at_ => by_cases hcl : c = l <;> simp [State.commandLink, hc, hcl]
  | lost c at_ => simp [State.commandLink, hc]

theorem exec_status (l : Link) (tag : Byte) (s : State) : exec (.status l tag []) s =
    .next (takeFrame l 32 tag (asQuery l (served (readNothing []) (serveStatus l))) s) := rfl

section Status
variable {s u : State} {l : Link} {tag : Byte}

theorem status_served (h : s.answers l) (hs : serveStatus l () (s.listening l) = (u, .ok (statusBody (s.listening l))))
    (hu : u.phase = s.phase) :
    exec (.status l tag []) s = .next (u.replies l 32 tag 0 0 (statusBody (s.listening l))) := by
  rw [exec_status, query_served h 32 tag (read := readNothing []) rfl (serveStatus l) hs hu
    (status := 0) (reason := 0) (body := statusBody (s.listening l)) (by simp [Answer.body])]

/-- In BY_STATUS mode the command link's STATUS clears the flags it reports (R189). -/
theorem serveStatus_clears (hmode : s.attention.clearMode = .byStatus) (hlink : s.commandLink = some l) :
    serveStatus l () (s.listening l) =
      ({ s.listening l with attention := { s.attention with pending := 0 } }, .ok (statusBody (s.listening l))) := by
  rw [serveStatus, if_pos ⟨by simpa using hmode, by rw [listening_commandLink, hlink]⟩, clearPending]
  simp only [listening_attention, BitVec.and_not_self]

theorem serveStatus_keeps (h : s.attention.clearMode = .byCommand ∨ s.commandLink ≠ some l) :
    serveStatus l () (s.listening l) = (s.listening l, .ok (statusBody (s.listening l))) := by
  rw [serveStatus, if_neg]
  rw [listening_commandLink, listening_attention]
  rintro ⟨hmode, hlink⟩
  obtain h | h := h
  · exact absurd (hmode.symm.trans h) ClearMode.noConfusion
  · exact h hlink

end Status

/-- Settles O47: the notice of ATTN_CONTROL class by class, the clearing by STATUS, and the 106 bytes part by part. -/
theorem attentionFlags : Obligations.AttentionFlags := by
  unfold Obligations.AttentionFlags
  refine ⟨fun s l tag x g m h => ?_, fun s l tag h => ⟨fun hmode hlink => ?_, fun hkept => ?_, statusLaid s,
    shelfListed s⟩⟩
  · intro a u code body
    have hbody : body = [x, yesNo g, byte m.code] := by cases m <;> rfl
    clear_value body
    subst hbody
    refine ⟨fun ⟨hg, hturn⟩ => ?_, fun hstill => ?_, attnClear_served h x⟩
    · rw [attnControl_served h, if_pos ((turnsOnPending_controlled _ x g m).mpr ⟨hg, hturn⟩)]
      rfl
    · rw [attnControl_served h, if_neg]
      · rfl
      · rw [turnsOnPending_controlled]
        rintro ⟨hg, c, hp, hx, hoff⟩
        obtain hg' | hstill := hstill
        · exact absurd (hg.symm.trans hg') Bool.noConfusion
        · obtain ⟨hglobal, henabled⟩ := hstill c hp hx
          obtain hoff | hoff := hoff
          · exact absurd (hglobal.symm.trans hoff) Bool.noConfusion
          · exact absurd (henabled.symm.trans hoff) Bool.noConfusion
  · rw [status_served h (serveStatus_clears hmode hlink) (by simp)]
  · rw [status_served h (serveStatus_keeps hkept) (by simp)]

end Sys2Proof.Machine
end

section
/-! PROOFS. The notice-waiting mark of a link and what the blocks do are independent: no operation of the alarm engine, the
area map, the desk units or the time base reads the mark, and each that touches it sets it (R187). One equation for each
operation of Machine/Clock.lean, Machine/Ops.lean and Machine/Desks.lean. -/

namespace Sys2Proof.Machine

/-- A link with a notice waiting. -/
def State.noticeOn (l : Link) (s : State) : State := s.putLink l { s.link l with notice := true }

section NoticeOn
variable (l : Link) (s : State)

/-! ### What reads the state -/

@[simp] theorem noticeOn_runSeconds : (s.noticeOn l).runSeconds = s.runSeconds := rfl
@[simp] theorem noticeOn_mill : (s.noticeOn l).mill = s.mill := rfl
@[simp] theorem noticeOn_schedule : (s.noticeOn l).schedule = s.schedule := rfl
@[simp] theorem noticeOn_markMode : (s.noticeOn l).markMode = s.markMode := rfl
@[simp] theorem noticeOn_timeHold : (s.noticeOn l).timeHold = s.timeHold := rfl
@[simp] theorem noticeOn_limits : (s.noticeOn l).limits = s.limits := rfl
@[simp] theorem noticeOn_operators : (s.noticeOn l).operators = s.operators := rfl
@[simp] theorem noticeOn_supervisor : (s.noticeOn l).supervisor = s.supervisor := rfl
@[simp] theorem noticeOn_attention : (s.noticeOn l).attention = s.attention := rfl
@[simp] theorem noticeOn_store : (s.noticeOn l).store = s.store := rfl
@[simp] theorem noticeOn_point (t : Tag) : (s.noticeOn l).point t = s.point t := rfl
@[simp] theorem noticeOn_unit (d : Desk) : (s.noticeOn l).unit d = s.unit d := rfl
@[simp] theorem noticeOn_slot (d : Desk) (k : SlotId) : (s.noticeOn l).slot d k = s.slot d k := rfl
@[simp] theorem noticeOn_operator (i : OpIndex) : (s.noticeOn l).operator i = s.operator i := rfl
@[simp] theorem noticeOn_owner (a : Area) : (s.noticeOn l).owner a = s.owner a := rfl
@[simp] theorem noticeOn_loadOf (x : Target) : (s.noticeOn l).loadOf x = s.loadOf x := rfl
@[simp] theorem noticeOn_target (a : Area) : (s.noticeOn l).target a = s.target a := rfl
@[simp] theorem noticeOn_inHandover (d : Desk) : (s.noticeOn l).inHandover d = s.inHandover d := rfl
@[simp] theorem noticeOn_carried (d : Desk) : (s.noticeOn l).carried d = s.carried d := rfl
@[simp] theorem noticeOn_holder (d : Desk) : (s.noticeOn l).holder d = s.holder d := rfl
@[simp] theorem noticeOn_holderRecord (d : Desk) : (s.noticeOn l).holderRecord d = s.holderRecord d := rfl
@[simp] theorem noticeOn_holderWith (d : Desk) (r : Role) : holderWith d r (s.noticeOn l) = holderWith d r s := rfl
@[simp] theorem noticeOn_signedOn (d : Desk) (k : SlotId) : (s.noticeOn l).signedOn d k = s.signedOn d k := rfl
@[simp] theorem noticeOn_whereSignedOn (i : OpIndex) : (s.noticeOn l).whereSignedOn i = s.whereSignedOn i := rfl
@[simp] theorem noticeOn_silencer (d : Desk) : (s.noticeOn l).silencer d = s.silencer d := rfl
@[simp] theorem noticeOn_qualifies (d : Desk) (r : OperatorRecord) : (s.noticeOn l).qualifies d r = s.qualifies d r := rfl
@[simp] theorem noticeOn_promotable (d : Desk) (k : SlotId) : (s.noticeOn l).promotable d k = s.promotable d k := rfl
@[simp] theorem noticeOn_toCarry (d : Desk) : (s.noticeOn l).toCarry d = s.toCarry d := rfl

/-! ### The plain updates -/

@[simp] theorem putPoint_noticeOn (t : Tag) (p : Point) : (s.noticeOn l).putPoint t p = (s.putPoint t p).noticeOn l := rfl
@[simp] theorem putUnit_noticeOn (d : Desk) (u : DeskUnit) : (s.noticeOn l).putUnit d u = (s.putUnit d u).noticeOn l := rfl
@[simp] theorem putDeskState_noticeOn (d : Desk) (st : DeskState) :
    (s.noticeOn l).putDeskState d st = (s.putDeskState d st).noticeOn l := rfl
@[simp] theorem putSlotState_noticeOn (d : Desk) (k : SlotId) (st : SlotState) :
    (s.noticeOn l).putSlotState d k st = (s.putSlotState d k st).noticeOn l := rfl
@[simp] theorem setResult_noticeOn (d : Desk) (k : SlotId) (r : SignOn) :
    (s.noticeOn l).setResult d k r = (s.setResult d k r).noticeOn l := rfl
@[simp] theorem putLoad_noticeOn (x : Target) (v : Load) : (s.noticeOn l).putLoad x v = (s.putLoad x v).noticeOn l := rfl
@[simp] theorem mapCarried_noticeOn (d : Desk) (f : List Carried → List Carried) :
    (s.noticeOn l).mapCarried d f = (s.mapCarried d f).noticeOn l := rfl
@[simp] theorem dropCarried_noticeOn (d : Desk) (gone : Tag → Bool) :
    dropCarried d gone (s.noticeOn l) = (dropCarried d gone s).noticeOn l := rfl
@[simp] theorem addWeight_noticeOn (x : Target) (n : Nat) : addWeight x n (s.noticeOn l) = (addWeight x n s).noticeOn l := rfl
@[simp] theorem clearDue_noticeOn (d : Desk) : clearDue d (s.noticeOn l) = (clearDue d s).noticeOn l := rfl
@[simp] theorem mapSlots_noticeOn (d : Desk) (f : SlotState → SlotState) :
    mapSlots d f (s.noticeOn l) = (mapSlots d f s).noticeOn l := rfl
@[simp] theorem silenceList_noticeOn (x : Target) : silenceList x (s.noticeOn l) = (silenceList x s).noticeOn l := rfl
@[simp] theorem append_noticeOn (w : Draft) : append w (s.noticeOn l) = (append w s).noticeOn l := by
  have hstamp : (s.noticeOn l).stamp w = s.stamp w := rfl
  have hjournal : (s.noticeOn l).journal = s.journal := rfl
  have hnext : (s.noticeOn l).nextSeq = s.nextSeq := rfl
  have hput (j : List Entry) (n : Word32) : { s.noticeOn l with journal := j, nextSeq := n } =
      State.noticeOn l { s with journal := j, nextSeq := n } := rfl
  rw [append, hstamp, hjournal, hnext, hput, append]
@[simp] theorem moveMill_noticeOn (t : MillTime) : moveMill t (s.noticeOn l) = (moveMill t s).noticeOn l := rfl
@[simp] theorem setMill_noticeOn (t : MillTime) : setMill t (s.noticeOn l) = (setMill t s).noticeOn l := rfl
@[simp] theorem setOwner_noticeOn (a : Area) (d : Option Desk) : (s.noticeOn l).setOwner a d = (s.setOwner a d).noticeOn l := by
  cases d <;> rfl

@[simp] theorem raiseNotice_noticeOn : raiseNotice (s.noticeOn l) = (raiseNotice s).noticeOn l := by cases l <;> rfl

@[simp] theorem setPending_noticeOn (c : AttnClass) : setPending c (s.noticeOn l) = (setPending c s).noticeOn l := by
  rw [setPending, setPending, apply_ite (State.noticeOn l)]
  refine ite_congr rfl (fun _ => rfl) fun _ => ?_
  dsimp only
  rw [apply_ite (State.noticeOn l)]
  exact ite_congr rfl (fun _ => raiseNotice_noticeOn l { s with attention := _ }) fun _ => rfl

@[simp] theorem enter_noticeOn (w : Draft) : enter w (s.noticeOn l) = (enter w s).noticeOn l := by
  rw [enter, enter]
  cases w.kind.attnClass <;> simp

/-- Working through a list. -/
theorem foldl_noticeOn {α : Type} {f : State → α → State} (h : ∀ s a, f (s.noticeOn l) a = (f s a).noticeOn l) (xs : List α) :
    xs.foldl f (s.noticeOn l) = (xs.foldl f s).noticeOn l := by
  induction xs generalizing s with
  | nil => rfl
  | cons x rest ih => rw [List.foldl_cons, List.foldl_cons, h, ih]

/-! ### Mill time -/

@[simp] theorem fireBoundary_noticeOn (m : Nat) : fireBoundary m (s.noticeOn l) = (fireBoundary m s).noticeOn l := by
  have h := enter_noticeOn l { s with mill := s.mill.map (fun c => { c with lastFired := startTime s.schedule m }) }
    { kind := .shiftStart, d1 := some (startIndex s.schedule m), d2 := some (desksWithHolder s).length }
  simp only [fireBoundary]
  exact congrArg (fun v : State => { v with desks := PerDesk.of (fun d => markDue s.runSeconds (v.unit d)) }) h

@[simp] theorem fireCrossed_noticeOn (range : Nat × Nat) :
    fireCrossed range (s.noticeOn l) = (fireCrossed range s).noticeOn l := by
  have hfrom (n m : Nat) (s : State) : fireFrom m n (s.noticeOn l) = (fireFrom m n s).noticeOn l := by
    induction n generalizing m s with
    | zero => rfl
    | succ n ih => rw [fireFrom, fireBoundary_noticeOn, ih, fireFrom]
  exact hfrom _ _ s

@[simp] theorem moveForward_noticeOn (c : MillClock) (d : Nat) (e : Option Draft) :
    moveForward c d e (s.noticeOn l) = (moveForward c d e s).noticeOn l := by
  cases e <;> simp [moveForward]

/-! ### The alarm engine -/

@[simp] theorem abortHandover_noticeOn (d : Desk) (reason : AbortReason) :
    abortHandover d reason (s.noticeOn l) = (abortHandover d reason s).noticeOn l := by
  rw [abortHandover, abortHandover, noticeOn_unit]
  cases (s.unit d).state <;> simp

@[simp] theorem carryEntry_noticeOn (d : Desk) (t : Tag) (st : Standing) :
    carryEntry d t st (s.noticeOn l) = (carryEntry d t st s).noticeOn l := by
  simp only [carryEntry, noticeOn_carried, mapCarried_noticeOn, abortHandover_noticeOn, apply_ite (State.noticeOn l)]

@[simp] theorem tellDesk_noticeOn (d : Desk) (t : Tag) (st : Option Standing) :
    tellDesk d t st (s.noticeOn l) = (tellDesk d t st s).noticeOn l := by
  cases st with
  | none => rfl
  | some st =>
    cases st with
    | unack => simp only [tellDesk, noticeOn_inHandover, carryEntry_noticeOn, apply_ite (State.noticeOn l)]
    | _ => rfl

@[simp] theorem tellTarget_noticeOn (x : Target) (t : Tag) (st : Option Standing) :
    tellTarget x t st (s.noticeOn l) = (tellTarget x t st s).noticeOn l := by
  cases x <;> simp [tellTarget]

@[simp] theorem changePointAt_noticeOn (x : Target) (t : Tag) (old new : Point) :
    changePointAt x t old new (s.noticeOn l) = (changePointAt x t old new s).noticeOn l := by
  simp only [changePointAt, putPoint_noticeOn, enter_noticeOn, tellTarget_noticeOn, apply_ite (State.noticeOn l)]

@[simp] theorem changePoint_noticeOn (t : Tag) (old new : Point) :
    changePoint t old new (s.noticeOn l) = (changePoint t old new s).noticeOn l := by simp [changePoint]

@[simp] theorem arriveAt_noticeOn (x : Target) (t : Tag) (old new : Point) :
    arriveAt x t old new (s.noticeOn l) = (arriveAt x t old new s).noticeOn l := by
  simp [arriveAt, State.silencedOnArrival]

@[simp] theorem arrive_noticeOn (t : Tag) (old new : Point) :
    arrive t old new (s.noticeOn l) = (arrive t old new s).noticeOn l := by simp [arrive]

@[simp] theorem autoAcknowledge_noticeOn (t : Tag) (old new : Point) :
    autoAcknowledge t old new (s.noticeOn l) = (autoAcknowledge t old new s).noticeOn l := by simp [autoAcknowledge]

@[simp] theorem acknowledge_noticeOn (d : Desk) (op : OpIndex) (t : Tag) (p : Point) :
    acknowledge d op t p (s.noticeOn l) = (acknowledge d op t p s).noticeOn l := by simp [acknowledge]

@[simp] theorem forcedRealarm_noticeOn (d : Desk) (t : Tag) :
    forcedRealarm d t (s.noticeOn l) = (forcedRealarm d t s).noticeOn l := by
  rw [forcedRealarm, forcedRealarm, noticeOn_point]
  cases s.point t with
  | none => rfl
  | some p =>
    dsimp only
    cases p.state with
    | acked τ => simp only [noticeOn_runSeconds, arriveAt_noticeOn, apply_ite (State.noticeOn l)]
    | _ => rfl

@[simp] theorem shelvePoint_noticeOn (t : Tag) (p : Point) (expiry : Word32) (op : OpIndex) :
    shelvePoint t p expiry op (s.noticeOn l) = (shelvePoint t p expiry op s).noticeOn l := by simp [shelvePoint]

@[simp] theorem returnFromShelf_noticeOn (t : Tag) (p : Point) :
    returnFromShelf t p (s.noticeOn l) = (returnFromShelf t p s).noticeOn l := by
  simp only [returnFromShelf, arrive_noticeOn, autoAcknowledge_noticeOn, changePoint_noticeOn, apply_ite (State.noticeOn l)]

@[simp] theorem takeIn_noticeOn (d : Desk) (e : Item) : takeIn d e (s.noticeOn l) = (takeIn d e s).noticeOn l := by
  rw [takeIn, takeIn]
  cases e.2.standing with
  | none => rfl
  | some st => simp only [noticeOn_inHandover, carryEntry_noticeOn, apply_ite (State.noticeOn l)]

/-! ### The desk units -/

@[simp] theorem changeOwner_noticeOn (a : Area) (d : Option Desk) :
    changeOwner a d (s.noticeOn l) = (changeOwner a d s).noticeOn l := by
  rw [changeOwner, setOwner_noticeOn, enter_noticeOn]
  rfl

@[simp] theorem releaseOutside_noticeOn (d : Desk) (kept : AreaSet) :
    releaseOutside d kept (s.noticeOn l) = (releaseOutside d kept s).noticeOn l :=
  foldl_noticeOn l s (fun s a => changeOwner_noticeOn l s a none) _

@[simp] theorem claimHome_noticeOn (d : Desk) (permitted : AreaSet) :
    claimHome d permitted (s.noticeOn l) = (claimHome d permitted s).noticeOn l := by
  refine foldl_noticeOn l s (fun t a => ?_) _
  simp only [noticeOn_owner, noticeOn_unit, changeOwner_noticeOn]
  exact (apply_ite (State.noticeOn l) _ _ _).symm

@[simp] theorem gainHolder_noticeOn (d : Desk) (k : SlotId) (op : OpIndex) (permitted : AreaSet) (n : Nat) :
    gainHolder d k op permitted n (s.noticeOn l) = (gainHolder d k op permitted n s).noticeOn l := by simp [gainHolder]

@[simp] theorem signOff_noticeOn (d : Desk) (k : SlotId) (op : OpIndex) (cause : LossCause) :
    signOff d k op cause (s.noticeOn l) = (signOff d k op cause s).noticeOn l := by simp [signOff]

@[simp] theorem desert_noticeOn (d : Desk) (k : SlotId) (op : OpIndex) (cause : LossCause) :
    desert d k op cause (s.noticeOn l) = (desert d k op cause s).noticeOn l := by
  simp only [desert, noticeOn_promotable]
  cases s.promotable d k.other <;> simp

@[simp] theorem forcedTakeover_noticeOn (d : Desk) (k : SlotId) (h : Handover) (inc : OpIndex) (cause : LossCause) :
    forcedTakeover d k h inc cause (s.noticeOn l) = (forcedTakeover d k h inc cause s).noticeOn l := by
  simp only [forcedTakeover, setResult_noticeOn, enter_noticeOn, putDeskState_noticeOn, clearDue_noticeOn]
  exact foldl_noticeOn l _ (fun s t => forcedRealarm_noticeOn l s d t) _

@[simp] theorem incomingLeaves_noticeOn (d : Desk) (k : SlotId) (cause : Nat) :
    incomingLeaves d k cause (s.noticeOn l) = (incomingLeaves d k cause s).noticeOn l := by
  rw [incomingLeaves, incomingLeaves, noticeOn_unit]
  cases (s.unit d).state <;> simp

@[simp] theorem loseKey_noticeOn (d : Desk) (k : SlotId) (r : SignOn) (cause : LossCause) :
    loseKey d k r cause (s.noticeOn l) = (loseKey d k r cause s).noticeOn l := by
  cases r with
  | refused reason => rfl
  | companion op nq => exact signOff_noticeOn l s d k op cause
  | incoming op => exact incomingLeaves_noticeOn l s d k _
  | holder op =>
    unfold loseKey
    dsimp only [noticeOn_unit]
    cases (s.unit d).state with
    | handoverReview k' h inc => exact forcedTakeover_noticeOn l s d k h inc cause
    | _ => exact desert_noticeOn l s d k op cause

@[simp] theorem revoke_noticeOn (d : Desk) (k : SlotId) (reason : KeyRefusal) :
    revoke d k reason (s.noticeOn l) = (revoke d k reason s).noticeOn l := by
  rw [revoke, revoke, noticeOn_slot]
  cases (s.slot d k).state.result? <;> simp

@[simp] theorem refuseAck_noticeOn (d : Desk) (t : Option Tag) (reason : Reason) (how : Nat) :
    refuseAck d t reason how (s.noticeOn l) = (refuseAck d t reason how s).noticeOn l := by simp [refuseAck]

@[simp] theorem silenceDesk_noticeOn (d : Desk) (op : OpIndex) :
    silenceDesk d op (s.noticeOn l) = (silenceDesk d op s).noticeOn l := by
  have hcount (x : Target) : (s.noticeOn l).silenceCount x = s.silenceCount x := rfl
  have hroom : (s.noticeOn l).roomSilenceCount d = s.roomSilenceCount d := rfl
  simp only [silenceDesk, hcount, hroom, silenceList_noticeOn, ← apply_ite (State.noticeOn l), enter_noticeOn,
    setPending_noticeOn]

@[simp] theorem companionAtOpening_noticeOn (d : Desk) (k : SlotId) (h : Handover) :
    companionAtOpening d k h (s.noticeOn l) = (companionAtOpening d k h s).noticeOn l := by
  rw [companionAtOpening, companionAtOpening, noticeOn_slot]
  cases (s.slot d k.other).state.result? with
  | none => rfl
  | some r =>
    cases r with
    | companion op nq =>
      dsimp only
      rw [noticeOn_operator]
      cases s.operator op <;> simp [apply_ite (State.noticeOn l)]
    | _ => rfl

@[simp] theorem openHandover_noticeOn (d : Desk) (k : SlotId) (op : OpIndex) :
    openHandover d k op (s.noticeOn l) = (openHandover d k op s).noticeOn l := by simp [openHandover]

@[simp] theorem commitHandover_noticeOn (d : Desk) (k : SlotId) (h : Handover) (inc : OpIndex) :
    commitHandover d k h inc (s.noticeOn l) = (commitHandover d k h inc s).noticeOn l := by simp [commitHandover]

@[simp] theorem briefEntry_noticeOn (d : Desk) (inc : OpIndex) (t : Tag) (how : Nat) :
    briefEntry d inc t how (s.noticeOn l) = (briefEntry d inc t how s).noticeOn l := by simp [briefEntry]

@[simp] theorem signOffSlot_noticeOn (d : Desk) (k : SlotId) :
    signOffSlot d k (s.noticeOn l) = (signOffSlot d k s).noticeOn l := by
  rw [signOffSlot, signOffSlot, noticeOn_signedOn]
  cases s.signedOn d k <;> simp

@[simp] theorem takeOutOfService_noticeOn (d : Desk) :
    takeOutOfService d (s.noticeOn l) = (takeOutOfService d s).noticeOn l := by simp [takeOutOfService]

@[simp] theorem returnToService_noticeOn (d : Desk) :
    returnToService d (s.noticeOn l) = (returnToService d s).noticeOn l := by simp [returnToService]

end NoticeOn

end Sys2Proof.Machine
end

section
/-! PROOFS. No request's rule heeds the notice-waiting mark of a link: one equation for each rule of the families, and for
the rule of a frame's type (R187). -/

namespace Sys2Proof.Machine

/-- A rule that does with a notice waiting on a link what it does without, and leaves the notice waiting. -/
def Serve.Heedless (serve : Serve) : Prop :=
  ∀ (l : Link) (s : State), serve (s.noticeOn l) = ((serve s).1.noticeOn l, (serve s).2)

theorem served_heedless {α : Type} (read : Option α) {serve : α → Serve} (h : ∀ x, (serve x).Heedless) :
    (served read serve).Heedless := by
  intro l s
  cases read with
  | none => rfl
  | some x => exact h x l s

theorem readOut_heedless {body : State → List Byte} (h : ∀ l s, body (s.noticeOn l) = body s) : (readOut body).Heedless :=
  fun l s => by rw [readOut, h]; rfl

/-! ### Points -/

theorem serveAck_heedless (x : Desk × Tag) : (serveAck x).Heedless := by
  intro l s
  simp only [serveAck, noticeOn_holderWith, noticeOn_point]
  cases holderWith x.1 .operator s with
  | error e => simp [ackRefusal]
  | ok r =>
    cases s.point x.2 with
    | none => simp [ackRefusal]
    | some p =>
      have hmay : (s.noticeOn l).mayAcknowledge x.1 r.2 p = s.mayAcknowledge x.1 r.2 p := rfl
      simp only [hmay, ackRefusal, refuseAck_noticeOn, acknowledge_noticeOn]
      split <;> [rfl; split <;> rfl]

theorem serveSilence_heedless (d : Desk) : (serveSilence d).Heedless := by
  intro l s
  simp only [serveSilence, noticeOn_silencer, silenceDesk_noticeOn]
  cases s.silencer d <;> rfl

theorem shelfTests_noticeOn (l : Link) (s : State) (d : Desk) (t : Tag) :
    shelfTests d t (s.noticeOn l) = shelfTests d t s := rfl

theorem serveShelve_heedless (x : Desk × Tag × Nat) : (serveShelve x).Heedless := by
  intro l s
  have hshelf : (s.noticeOn l).shelfEntries = s.shelfEntries := rfl
  simp only [serveShelve, shelfTests_noticeOn, hshelf, applyShelve, noticeOn_runSeconds, enter_noticeOn,
    shelvePoint_noticeOn]
  cases shelfTests x.1 x.2.1 s with
  | error e => rfl
  | ok r =>
    obtain ⟨op, p⟩ := r
    dsimp only
    split <;> [rfl; (split <;> [rfl; (split <;> rfl)])]

theorem serveUnshelve_heedless (x : Desk × Tag) : (serveUnshelve x).Heedless := by
  intro l s
  simp only [serveUnshelve, shelfTests_noticeOn, noticeOn_runSeconds, enter_noticeOn, returnFromShelf_noticeOn]
  cases shelfTests x.1 x.2 s with
  | error e => rfl
  | ok r =>
    obtain ⟨op, p⟩ := r
    dsimp only
    cases p.state <;> rfl

theorem moveArea_noticeOn (l : Link) (s : State) (t : Tag) (a : Area) :
    moveArea t a (s.noticeOn l) = (moveArea t a s).noticeOn l := by
  simp only [moveArea, noticeOn_point, noticeOn_target, putPoint_noticeOn, tellTarget_noticeOn]
  cases s.point t with
  | none => rfl
  | some p =>
    cases s.target a <;> simp [apply_ite (State.noticeOn l)]

theorem applySetPoint_noticeOn (l : Link) (s : State) (t : Tag) (c : StoredPoint) :
    applySetPoint t c (s.noticeOn l) = (applySetPoint t c s).noticeOn l := by
  simp only [applySetPoint, noticeOn_point, noticeOn_runSeconds, putPoint_noticeOn, changePoint_noticeOn, moveArea_noticeOn]
  cases s.point t <;> rfl

theorem serveSetPoint_heedless (x : Tag × StoredPoint) : (serveSetPoint x).Heedless := fun l s => by
  simp only [serveSetPoint, accepted, applySetPoint_noticeOn]

theorem serveClearPoint_heedless (t : Tag) : (serveClearPoint t).Heedless := by
  intro l s
  simp only [serveClearPoint, noticeOn_point]
  cases s.point t with
  | none => rfl
  | some p => dsimp only; split <;> rfl

/-! ### Areas, operators, desks -/

theorem serveAssignArea_heedless (x : Area × Option Desk) : (serveAssignArea x).Heedless := by
  intro l s
  have hin (d : Option Desk) : (s.noticeOn l).deskInHandover d = s.deskInHandover d := rfl
  simp only [serveAssignArea, hin, noticeOn_owner, noticeOn_holderRecord, changeOwner_noticeOn, accepted]
  split
  · rfl
  · cases x.2 with
    | none => dsimp only; split <;> rfl
    | some d =>
      dsimp only
      cases s.holderRecord d with
      | none => rfl
      | some r => dsimp only; split <;> [(split <;> rfl); rfl]

theorem operatorChanged_noticeOn (l : Link) (s : State) (i : OpIndex) (place : Option (Desk × SlotId)) (m n : Nat) :
    operatorChanged i place m n (s.noticeOn l) = (operatorChanged i place m n s).noticeOn l := enter_noticeOn l s _

theorem applyConsequence_noticeOn (l : Link) (s : State) (d : Desk) (k : SlotId) (i : OpIndex) (new : OperatorRecord)
    (c : Consequence) :
    applyConsequence d k i new c (s.noticeOn l) = (applyConsequence d k i new c s).noticeOn l := by
  cases c <;> simp [applyConsequence]

theorem applySetOperator_noticeOn (l : Link) (s : State) (i : OpIndex) (new : OperatorRecord) :
    applySetOperator i new (s.noticeOn l) = (applySetOperator i new s).noticeOn l := by
  have hput : { s.noticeOn l with operators := tablePut s.operators i new } =
      State.noticeOn l { s with operators := tablePut s.operators i new } := rfl
  simp only [applySetOperator, noticeOn_operator, noticeOn_operators, noticeOn_whereSignedOn, hput,
    operatorChanged_noticeOn, applyConsequence_noticeOn]
  cases s.operator i with
  | none => rfl
  | some old => cases s.whereSignedOn i <;> rfl

theorem serveSetOperator_heedless (x : OpIndex × OperatorRecord) : (serveSetOperator x).Heedless := by
  intro l s
  have htaken : keyTaken x.1 x.2.key (s.noticeOn l) = keyTaken x.1 x.2.key s := rfl
  simp only [serveSetOperator, htaken, accepted, applySetOperator_noticeOn]
  split <;> rfl

theorem serveClearOperator_heedless (i : OpIndex) : (serveClearOperator i).Heedless := by
  intro l s
  have hput : { s.noticeOn l with operators := tableErase s.operators i } =
      State.noticeOn l { s with operators := tableErase s.operators i } := rfl
  simp only [serveClearOperator, noticeOn_operator, noticeOn_operators, noticeOn_whereSignedOn, hput,
    operatorChanged_noticeOn, revoke_noticeOn, accepted]
  cases s.operator i with
  | none => rfl
  | some old => cases s.whereSignedOn i <;> rfl

theorem setService_noticeOn (l : Link) (s : State) (d : Desk) (serve : Bool) :
    setService d serve (s.noticeOn l) = (setService d serve s).noticeOn l := by
  have hin : (s.noticeOn l).inService d = s.inService d := rfl
  simp only [setService, hin, takeOutOfService_noticeOn, returnToService_noticeOn, apply_ite (State.noticeOn l)]

theorem setSupervisor_noticeOn (l : Link) (s : State) (d : Desk) (sup : Bool) :
    setSupervisor d sup (s.noticeOn l) = (setSupervisor d sup s).noticeOn l := by
  simp only [setSupervisor, noticeOn_supervisor, apply_ite (State.noticeOn l)]
  rfl

theorem applySetDesk_noticeOn (l : Link) (s : State) (f : SetDeskFields) :
    applySetDesk f (s.noticeOn l) = (applySetDesk f s).noticeOn l := by
  simp only [applySetDesk, setService_noticeOn, setSupervisor_noticeOn, noticeOn_unit, putUnit_noticeOn]

theorem serveSetDesk_heedless (f : SetDeskFields) : (serveSetDesk f).Heedless := by
  intro l s
  have helse : (s.noticeOn l).supervisedElsewhere f.desk = s.supervisedElsewhere f.desk := rfl
  simp only [serveSetDesk, helse, applySetDesk_noticeOn]
  split <;> rfl

/-! ### Handovers -/

theorem serveHandoverOpen_heedless (d : Desk) : (serveHandoverOpen d).Heedless := by
  intro l s
  have hmay : mayOpen d (s.noticeOn l) = mayOpen d s := rfl
  simp only [serveHandoverOpen, hmay, openHandover_noticeOn]
  cases mayOpen d s <;> rfl

theorem serveHandoverCancel_heedless (d : Desk) : (serveHandoverCancel d).Heedless := by
  intro l s
  have hmay : mayCancel d (s.noticeOn l) = mayCancel d s := rfl
  simp only [serveHandoverCancel, hmay, abortHandover_noticeOn, accepted]
  cases mayCancel d s <;> rfl

theorem serveHandoverCommit_heedless (d : Desk) : (serveHandoverCommit d).Heedless := by
  intro l s
  have hmay : mayCommit d (s.noticeOn l) = mayCommit d s := rfl
  simp only [serveHandoverCommit, hmay, commitHandover_noticeOn]
  cases mayCommit d s <;> rfl

theorem serveBrief_heedless (x : Desk × Tag) : (serveBrief x).Heedless := by
  intro l s
  have hbody (u : State) : briefBody x.1 x.2 (u.noticeOn l) = briefBody x.1 x.2 u := rfl
  simp only [serveBrief, noticeOn_unit, briefEntry_noticeOn, ← apply_ite (State.noticeOn l), hbody]
  cases (s.unit x.1).state with
  | handoverReview k h inc =>
    dsimp only
    cases h.carried.find? fun e => decide (e.tag = x.2) <;> rfl
  | _ => rfl

/-! ### Time and settings -/

theorem timeMark_heedless (l : Link) (s : State) (t : MillTime) :
    timeMark t (s.noticeOn l) = ((timeMark t s).1.noticeOn l, (timeMark t s).2) := by
  simp only [timeMark, noticeOn_mill]
  cases s.mill with
  | none =>
    simp only [markUnset, noticeOn_timeHold, enter_noticeOn, setMill_noticeOn]
    split <;> rfl
  | some c =>
    have hkeep (d : Int) (cls : MarkClass) :
        keepTime d cls (s.noticeOn l) = ((keepTime d cls s).1.noticeOn l, (keepTime d cls s).2) := by
      simp only [keepTime, noticeOn_timeHold, enter_noticeOn]
    have htake (d : Int) (cls : MarkClass) (e : Option Draft) :
        takeMark c t d cls e (s.noticeOn l) = ((takeMark c t d cls e s).1.noticeOn l, (takeMark c t d cls e s).2) := by
      simp only [takeMark, noticeOn_schedule, moveMill_noticeOn, moveForward_noticeOn, enter_noticeOn]
      cases e <;> split <;> rfl
    simp only [markSet, noticeOn_timeHold, noticeOn_markMode, hkeep, htake]
    split
    · rfl
    · cases classOf s.markMode (difference c.now t) <;> rfl

theorem serveTimeMark_heedless (t : MillTime) : (serveTimeMark t).Heedless := fun l s => by
  simp only [serveTimeMark, timeMark_heedless]

theorem serveSchedule_heedless (x : List Nat × MarkMode × Bool) : (serveSchedule x).Heedless := fun _ _ => rfl

theorem serveSetLimits_heedless (x : Limits) : (serveSetLimits x).Heedless := fun _ _ => rfl

theorem serveSetFlash_heedless (x : Flash) : (serveSetFlash x).Heedless := fun _ _ => rfl

theorem serveStoreSave_heedless : (serveStoreSave ()).Heedless := by
  intro l s
  have hsnap : (s.noticeOn l).snapshot = s.snapshot := rfl
  simp only [serveStoreSave, noticeOn_store, hsnap]
  cases s.store <;> rfl

theorem serveReset_heedless : (serveReset ()).Heedless := fun _ _ => rfl

/-! ### Attention and queries -/

theorem serveAttnControl_heedless (x : ClassSet × Bool × ClearMode) : (serveAttnControl x).Heedless := by
  intro l s
  have hput (a : Attention) : { s.noticeOn l with attention := a } = State.noticeOn l { s with attention := a } := rfl
  simp only [serveAttnControl, noticeOn_attention, hput, raiseNotice_noticeOn, ← apply_ite (State.noticeOn l)]

theorem serveAttnClear_heedless (x : ClassSet) : (serveAttnClear x).Heedless := fun _ _ => rfl

theorem serveStatus_heedless (m : Link) : (serveStatus m ()).Heedless := by
  intro l s
  have hbody : statusBody (s.noticeOn l) = statusBody s := rfl
  have hlink : (s.noticeOn l).commandLink = s.commandLink := rfl
  have hclear (x : ClassSet) : clearPending x (s.noticeOn l) = (clearPending x s).noticeOn l := rfl
  simp only [serveStatus, noticeOn_attention, hbody, hlink, hclear, ← apply_ite (State.noticeOn l)]

theorem commandServe_heedless (type : Byte) (body : List Byte) : (commandServe type body).Heedless := by
  rw [commandServe]
  split
  · exact served_heedless _ serveSetPoint_heedless
  · exact served_heedless _ serveClearPoint_heedless
  · exact served_heedless _ serveAssignArea_heedless
  · exact served_heedless _ serveSetOperator_heedless
  · exact served_heedless _ serveClearOperator_heedless
  · exact served_heedless _ serveAck_heedless
  · exact served_heedless _ serveSilence_heedless
  · exact served_heedless _ serveShelve_heedless
  · exact served_heedless _ serveUnshelve_heedless
  · exact served_heedless _ serveHandoverOpen_heedless
  · exact served_heedless _ serveHandoverCancel_heedless
  · exact served_heedless _ serveHandoverCommit_heedless
  · exact served_heedless _ serveBrief_heedless
  · exact served_heedless _ serveTimeMark_heedless
  · exact served_heedless _ serveSchedule_heedless
  · exact served_heedless _ serveSetDesk_heedless
  · exact served_heedless _ serveSetLimits_heedless
  · exact served_heedless _ serveSetFlash_heedless
  · exact served_heedless _ serveAttnControl_heedless
  · exact served_heedless _ serveAttnClear_heedless
  · exact served_heedless _ fun _ => serveStoreSave_heedless
  · exact served_heedless _ fun _ => serveReset_heedless
  · exact fun _ _ => rfl

theorem queryServe_heedless (m : Link) (type : Byte) (body : List Byte) : (queryServe m type body).Heedless := by
  rw [queryServe]
  split
  · exact served_heedless _ fun _ => serveStatus_heedless m
  · exact served_heedless _ fun _ => readOut_heedless fun _ _ => rfl
  · exact served_heedless _ fun _ => readOut_heedless fun _ _ => rfl
  · exact served_heedless _ fun _ => readOut_heedless fun _ _ => rfl
  · exact served_heedless _ fun _ => readOut_heedless fun _ _ => rfl
  · exact served_heedless _ fun _ => readOut_heedless fun _ _ => rfl
  · exact served_heedless _ fun _ => readOut_heedless fun _ _ => rfl
  · exact fun _ _ => rfl

end Sys2Proof.Machine
end

section
/-! PROOFS. How many entries a command that may change routing makes at most, so that the ring retains the entry made
before it (R178). -/

namespace Sys2Proof.Machine

/-- At most `n` entries are made between `s` and `t`. -/
def State.LogsUpTo (n : Nat) (s t : State) : Prop := ∃ ws, ws.length ≤ n ∧ s.Logs t ws

section UpTo
variable {m n : Nat} {s t u : State}

theorem State.Logs.upTo {ws : List Draft} (h : s.Logs t ws) (hn : ws.length ≤ n) : s.LogsUpTo n t := ⟨ws, hn, h⟩

theorem State.LogsUpTo.of_eq (hj : t.journal = s.journal) (hn : t.nextSeq = s.nextSeq) : s.LogsUpTo n t :=
  (State.Logs.of_eq hj hn).upTo (Nat.zero_le n)

theorem State.LogsUpTo.mono (h : s.LogsUpTo m t) (hmn : m ≤ n) : s.LogsUpTo n t := by
  obtain ⟨ws, hlen, hlog⟩ := h
  exact hlog.upTo (hlen.trans hmn)

theorem State.LogsUpTo.trans (h : s.LogsUpTo m t) (h' : t.LogsUpTo n u) : s.LogsUpTo (m + n) u := by
  obtain ⟨ws, hlen, hlog⟩ := h
  obtain ⟨vs, hlen', hlog'⟩ := h'
  exact (hlog.trans hlog').upTo (by rw [List.length_append]; omega)

/-- Changes outside the journal make no entry, before or after. -/
theorem State.LogsUpTo.congr (h : s.LogsUpTo n t) (hj : u.journal = t.journal) (hn : u.nextSeq = t.nextSeq) :
    s.LogsUpTo n u := h.trans (n := 0) (.of_eq hj hn)

theorem State.LogsUpTo.from (h : t.LogsUpTo n u) (hj : t.journal = s.journal) (hn : t.nextSeq = s.nextSeq) :
    s.LogsUpTo n u := by
  simpa using State.LogsUpTo.trans (m := 0) (.of_eq hj hn) h

theorem State.LogsUpTo.enter (w : Draft) (hj : t.journal = s.journal) (hn : t.nextSeq = s.nextSeq) :
    s.LogsUpTo (n + 1) (Machine.enter w t) := (State.Logs.enter_after hj hn).upTo (Nat.le_add_left 1 n)

theorem State.LogsUpTo.foldl {α : Type} {f : State → α → State} (h : ∀ (s : State) a, s.LogsUpTo n (f s a)) (l : List α) (s : State) :
    s.LogsUpTo (n * l.length) (l.foldl f s) := by
  induction l generalizing s with
  | nil => exact .of_eq rfl rfl
  | cons a rest ih => exact ((h s a).trans (ih _)).mono (by rw [List.length_cons, Nat.mul_succ]; omega)

end UpTo

/-! ### Points -/

section Points
variable (s : State)

theorem abortHandover_upTo (d : Desk) (reason : AbortReason) : s.LogsUpTo 1 (abortHandover d reason s) := by
  refine (abortHandover_logs d reason s).upTo ?_
  rw [abortLog]
  cases (s.unit d).state.handover? <;> simp

theorem carryEntry_upTo (d : Desk) (t : Tag) (st : Standing) : s.LogsUpTo 1 (carryEntry d t st s) := by
  rw [carryEntry]
  split
  · exact .of_eq rfl rfl
  · split
    · exact .of_eq rfl rfl
    · exact abortHandover_upTo s d _

theorem tellTarget_upTo (x : Target) (t : Tag) (st : Option Standing) : s.LogsUpTo 1 (tellTarget x t st s) := by
  cases x with
  | room => exact .of_eq rfl rfl
  | desk d =>
    cases st with
    | none => exact .of_eq rfl rfl
    | some st =>
      cases st with
      | unack =>
        rw [tellTarget, tellDesk]
        split
        · exact carryEntry_upTo s d t .unack
        · exact .of_eq rfl rfl
      | _ => exact .of_eq rfl rfl

theorem arriveAt_upTo (x : Target) (t : Tag) (old new : Point) : s.LogsUpTo 2 (arriveAt x t old new s) := by
  rw [arriveAt, changePointAt]
  dsimp only
  split
  · refine State.LogsUpTo.trans (m := 1) (.enter _ ?_ ?_) (tellTarget_upTo _ x t _) <;> rfl
  · split
    · exact State.LogsUpTo.mono (m := 1) ((tellTarget_upTo _ x t none).from rfl rfl) (by decide)
    · exact .of_eq rfl rfl

theorem forcedRealarm_upTo (d : Desk) (t : Tag) : s.LogsUpTo 2 (forcedRealarm d t s) := by
  rw [forcedRealarm]
  split
  · split
    · split
      · exact arriveAt_upTo s _ t _ _
      · exact .of_eq rfl rfl
    · exact .of_eq rfl rfl
  · exact .of_eq rfl rfl

end Points

/-! ### Areas and keys -/

section Keys
variable {s : State}

theorem changeOwner_upTo (s : State) (a : Area) (o : Option Desk) : s.LogsUpTo 1 (changeOwner a o s) :=
  (changeOwner_logs a o s).upTo (Nat.le_refl 1)

theorem releaseOutside_upTo (hw : tableWf s.owners = true) (d : Desk) (kept : AreaSet) :
    s.LogsUpTo 64 (releaseOutside d kept s) := (releaseOutside_logs hw kept).upTo (released_length hw kept)

theorem gainHolder_upTo (hw : tableWf s.owners = true) (d : Desk) (k : SlotId) (op : OpIndex) (permitted : AreaSet) (n : Nat) :
    s.LogsUpTo 65 (gainHolder d k op permitted n s) := by
  obtain ⟨ws, hlen, hlog, -⟩ := claimHome_logs (d := d)
    (s := enter { kind := .signOn, desk := some d, op := some op, d1 := some (slotDetail k 0), d2 := some n }
      (clearDue d ((s.setResult d k (.holder op)).putDeskState d (.attended k)))) (by rw [enter_owners]; exact hw) permitted
  exact State.LogsUpTo.trans (m := 1) (.enter _ rfl rfl) (hlog.upTo hlen)

/-- A desertion makes an abort, DESERTED, the releases and, if a companion is promoted, SIGN_ON and the claims (R93). -/
theorem desert_upTo (hw : tableWf s.owners = true) (d : Desk) (k : SlotId) (op : OpIndex) (cause : LossCause) :
    s.LogsUpTo 131 (desert d k op cause s) := by
  rw [desert]
  set s2 := enter _ (abortHandover d .holderLeft s) with hs2
  have hlog2 : s.LogsUpTo 2 s2 := (abortHandover_upTo s d .holderLeft).trans (n := 1) (.enter _ rfl rfl)
  have hw2 : tableWf s2.owners = true := ((abortHandover_quiet d .holderLeft s).trans (enter_quiet _ _)).owners hw
  have hrel := releaseOutside_upTo hw2 d 0
  have hw3 := (releaseOutside_quiet d 0 s2).owners hw2
  generalize releaseOutside d 0 s2 = r at *
  have hlog3 : s.LogsUpTo 66 (clearDue d (r.putDeskState d .vacant)) := (hlog2.trans hrel).congr rfl rfl
  cases s.promotable d k.other with
  | none => exact hlog3.mono (by decide)
  | some e => exact hlog3.trans (gainHolder_upTo (by exact hw3) d k.other e.1 e.2.areas 2)

theorem noted_length (entries : List Carried) : (noted entries).length ≤ entries.length := by
  rw [noted, List.length_map]
  exact (List.length_filter_le _ _).trans (List.length_filter_le _ _)

/-- A forced takeover makes HANDOVER_FORCED and at most two entries a re-alarm (R140). -/
theorem forcedTakeover_upTo (s : State) (d : Desk) (k : SlotId) {h : Handover} (hlen : h.carried.length ≤ 32) (inc : OpIndex)
    (cause : LossCause) : s.LogsUpTo 65 (forcedTakeover d k h inc cause s) := by
  have hnoted := noted_length h.carried
  rw [forcedTakeover]
  refine State.LogsUpTo.mono (State.LogsUpTo.trans (m := 1) ?_ (.foldl (n := 2) (fun s t => forcedRealarm_upTo s d t) _ _))
    (by omega)
  have hfirst (w : Draft) : s.LogsUpTo 1 (clearDue d ((enter w (s.setResult d k.other (.holder inc))).putDeskState d
      (.attended k.other))) := State.LogsUpTo.congr (t := enter w (s.setResult d k.other (.holder inc))) (.enter w rfl rfl) rfl rfl
  exact hfirst _

theorem incomingLeaves_upTo (s : State) (d : Desk) (k : SlotId) (cause : Nat) : s.LogsUpTo 1 (incomingLeaves d k cause s) := by
  rw [incomingLeaves]
  split
  · exact .enter _ rfl rfl
  · exact .of_eq rfl rfl

theorem loseKey_upTo (hw : tableWf s.owners = true) {d : Desk} (hlen : (s.carried d).length ≤ 32) (k : SlotId) (r : SignOn)
    (cause : LossCause) : s.LogsUpTo 131 (loseKey d k r cause s) := by
  cases r with
  | refused reason => exact .of_eq rfl rfl
  | companion op nq => exact .enter _ rfl rfl
  | incoming op => exact (incomingLeaves_upTo s d k _).mono (by decide)
  | holder op =>
    unfold loseKey
    dsimp only
    split
    · next h inc hst =>
      rw [State.carried, hst] at hlen
      exact (forcedTakeover_upTo s d k hlen inc cause).mono (by decide)
    · exact desert_upTo hw d k op cause

theorem revoke_upTo (hw : tableWf s.owners = true) {d : Desk} (hlen : (s.carried d).length ≤ 32) (k : SlotId)
    (reason : KeyRefusal) : s.LogsUpTo 131 (revoke d k reason s) := by
  rw [revoke]
  split
  · next r _ =>
    have hkept : ((s.setResult d k (.refused reason)).carried d) = s.carried d := by
      simp [State.carried, State.setResult, State.putSlotState, State.putSlot]
    exact (loseKey_upTo (s := s.setResult d k (.refused reason)) (by exact hw) (by rw [hkept]; exact hlen) k r _).from rfl rfl
  · exact .of_eq rfl rfl

end Keys

/-! ### The commands -/

section Commands
variable {s : State} (hw : tableWf s.owners = true)

theorem serveAssignArea_upTo (s : State) (x : Area × Option Desk) : s.LogsUpTo 1 (serveAssignArea x s).1 := by
  have hchange (o : Option Desk) : s.LogsUpTo 1 (changeOwner x.1 o s) := changeOwner_upTo s x.1 o
  have hsame : s.LogsUpTo 1 s := .of_eq rfl rfl
  rw [serveAssignArea]
  split
  · exact hsame
  · split
    · rw [accepted]
      split
      · exact hchange none
      · exact hsame
    · split
      · exact hsame
      · split
        · rw [accepted]
          split
          · exact hsame
          · exact hchange _
        · exact hsame

include hw

theorem applyConsequence_upTo {d : Desk} (hlen : (s.carried d).length ≤ 32) (k : SlotId) (i : OpIndex)
    (new : OperatorRecord) (c : Consequence) : s.LogsUpTo 131 (applyConsequence d k i new c s) := by
  cases c with
  | nothing => exact .of_eq rfl rfl
  | ends reason => exact revoke_upTo hw hlen k reason
  | releases => exact (releaseOutside_upTo hw d new.areas).mono (by decide)
  | disqualifies => exact State.LogsUpTo.mono (m := 1) ((incomingLeaves_upTo _ d k 5).from rfl rfl) (by decide)

theorem serveSetOperator_upTo (hc : s.CarriedLawful) (x : OpIndex × OperatorRecord) :
    s.LogsUpTo 132 (serveSetOperator x s).1 := by
  rw [serveSetOperator]
  split
  · exact .of_eq rfl rfl
  · rw [accepted, applySetOperator]
    split
    · exact .enter _ rfl rfl
    · split
      · exact .enter _ rfl rfl
      · next d k _ =>
        have hfirst (w : Draft) : s.LogsUpTo 1 (enter w { s with operators := tablePut s.operators x.1 x.2 }) :=
          .enter w rfl rfl
        refine (hfirst _).trans (applyConsequence_upTo (by rw [enter_owners]; exact hw) ?_ k _ _ _)
        rw [State.carried, enter_unit]
        exact (hc d).1

theorem serveClearOperator_upTo (hc : s.CarriedLawful) (i : OpIndex) : s.LogsUpTo 132 (serveClearOperator i s).1 := by
  rw [serveClearOperator]
  split
  · exact .of_eq rfl rfl
  · dsimp only
    split
    · exact .enter _ rfl rfl
    · next d k _ =>
      have hfirst (w : Draft) : s.LogsUpTo 1 (enter w { s with operators := tableErase s.operators i }) := .enter w rfl rfl
      refine (hfirst _).trans (revoke_upTo (by rw [enter_owners]; exact hw) ?_ k _)
      rw [State.carried, enter_unit]
      exact (hc d).1

theorem serveSetDesk_upTo (f : SetDeskFields) : s.LogsUpTo 67 (serveSetDesk f s).1 := by
  have hservice : s.LogsUpTo 67 (setService f.desk f.inService s) := by
    rw [setService]
    split
    · split
      · exact .of_eq rfl rfl
      · obtain ⟨ws, hlen, hlog, -⟩ := takeOutOfService_logs (d := f.desk) hw
        refine hlog.upTo ?_
        have habort : (abortLog f.desk 5 (s.unit f.desk)).length ≤ 1 := by
          rw [abortLog]
          cases (s.unit f.desk).state.handover? <;> simp
        simp only [List.length_append, signOffLog_length]
        split <;> split <;> omega
    · split
      · exact .of_eq rfl rfl
      · exact .of_eq rfl rfl
  obtain ⟨ws, hlen, hlog⟩ := hservice
  rw [serveSetDesk]
  split
  · exact .of_eq rfl rfl
  · exact (applySetDesk_logs hlog).upTo hlen

/-- A command that may change routing makes fewer entries than the ring holds (R178). -/
theorem commandServe_upTo (hc : s.CarriedLawful) {type : Byte} (h : routingType type = true) (body : List Byte) :
    s.LogsUpTo 132 (commandServe type body s).1 := by
  have hserved {α : Type} (read : Option α) {serve : α → Serve} (hs : ∀ x, s.LogsUpTo 132 (serve x s).1) :
      s.LogsUpTo 132 (served read serve s).1 := by
    cases read with
    | none => exact .of_eq rfl rfl
    | some x => exact hs x
  rw [routingType, decide_eq_true_eq] at h
  simp only [List.mem_cons, List.not_mem_nil, or_false] at h
  obtain rfl | rfl | rfl | rfl := h
  · exact hserved _ fun x => (serveAssignArea_upTo s x).mono (by decide)
  · exact hserved _ fun x => serveSetOperator_upTo hw hc x
  · exact hserved _ fun x => serveClearOperator_upTo hw hc x
  · exact hserved _ fun x => (serveSetDesk_upTo hw x).mono (by decide)

end Commands

end Sys2Proof.Machine
end

section
/-! PROOFS. No request's rule touches the latch, and none but RESET's ends the run (R195, R198). -/

namespace Sys2Proof.Machine

/-- The latch and the phase are as they were. -/
def State.Steady (s t : State) : Prop := t.command = s.command ∧ t.phase = s.phase

section Steady
variable {s t u : State}

theorem State.Steady.refl (s : State) : s.Steady s := ⟨rfl, rfl⟩

theorem State.Steady.trans (h : s.Steady t) (h' : t.Steady u) : s.Steady u := ⟨h'.1.trans h.1, h'.2.trans h.2⟩

theorem State.Quiet.steady (h : s.Quiet t) : s.Steady t := ⟨h.command, h.phase⟩

theorem enter_steady (w : Draft) (s : State) : s.Steady (enter w s) := (enter_quiet w s).steady

theorem served_steady {α : Type} {read : Option α} {serve : α → Serve} (h : ∀ x, s.Steady (serve x s).1) :
    s.Steady (served read serve s).1 := by
  cases read with
  | none => exact .refl s
  | some x => exact h x

/-! ### Points -/

theorem serveAck_steady (x : Desk × Tag) : s.Steady (serveAck x s).1 := by
  have hrefused (r : Reason) : s.Steady (ackRefusal x.1 x.2 r s).1 := enter_steady _ s
  rw [serveAck]
  split
  · exact hrefused _
  · split
    · exact hrefused _
    · split
      · exact hrefused _
      · split
        · exact (acknowledge_quiet _ _ _ _ s).steady
        · exact hrefused _

theorem serveSilence_steady (d : Desk) : s.Steady (serveSilence d s).1 := by
  rw [serveSilence]
  split
  · exact .refl s
  · exact (silenceDesk_quiet _ _ s).steady

theorem serveShelve_steady (x : Desk × Tag × Nat) : s.Steady (serveShelve x s).1 := by
  rw [serveShelve]
  split
  · exact .refl s
  · split
    · exact .refl s
    · split
      · exact .refl s
      · split
        · exact .refl s
        · exact ((enter_quiet _ s).trans (shelvePoint_quiet _ _ _ _ _)).steady

theorem serveUnshelve_steady (x : Desk × Tag) : s.Steady (serveUnshelve x s).1 := by
  rw [serveUnshelve]
  split
  · exact .refl s
  · split
    · exact ((enter_quiet _ s).trans (returnFromShelf_quiet _ _ _)).steady
    all_goals exact .refl s

theorem serveClearPoint_steady (t : Tag) : s.Steady (serveClearPoint t s).1 := by
  rw [serveClearPoint]
  split
  · exact .refl s
  · split <;> exact ⟨rfl, rfl⟩

/-! ### Operators and desks -/

theorem applyConsequence_steady (d : Desk) (k : SlotId) (i : OpIndex) (new : OperatorRecord) (c : Consequence) (s : State) :
    s.Steady (applyConsequence d k i new c s) := by
  cases c with
  | nothing => exact .refl s
  | ends reason => exact (revoke_quiet d k reason s).steady
  | releases => exact (releaseOutside_quiet d _ s).steady
  | disqualifies => exact ((setResult_quiet d k _ s).trans (incomingLeaves_quiet d k 5 _)).steady

theorem serveSetOperator_steady (x : OpIndex × OperatorRecord) : s.Steady (serveSetOperator x s).1 := by
  have hput (w : Draft) : s.Steady (enter w { s with operators := tablePut s.operators x.1 x.2 }) :=
    State.Steady.trans (t := { s with operators := tablePut s.operators x.1 x.2 }) ⟨rfl, rfl⟩ (enter_steady w _)
  rw [serveSetOperator]
  split
  · exact .refl s
  · rw [accepted, applySetOperator]
    split
    · exact hput _
    · split
      · exact hput _
      · exact (hput _).trans (applyConsequence_steady _ _ _ _ _ _)

theorem serveClearOperator_steady (i : OpIndex) : s.Steady (serveClearOperator i s).1 := by
  have hput (w : Draft) : s.Steady (enter w { s with operators := tableErase s.operators i }) :=
    State.Steady.trans (t := { s with operators := tableErase s.operators i }) ⟨rfl, rfl⟩ (enter_steady w _)
  rw [serveClearOperator]
  split
  · exact .refl s
  · dsimp only
    split
    · exact hput _
    · exact (hput _).trans (revoke_quiet _ _ _ _).steady

theorem serveSetDesk_steady (f : SetDeskFields) : s.Steady (serveSetDesk f s).1 := by
  have hservice : s.Steady (setService f.desk f.inService s) := by
    rw [setService]
    split
    · split
      · exact .refl s
      · exact (takeOutOfService_quiet _ s).steady
    · split
      · exact (returnToService_quiet _ s).steady
      · exact .refl s
  rw [serveSetDesk]
  split
  · exact .refl s
  · rw [applySetDesk_eq]
    exact hservice

/-! ### Handovers -/

theorem companionAtOpening_steady (d : Desk) (k : SlotId) (h : Handover) (s : State) :
    s.Steady (companionAtOpening d k h s) := by
  rw [companionAtOpening]
  split
  · split
    · split
      · exact ⟨enter_command _ _, enter_phase _ _⟩
      · exact .refl s
    · exact .refl s
  · exact .refl s

theorem serveHandoverOpen_steady (d : Desk) : s.Steady (serveHandoverOpen d s).1 := by
  rw [serveHandoverOpen]
  split
  · exact .refl s
  · next k op _ =>
    have hopened (w : Draft) (h : Handover) : s.Steady (enter w (s.putDeskState d (.handoverOpen k h))) :=
      ⟨enter_command _ _, enter_phase _ _⟩
    exact (hopened _ _).trans (companionAtOpening_steady _ _ _ _)

theorem serveHandoverCancel_steady (d : Desk) : s.Steady (serveHandoverCancel d s).1 := by
  rw [serveHandoverCancel]
  split
  · exact .refl s
  · exact (abortHandover_quiet _ _ s).steady

theorem serveHandoverCommit_steady (d : Desk) : s.Steady (serveHandoverCommit d s).1 := by
  rw [serveHandoverCommit]
  split
  · exact .refl s
  · exact ⟨enter_command _ _, enter_phase _ _⟩

theorem serveBrief_steady (x : Desk × Tag) : s.Steady (serveBrief x s).1 := by
  rw [serveBrief]
  split
  · split
    · dsimp only
      split
      · exact .refl s
      · exact (briefEntry_quiet _ _ _ _ s).steady
    · exact .refl s
  all_goals exact .refl s

/-! ### Time and settings -/

theorem moveForward_steady (c : MillClock) (d : Nat) (e : Option Draft) (s : State) : s.Steady (moveForward c d e s) := by
  have hfrom (n m : Nat) (s : State) : s.Steady (fireFrom m n s) := by
    induction n generalizing m s with
    | zero => exact .refl s
    | succ n ih =>
      refine State.Steady.trans (t := fireBoundary m s) ?_ (ih _ _)
      rw [fireBoundary_rest]
      exact ⟨rfl, rfl⟩
  cases e with
  | none => exact State.Steady.trans (t := moveMill (millAt (c.now.position + d)) s) ⟨rfl, rfl⟩ (hfrom _ _ _)
  | some w =>
    exact State.Steady.trans (t := enter w (moveMill (millAt (c.now.position + d)) s))
      ⟨enter_command _ _, enter_phase _ _⟩ (hfrom _ _ _)

theorem serveTimeMark_steady (t : MillTime) : s.Steady (serveTimeMark t s).1 := by
  have hkeep (d : Int) (cls : MarkClass) : s.Steady (keepTime d cls s).1 := enter_steady _ s
  have htake (c : MillClock) (d : Int) (cls : MarkClass) (e : Option Draft) : s.Steady (takeMark c t d cls e s).1 := by
    rw [takeMark]
    split
    · cases e with
      | none => exact ⟨rfl, rfl⟩
      | some w => exact ⟨enter_command _ _, enter_phase _ _⟩
    · exact moveForward_steady c _ e s
  rw [serveTimeMark, timeMark]
  dsimp only
  split
  · rw [markUnset]
    split
    · exact enter_steady _ s
    · exact ⟨enter_command _ _, enter_phase _ _⟩
  · rw [markSet]
    split
    · exact hkeep _ _
    · split
      · exact hkeep _ _
      · exact htake _ _ _ _
      · exact htake _ _ _ _
      · exact htake _ _ _ _

theorem serveAttnControl_steady (x : ClassSet × Bool × ClearMode) : s.Steady (serveAttnControl x s).1 := by
  rw [serveAttnControl]
  dsimp only
  split <;> exact ⟨rfl, rfl⟩

theorem serveStoreSave_steady : s.Steady (serveStoreSave () s).1 := by
  rw [serveStoreSave]
  split <;> exact ⟨rfl, rfl⟩

/-- A rule that touches neither the latch nor the phase. -/
def Serve.Steady (serve : Serve) : Prop := ∀ s, State.Steady s (serve s).1

/-- RESET alone changes the phase (R198). -/
theorem commandServe_steady {type : Byte} (h : type ≠ 23) (body : List Byte) : (commandServe type body).Steady := by
  rw [commandServe]
  split
  · exact fun s => served_steady fun x => (applySetPoint_quiet x.1 x.2 s).steady
  · exact fun s => served_steady serveClearPoint_steady
  · exact fun s => served_steady fun x => (serveAssignArea_quiet x s).steady
  · exact fun s => served_steady serveSetOperator_steady
  · exact fun s => served_steady serveClearOperator_steady
  · exact fun s => served_steady serveAck_steady
  · exact fun s => served_steady serveSilence_steady
  · exact fun s => served_steady serveShelve_steady
  · exact fun s => served_steady serveUnshelve_steady
  · exact fun s => served_steady serveHandoverOpen_steady
  · exact fun s => served_steady serveHandoverCancel_steady
  · exact fun s => served_steady serveHandoverCommit_steady
  · exact fun s => served_steady serveBrief_steady
  · exact fun s => served_steady serveTimeMark_steady
  · exact fun s => served_steady fun _ => ⟨rfl, rfl⟩
  · exact fun s => served_steady serveSetDesk_steady
  · exact fun s => served_steady fun _ => ⟨rfl, rfl⟩
  · exact fun s => served_steady fun _ => ⟨rfl, rfl⟩
  · exact fun s => served_steady serveAttnControl_steady
  · exact fun s => served_steady fun _ => ⟨rfl, rfl⟩
  · exact fun s => served_steady fun _ => serveStoreSave_steady
  · next h23 => exact absurd (BitVec.eq_of_toNat_eq h23) h
  · exact fun s => .refl s

theorem commandServe_command (s : State) (type : Byte) (body : List Byte) :
    (commandServe type body s).1.command = s.command := by
  by_cases h : type = 23
  · subst h
    show (served (readNothing body) serveReset s).1.command = s.command
    cases readNothing body <;> rfl
  · exact (commandServe_steady h body s).1

end Steady

end Sys2Proof.Machine
end

section
/-! PROOFS. The first frame of a latched link: the latch, then the frame carried out as on a link already latched (R195,
R197; log 13). -/

namespace Sys2Proof.Machine

/-! ### A frame once its link is latched -/

/-- What the rule of a frame's type does once the link is latched and heard and routing is worked out (R195, R197). -/
def latchedServe (l : Link) (type : Byte) (body : List Byte) : Serve :=
  if type = 22 then served (readNothing body) fun _ => accepted
  else if commandType type then commandServe type body
  else queryServe l type body

theorem latchedServe_heedless (l : Link) (type : Byte) (body : List Byte) : (latchedServe l type body).Heedless := by
  rw [latchedServe]
  split
  · exact served_heedless _ fun _ _ _ => rfl
  · split
    · exact commandServe_heedless type body
    · exact queryServe_heedless l type body

/-- The answer goes out after the effect; that to an accepted RESET is marked (R193, R198). -/
def answered (l : Link) (type tag : Byte) (r : State × Answer) : State :=
  answer l (if r.1.phase = .closing then .resetReply else .reply) type tag r.2 r.1

section Frame
variable {s u v w : State} {l : Link} {type tag : Byte} {body : List Byte} {first : Draft}

theorem exec_frame (h : s.canTake l) : exec (frameCommand l type tag body) s =
    .next (answered l type tag (frameServe l type body (takeOpportunity l (setReceiver l .hunting s)))) := by
  rw [exec_frameCommand, takeFrame_eq h]
  rfl

theorem answered_command (r : State × Answer) : (answered l type tag r).command = r.1.command := rfl

theorem answered_reply (x : State) (a : Answer) (h : x.phase ≠ .closing) :
    ∃ status reason reply, a.body = status :: reason :: reply ∧
      answered l type tag (x, a) = x.replies l type tag status reason reply := by
  have hbody : ∃ status reason reply, a.body = status :: reason :: reply := by cases a <;> exact ⟨_, _, _, rfl⟩
  obtain ⟨status, reason, reply, hbody⟩ := hbody
  refine ⟨status, reason, reply, hbody, ?_⟩
  rw [answered, if_neg h]
  exact answer_reply l type tag a x hbody

/-- A state in which a frame on a latched link is served as it stands: the link hunts, has taken its opportunity to send
and its silence timer is fresh (R187, R191, R197). -/
def State.Settled (l : Link) (w : State) : Prop :=
  takeOpportunity l (setReceiver l .hunting w) = w ∧ latch l w = some w ∧ heard l w = w

theorem frameServe_settled (h : w.Settled l) (hr : routingType type = false) :
    frameServe l type body w = latchedServe l type body w := by
  obtain ⟨-, hlatch, hheard⟩ := h
  have hroute : reroute w w = w := reroute_eq fun _ => rfl
  rw [frameServe, hr, latchedServe, if_neg Bool.false_ne_true]
  split
  · rw [serveTakeCommand, hlatch]
    dsimp only
    rw [hroute]
  · split
    · rw [asCommand, hlatch]
      dsimp only
      rw [hroute]
    · rw [asQuery, hheard, hroute]

theorem frameServe_settled_routing (h : w.Settled l) (hr : routingType type = true) :
    frameServe l type body w = (reroute w (commandServe type body w).1, (commandServe type body w).2) := by
  obtain ⟨-, hlatch, -⟩ := h
  rw [frameServe, if_pos hr, asRoutingCommand, hlatch]

/-! ### The latch made or LOCAL left -/

/-- The latch with its entry, the silence timer started (R195, R197). -/
def State.latchedBy (l : Link) (first : Draft) (u : State) : State :=
  enter first { u with command := .latched l u.silenceExpiry }

/-- The first command of the part, or the next frame on the link of LOCAL, with the entry it makes (R195, R197). -/
def State.FirstFrame (l : Link) (type : Byte) (first : Draft) (s : State) : Prop :=
  s.command = .unlatched ∧ (commandType type = true ∨ type = 22) ∧
      first = { kind := .takeCommand, d1 := some l.code, d2 := some 1 } ∨
    ∃ lostAt, s.command = .lost l lostAt ∧
      first = { kind := .linkBack, d1 := some l.code, d2 := some (min 65535 (s.runSeconds - lostAt).toNat) }

theorem latch_first (h : u.FirstFrame l type first) : latch l u = some (u.latchedBy l first) := by
  obtain ⟨hcom, -, rfl⟩ | ⟨lostAt, hcom, rfl⟩ := h
  · rw [latch, State.commandLink, hcom]
    rfl
  · rw [latch, State.commandLink, hcom]
    dsimp only
    rw [if_pos rfl, heard_lost hcom]
    rfl

theorem heard_first (h : u.FirstFrame l type first) (hq : commandType type = false) (h22 : type ≠ 22) :
    heard l u = u.latchedBy l first := by
  obtain ⟨-, hcom | hcom, -⟩ | ⟨lostAt, hcom, rfl⟩ := h
  · rw [hq] at hcom; cases hcom
  · exact absurd hcom h22
  · exact heard_lost hcom

theorem frameServe_first (h : u.FirstFrame l type first) (hr : routingType type = false) :
    frameServe l type body u = latchedServe l type body (reroute u (u.latchedBy l first)) := by
  rw [frameServe, hr, latchedServe, if_neg Bool.false_ne_true]
  split
  · rw [serveTakeCommand, latch_first h]
  · split
    · rw [asCommand, latch_first h]
    · next h22 hq => rw [asQuery, heard_first h (by simpa using hq) h22]

theorem frameServe_first_routing (h : u.FirstFrame l type first) (hr : routingType type = true) :
    frameServe l type body u = (reroute u (commandServe type body (u.latchedBy l first)).1,
      (commandServe type body (u.latchedBy l first)).2) := by
  rw [frameServe, if_pos hr, asRoutingCommand, latch_first h]

/-! ### The notice-waiting mark set aside -/

/-- A link's notice-waiting mark set aside. -/
def State.aside (l : Link) (v : State) : State := v.putLink l { v.link l with notice := false }

/-- The mark a state has put on again. -/
def State.restored (l : Link) (v t : State) : State :=
  t.putLink l { t.link l with notice := (v.link l).notice || (t.link l).notice }

theorem noticeOn_aside (h : (v.link l).notice = true) : (v.aside l).noticeOn l = v := by
  have hput : (v.aside l).noticeOn l = v.putLink l { v.link l with notice := true } := by cases l <;> rfl
  rw [hput, ← h]
  cases l <;> rfl

theorem aside_eq (h : (v.link l).notice = false) : v.aside l = v := by
  rw [State.aside, ← h]
  cases l <;> rfl

theorem restored_on (h : (v.link l).notice = true) (t : State) : v.restored l t = t.noticeOn l := by
  rw [State.restored, h, Bool.true_or]
  rfl

theorem restored_off (h : (v.link l).notice = false) (t : State) : v.restored l t = t := by
  rw [State.restored, h, Bool.false_or]
  cases l <;> rfl

/-- A rule that heeds no notice does with the mark set aside what it does with it (R187). -/
theorem heedless_restored {serve : Serve} (h : serve.Heedless) (l : Link) (v : State) :
    serve v = (v.restored l (serve (v.aside l)).1, (serve (v.aside l)).2) := by
  cases hn : (v.link l).notice with
  | true => rw [restored_on hn, ← h l (v.aside l), noticeOn_aside hn]
  | false => rw [restored_off hn, aside_eq hn]

theorem answered_noticeOn (r : State × Answer) :
    answered l type tag (r.1.noticeOn l, r.2) = (answered l type tag r).noticeOn l := by
  have hoffer (f : OutFrame) (x : SupLink) : ({ x with notice := true } : SupLink).offer f = { x.offer f with notice := true } := by
    simp only [SupLink.offer]
    split <;> rfl
  have hlink : (r.1.noticeOn l).link l = { r.1.link l with notice := true } := State.link_putLink_self _ _ _
  rw [answered, answered, answer, answer, hlink, hoffer]
  cases l <;> rfl

theorem answered_restored (r : State × Answer) :
    answered l type tag (v.restored l r.1, r.2) = v.restored l (answered l type tag r) := by
  cases hn : (v.link l).notice with
  | true => rw [restored_on hn, restored_on hn, answered_noticeOn]
  | false => rw [restored_off hn, restored_off hn]

end Frame

/-! ### The states in which the frame is served -/

section Served
variable {s v : State} {l : Link} {first : Draft}

/-- The state in which the link is latched: it hunts and has taken its opportunity to send. -/
def State.taking (l : Link) (s : State) : State := takeOpportunity l (setReceiver l .hunting s)

theorem FirstFrame.listening {type : Byte} (h : s.FirstFrame l type first) : s.listening l = s.taking l := by
  rw [State.listening, State.timerRestarted]
  obtain ⟨hcom, -, -⟩ | ⟨lostAt, hcom, -⟩ := h
  · simp only [takeOpportunity_command, setReceiver_command, hcom]
    rfl
  · simp only [takeOpportunity_command, setReceiver_command, hcom]
    rfl

theorem taking_link (s : State) (l : Link) : ∃ x : SupLink, x.taken = (s.link l).taken ∧ x.receiver = .hunting ∧
    (x.sending = none → x.waiting = []) ∧ (s.taking l).link l = x := by
  have hlink : (s.taking l).link l = ({ s.link l with receiver := .hunting } : SupLink).opportunity s.noticeClasses := by
    rw [State.taking, takeOpportunity, State.link_putLink_self, setReceiver_link]
    rfl
  have hhunting (x : SupLink) (c : ClassSet) : (x.opportunity c).receiver = x.receiver := by
    have hstart (y : SupLink) : y.startWaiting.receiver = y.receiver := by
      cases hw : y.waiting <;> simp [SupLink.startWaiting, hw]
    rw [SupLink.opportunity]
    split
    · rfl
    · split
      · split
        · rfl
        · exact hstart _
      · exact hstart x
  exact ⟨_, opportunity_taken s.noticeClasses { s.link l with receiver := .hunting }, hhunting _ _, opportunity_idle, hlink⟩

/-- Quiet changes after the latch leave a state in which, the notice set aside, a frame is served as it stands. -/
theorem aside_settled (hcan : s.canTake l)
    (hv : State.Quiet { s.taking l with command := .latched l (s.taking l).silenceExpiry } v) :
    (v.aside l).Settled l ∧ (v.aside l).commands l := by
  obtain ⟨x, htaken, hhunt, hidle, hlink⟩ := taking_link s l
  have hvlink : v.link l = { x with notice := (v.link l).notice } := by
    rw [← hlink]
    exact hv.links l
  have hwlink : (v.aside l).link l = { x with notice := false } := by
    rw [State.aside, State.link_putLink_self, hvlink]
  have hcom : (v.aside l).command = .latched l (v.aside l).silenceExpiry := by
    have hrest := hv.rest
    show v.command = .latched l v.silenceExpiry
    rw [hrest]
    rfl
  have hself (w : State) : w.putLink l (w.link l) = w := by cases l <;> rfl
  have hheard : heard l (v.aside l) = v.aside l := by
    rw [heard, hcom]
    dsimp only
    rw [if_pos rfl, ← hcom]
  refine ⟨⟨?_, ?_, hheard⟩, ⟨?_, ?_⟩, _, hcom⟩
  · rw [setReceiver_same (by rw [hwlink]; exact hhunt), takeOpportunity, hwlink]
    have hopportunity (c : ClassSet) : ({ x with notice := false } : SupLink).opportunity c = { x with notice := false } := by
      rw [SupLink.opportunity]
      cases hsend : x.sending with
      | some f => rfl
      | none => simp [SupLink.startWaiting, hidle hsend]
    rw [hopportunity, ← hwlink, hself]
  · rw [latch, State.commandLink, hcom]
    dsimp only
    rw [if_pos rfl, hheard]
  · show v.phase = .running
    rw [hv.phase]
    exact hcan.1
  · rw [hwlink]
    exact htaken.trans_lt hcan.2

end Served

end Sys2Proof.Machine
end

section
/-! PROOFS. The command-link latch (O57). -/

namespace Sys2Proof.Machine

/-! ### TAKE_COMMAND -/

section TakeCommand
variable {s t : State} {l c : Link} {tag : Byte}

/-- In LOCAL no silence timer runs (R197). -/
theorem listening_local {lostAt : Word32} (hcom : s.command = .lost c lostAt) : s.listening l = s.taking l := by
  rw [State.listening, State.timerRestarted, takeOpportunity_command, setReceiver_command, hcom]
  rfl

/-- TAKE_COMMAND is served in the state in which its link hunts and has taken its opportunity to send (R195, R196). -/
theorem takeCommand_served {a : Answer} {status reason : Byte} {reply : List Byte} (h : s.canTake l)
    (hs : serveTakeCommand l [] (s.taking l) = (t, a)) (hp : t.phase = s.phase) (ha : a.body = status :: reason :: reply) :
    exec (.takeCommand l tag []) s = .next (t.replies l 22 tag status reason reply) := by
  refine congrArg Host.Outcome.next ?_
  rw [takeTakeCommand, takeFrame_eq h]
  exact handle_eq l 22 tag _ _ hs (by rw [hp, h.1]; exact Phase.noConfusion) ha

theorem serveTakeCommand_latch {u v : State} (h : latch l u = some v) : serveTakeCommand l [] u = (reroute u v, .ok []) := by
  rw [serveTakeCommand, h]
  rfl

theorem taking_command : (s.taking l).command = s.command := rfl

/-- A first link latched, or LOCAL left on its link (R195, R197). -/
theorem takeCommand_first {first : Draft} (h : s.canTake l) (hfirst : s.FirstFrame l 22 first) :
    exec (.takeCommand l tag []) s =
      .next ((reroute (s.taking l) ((s.taking l).latchedBy l first)).replies l 22 tag 0 0 []) := by
  refine takeCommand_served h (serveTakeCommand_latch (latch_first (u := s.taking l) hfirst)) ?_ rfl
  rw [(reroute_quiet _ _).phase, State.latchedBy, enter_phase]
  rfl

/-- The latch moved in LOCAL (R196). -/
theorem takeCommand_moved {lostAt : Word32} (h : s.canTake l) (hcom : s.command = .lost c lostAt) (hne : c ≠ l) :
    exec (.takeCommand l tag []) s = .next ((reroute (s.taking l) ((s.taking l).latchedBy l
      { kind := .takeCommand, d1 := some l.code, d2 := some 2 })).replies l 22 tag 0 0 []) := by
  refine takeCommand_served h (a := .ok []) ?_ ?_ rfl
  · have hlatch : latch l (s.taking l) = none := by
      rw [latch, State.commandLink, taking_command, hcom]
      exact if_neg hne
    have hlocal : (s.taking l).isLocal = true := by rw [State.isLocal, taking_command, hcom]
    rw [serveTakeCommand, hlatch]
    show moveLatch l (s.taking l) = _
    rw [moveLatch, if_pos hlocal]
    rfl
  · rw [(reroute_quiet _ _).phase, State.latchedBy, enter_phase]
    rfl

/-- On the latched command link nothing changes but the silence timer (R195, R197). -/
theorem takeCommand_held {expiry : Word32} (h : s.canTake l) (hcom : s.command = .latched l expiry) :
    exec (.takeCommand l tag []) s = .next ((s.listening l).replies l 22 tag 0 0 []) := by
  refine takeCommand_served h (a := .ok []) ?_ (listening_phase l s) rfl
  have hlatch : latch l (s.taking l) = some (heard l (s.taking l)) := by
    rw [latch, State.commandLink, taking_command, hcom]
    exact if_pos rfl
  rw [serveTakeCommand_latch hlatch, reroute_heard (by rw [taking_command, hcom]; exact fun _ => CommandState.noConfusion)]
  rfl

/-- Off the latched command link the latch stays (R196). -/
theorem takeCommand_refused {expiry : Word32} (h : s.canTake l) (hcom : s.command = .latched c expiry) (hne : c ≠ l) :
    exec (.takeCommand l tag []) s = .next ((s.listening l).replies l 22 tag 4 13 []) := by
  have hlisten : s.listening l = s.taking l := by
    rw [State.listening, State.timerRestarted, takeOpportunity_command, setReceiver_command, hcom]
    exact if_neg hne
  rw [hlisten]
  refine takeCommand_served h (a := .refused .notLocal) ?_ rfl rfl
  have hlatch : latch l (s.taking l) = none := by
    rw [latch, State.commandLink, taking_command, hcom]
    exact if_neg hne
  have hlocal : (s.taking l).isLocal = false := by rw [State.isLocal, taking_command, hcom]
  rw [serveTakeCommand, hlatch]
  show moveLatch l (s.taking l) = _
  rw [moveLatch, hlocal]
  rfl

end TakeCommand

/-! ### The first frame -/

section First
variable {s : State} {l : Link} {type tag : Byte} {body : List Byte} {first : Draft}

theorem exec_first (hcan : s.canTake l) (h : s.FirstFrame l type first) (hr : routingType type = false) :
    exec (frameCommand l type tag body) s = .next (answered l type tag
      (latchedServe l type body (reroute (s.taking l) ((s.taking l).latchedBy l first)))) := by
  rw [exec_frame hcan]
  exact congrArg (fun r => Host.Outcome.next (answered l type tag r)) (frameServe_first (u := s.taking l) h hr)

theorem exec_first_routing (hcan : s.canTake l) (h : s.FirstFrame l type first) (hr : routingType type = true) :
    exec (frameCommand l type tag body) s = .next (answered l type tag
      (reroute (s.taking l) (commandServe type body ((s.taking l).latchedBy l first)).1,
        (commandServe type body ((s.taking l).latchedBy l first)).2)) := by
  rw [exec_frame hcan]
  exact congrArg (fun r => Host.Outcome.next (answered l type tag r)) (frameServe_first_routing (u := s.taking l) h hr)

theorem latchedBy_quiet (l : Link) (first : Draft) (u : State) :
    State.Quiet { u with command := .latched l u.silenceExpiry } (u.latchedBy l first) := enter_quiet first _

/-- The first frame latches its link (R195). -/
theorem first_latches (hcan : s.canTake l) (h : s.FirstFrame l type first) (hcom : commandType type = true ∨ type = 22) :
    ∃ t, exec (frameCommand l type tag body) s = .next t ∧
      t.command = .latched l (s.runSeconds + BitVec.ofNat 32 s.limits.silenceTime) := by
  have hlatched : ((s.taking l).latchedBy l first).command =
      .latched l (s.runSeconds + BitVec.ofNat 32 s.limits.silenceTime) := (latchedBy_quiet l first _).command
  cases hr : routingType type with
  | true =>
    refine ⟨_, exec_first_routing hcan h hr, ?_⟩
    rw [answered_command, (reroute_quiet _ _).command, commandServe_command, hlatched]
  | false =>
    refine ⟨_, exec_first hcan h hr, ?_⟩
    have hserve (w : State) : (latchedServe l type body w).1.command = w.command := by
      rw [latchedServe]
      split
      · cases readNothing body <;> rfl
      · next h22 =>
        rw [if_pos (hcom.resolve_right h22)]
        exact commandServe_command w type body
    rw [answered_command, hserve, (reroute_quiet _ _).command, hlatched]

/-- A first frame of a type that changes no routing is carried out as on a link already latched, the notice set aside
(R195, R197). -/
theorem first_carriedOut (hcan : s.canTake l) (h : s.FirstFrame l type first) (hr : routingType type = false) :
    ∃ t, exec (frameCommand l type tag body) ((reroute (s.taking l) ((s.taking l).latchedBy l first)).aside l) = .next t ∧
      exec (frameCommand l type tag body) s =
        .next ((reroute (s.taking l) ((s.taking l).latchedBy l first)).restored l t) := by
  obtain ⟨hsettled, hcommands, -⟩ := aside_settled hcan ((latchedBy_quiet l first (s.taking l)).trans (reroute_quiet (s.taking l) _))
  rw [exec_first hcan h hr]
  generalize reroute (s.taking l) ((s.taking l).latchedBy l first) = v at *
  refine ⟨_, exec_frame hcommands, ?_⟩
  have hserve : frameServe l type body (takeOpportunity l (setReceiver l .hunting (v.aside l))) =
      latchedServe l type body (v.aside l) := by rw [hsettled.1, frameServe_settled hsettled hr]
  rw [hserve, heedless_restored (latchedServe_heedless l type body) l v, answered_restored]

/-- A first frame of a type that may change routing is carried out as on a link already latched, routing being worked out
once at the end (log 13). -/
theorem first_carriedOut_routing (hcan : s.canTake l) (h : s.FirstFrame l type first) (hr : routingType type = true) :
    ∃ x status reason reply,
      exec (frameCommand l type tag body) (((s.taking l).latchedBy l first).aside l) =
        .next ((reroute ((s.taking l).latchedBy l first) x).replies l type tag status reason reply) ∧
      exec (frameCommand l type tag body) s = .next ((reroute (s.taking l)
        (((s.taking l).latchedBy l first).restored l x)).replies l type tag status reason reply) ∧
      x = (commandServe type body (((s.taking l).latchedBy l first).aside l)).1 := by
  have hquiet := latchedBy_quiet l first (s.taking l)
  obtain ⟨hsettled, hcommands, -⟩ := aside_settled hcan hquiet
  have hexec := exec_first_routing (tag := tag) (body := body) hcan h hr
  have hrunning : ((s.taking l).latchedBy l first).phase = .running := hquiet.phase.trans hcan.1
  generalize hv : (s.taking l).latchedBy l first = v at *
  have hsteady : (commandServe type body (v.aside l)).1.phase = .running := by
    have h23 : type ≠ 23 := by rintro rfl; exact absurd hr (by decide)
    exact (commandServe_steady h23 body (v.aside l)).2.trans hrunning
  rw [heedless_restored (commandServe_heedless type body) l v] at hexec
  have haside := exec_frame (type := type) (tag := tag) (body := body) hcommands
  rw [hsettled.1, frameServe_settled_routing hsettled hr] at haside
  generalize commandServe type body (v.aside l) = r at *
  obtain ⟨x, a⟩ := r
  have hphase (b y : State) (hy : y.phase = .running) : (reroute b y).phase ≠ .closing := by
    rw [(reroute_quiet b y).phase, hy]
    exact Phase.noConfusion
  obtain ⟨status, reason, reply, hbody, hanswer⟩ := answered_reply (l := l) (type := type) (tag := tag)
    (reroute (v.aside l) x) a (hphase _ _ hsteady)
  obtain ⟨status', reason', reply', hbody', hanswer'⟩ := answered_reply (l := l) (type := type) (tag := tag)
    (reroute (s.taking l) (v.restored l x)) a (hphase _ _ hsteady)
  have hsame : status' = status ∧ reason' = reason ∧ reply' = reply := by
    rw [hbody] at hbody'
    simpa [eq_comm] using hbody'
  obtain ⟨rfl, rfl, rfl⟩ := hsame
  have hroute : reroute (v.aside l) x = reroute v x := reroute_before_congr fun _ => rfl
  exact ⟨x, status', reason', reply', haside.trans (by rw [← hroute, hanswer]),
    hexec.trans (congrArg Host.Outcome.next hanswer'), rfl⟩

/-- The entry of the latch is retained (R178). -/
theorem first_records {x : State} (hr : routingType type = true) (hw : tableWf s.owners = true) (hc : s.CarriedLawful)
    (hx : x = (commandServe type body (((s.taking l).latchedBy l first).aside l)).1) :
    (reroute (s.taking l) (((s.taking l).latchedBy l first).restored l x)).records s.nextSeq first := by
  have hquiet := latchedBy_quiet l first (s.taking l)
  have hlatch : s.Logs ((s.taking l).latchedBy l first) [first] := State.Logs.enter_after rfl rfl
  have hw' : tableWf ((s.taking l).latchedBy l first).owners = true := hquiet.owners hw
  have hunit : ((s.taking l).latchedBy l first).unit = s.unit := by
    funext d
    exact enter_unit _ _ d
  generalize (s.taking l).latchedBy l first = v at *
  have hc' : (v.aside l).CarriedLawful := by
    intro d
    have hsame : (v.aside l).unit d = s.unit d := congrFun hunit d
    rw [State.carried, hsame]
    exact hc d
  obtain ⟨ws, hlen, hlog⟩ := commandServe_upTo (s := v.aside l) hw' hc' hr body
  rw [← hx] at hlog
  obtain ⟨vs, hlen', hlog'⟩ := reroute_logs (s.taking l) (v.restored l x)
  have hall : s.Logs (reroute (s.taking l) (v.restored l x)) ([first] ++ (ws ++ vs)) := by
    have haside : v.Logs (v.aside l) [] := .of_eq rfl rfl
    have hrestored : (v.aside l).Logs (v.restored l x) ws := hlog.congr rfl rfl
    exact hlatch.trans ((haside.trans hrestored).trans hlog')
  exact State.Logs.records_head (ws := ws ++ vs) hall (by rw [List.length_append]; omega)

end First

/-- Settles O57: a first frame latches its link or leaves LOCAL, and is then served as on a latched link, since no rule heeds the
notice the latch raises. -/
theorem commandLinkTaken : Obligations.CommandLinkTaken := by
  unfold Obligations.CommandLinkTaken
  refine ⟨fun s l tag hcan => ?_, fun s l type tag body hcan hcom htype => ?_, fun s l type tag body first hcan h => ?_⟩
  · have hserved (first : Draft) (hlisten : s.listening l = s.taking l)
        (h : exec (.takeCommand l tag []) s =
          .next ((reroute (s.taking l) ((s.taking l).latchedBy l first)).replies l 22 tag 0 0 [])) :
        exec (.takeCommand l tag []) s = .next ((reroute (s.listening l) (enter first { s.listening l with
          command := .latched l (s.runSeconds + BitVec.ofNat 32 s.limits.silenceTime) })).replies l 22 tag 0 0 []) := by
      rw [hlisten]
      exact h
    have hfirst (first : Draft) (h : s.FirstFrame l 22 first) := hserved first (FirstFrame.listening h) (takeCommand_first hcan h)
    exact ⟨fun hcom => hfirst _ (.inl ⟨hcom, .inr rfl, rfl⟩),
      fun c t hcom hne => hserved _ (listening_local hcom) (takeCommand_moved hcan hcom hne),
      fun t hcom => takeCommand_held hcan hcom, fun lostAt hcom => hfirst _ (.inr ⟨lostAt, hcom, rfl⟩),
      fun c t hcom hne => takeCommand_refused hcan hcom hne⟩
  · obtain ⟨t, hexec, ht⟩ := first_latches (tag := tag) (body := body) hcan (.inl ⟨hcom, htype, rfl⟩) htype
    exact ⟨t, hexec, ht, by rw [State.isLocal, ht]⟩
  · intro sent u latched aside restored
    have hu : u = s.taking l := FirstFrame.listening h
    have hlatched : latched = (s.taking l).latchedBy l first := by
      simp only [latched, hu]
      rfl
    clear_value latched u
    subst hu hlatched
    have hquiet := latchedBy_quiet l first (s.taking l)
    refine ⟨(State.Logs.enter_after rfl rfl : s.Logs ((s.taking l).latchedBy l first) [first]).records_head (by decide),
      (aside_settled hcan hquiet).2, (aside_settled hcan (hquiet.trans (reroute_quiet _ _))).2, fun hr => ?_, fun hr => ?_⟩
    · exact first_carriedOut hcan h (decide_eq_false hr)
    · obtain ⟨x, status, reason, reply, haside, hexec, hx⟩ :=
        first_carriedOut_routing (tag := tag) (body := body) hcan h (decide_eq_true hr)
      exact ⟨x, status, reason, reply, haside, hexec, fun hw hc => first_records (decide_eq_true hr) hw hc hx⟩

end Sys2Proof.Machine
end
